-- ==== Sys2Proof/Word.lean ====
section
/-!
DEFINITION. Words, bytes and fixed tables.

The widths are the manual's own: bytes on the trunk and the lines (R1), 16-bit status words and
report values (R17, R45), 32-bit counts and room tags (R7, R42, R61). A table is a fixed number of
places (node table, rule table, rooms, suites, scenes, sources); `look` and `put` are its only
operations.
-/

namespace Sys2Proof

abbrev Byte := BitVec 8
abbrev Half := BitVec 16
abbrev Word := BitVec 32

/-- The contents of one place of a table. -/
def look {n : Nat} {α : Type} (t : Vector α n) (i : Fin n) : α := t.get i

/-- The table with one place replaced. -/
def put {n : Nat} {α : Type} (t : Vector α n) (i : Fin n) (x : α) : Vector α n := t.set i.val x i.isLt

/-- A table all of whose places hold `x`. -/
def filled (n : Nat) {α : Type} (x : α) : Vector α n := Vector.replicate n x

end Sys2Proof
end

