-- ==== Sys2Proof/Syntax.lean ====
section
/-!
DEFINITION. The commands: one constructor per row of spec/opcode_table.json.

A row in which TI takes a frame from its receive buffer (PASS, UNKNOWN_REQUEST_CODE and every
request) has no operand of its own: TI takes the OLDEST buffered frame, whose tag and bytes are the
operands (R4, R5, R16; log 7). The four rows of LINE CONTROL are its four actions.
-/

namespace Sys2Proof

/-- Room lines A to D (R16: A 0, B 1, C 2, D 3). -/
abbrev LineId := Fin 4
/-- A node address as the line frames carry it. Address 0 is the part itself and names no node; field
nodes are 1 to 31 (R17). -/
abbrev NodeAddr := Fin 32
/-- Rooms 0 to 47 (R61). -/
abbrev RoomId := Fin 48
/-- Suites 0 to 7 (R160). -/
abbrev SuiteId := Fin 8
/-- Fault sources F0 to F7 (R143). -/
abbrev SourceId := Fin 8
/-- Fault pins FP0 to FP3 (R145). -/
abbrev PinId := Fin 4

/-- Report codes of a valid REPORT (R9, R16). -/
inductive ReportCode
  | motion | countIn | countOut | co2 | contact | panel | wind | temperature | generic
  deriving DecidableEq, Repr

/-- A complete frame as a receiver sees it (R1): its bytes in order, and whether a character inside it
had a low stop bit. -/
structure RawFrame where
  lowStop : Bool
  bytes : List Byte
  deriving DecidableEq, Repr

inductive Instr
  -- trunk frames, reset and power
  | trunkFrameReceived (frame : RawFrame)
  | frameSent
  | unknownRequestCode
  | pass
  | resetPart
  | resetTakesEffect (straps : BitVec 6)
  | takesFramesAgain
  | powerOn (straps : BitVec 6)
  | partReady (pinsLow : BitVec 4)
  | powerLoss
  -- requests of TI and the line controllers
  | readTrunkCounters
  | loadNode
  | dropNode
  | lineControlSuspend
  | lineControlResume
  | lineControlRestart
  | lineControlSetTimeout
  | readLineCounters
  -- requests of the classifier
  | loadRule
  | dropRule
  -- requests of the room engine, context transfer among them
  | loadRoom
  | disableRoom
  | saveRoom
  | restoreRoom
  -- requests of the timetable unit
  | setClock
  | readClock
  | loadBooking
  | cancelBooking
  | listBookings
  | roomRelease
  -- requests of the actuation planner
  | loadScene
  | loadWing
  | setAirDuty
  | roomScene
  | cancelTravel
  -- requests of the protection unit
  | loadFault
  | raiseFault
  | dropFault
  | clearFault
  -- suites
  | loadSuite
  | dropSuite
  -- requests of the notice unit
  | collectStatus
  | sampleStatus
  | nextPending
  | setNoticeMask
  | readWingReport
  -- frames and transactions of the room lines
  | report (line : LineId) (node : NodeAddr) (code : ReportCode) (value : Half)
  | arrived (line : LineId) (node : NodeAddr) (position : Byte)
  | echo (line : LineId) (node : NodeAddr) (status : Half) (current : Half)
  | invalidLineFrame (line : LineId) (frame : RawFrame)
  | itemTakenForSending (line : LineId)
  | commandFrameSent (line : LineId)
  | echoTimerExpiry (line : LineId)
  -- timers, clock and pins
  | motionHoldExpiry (room : RoomId)
  | stillnessExpiry (room : RoomId)
  | lingerExpiry (room : RoomId)
  | suiteLingerExpiry (suite : SuiteId)
  | dutyTimerExpiry (room : RoomId)
  | travelTimerExpiry (line : LineId) (node : NodeAddr)
  | holdOffExpiry (source : SourceId)
  | minuteBoundary
  | faultPinChange (pin : PinId) (low : Bool)
  | clockSecondAdvance
  deriving DecidableEq, Repr

end Sys2Proof
end

