-- ==== Sys2Proof/Machine/State.lean ====
section
/-!
DEFINITION. The state of the part, as plain data, and the state after reset.

Each block of the manual's block diagram (00) owns one record of the state, and a command changes a
block's record only through that block's own operations. What the manual says is derived whenever it
is read (presence, line state, effective phase), and what follows from other state (booking lists,
governing sources, the loaded flag, the partition), is a view computed in Machine/Ops.lean and stored
once only (log 15).
-/

namespace Sys2Proof.Machine

/-- A timer of the crystal: stopped, or running with its remaining milliseconds (R64; log 3). -/
abbrev Timer := Option Nat

/-! ### The whole part -/

/-- Supply and readiness (R197). -/
inductive Power
  | off | starting | ready
  deriving DecidableEq, Repr

/-- How far a RESET PART has come (R5, R196; log 8). -/
inductive ResetStage
  | idle | requested | replySent
  deriving DecidableEq, Repr

/-! ### TI -/

/-- The eight trunk counters, in the order of R7. -/
structure TrunkCounts where
  received : Word
  checkErrors : Word
  foreign : Word
  malformed : Word
  overruns : Word
  sent : Word
  noticesDropped : Word
  mirrorsDropped : Word
  deriving DecidableEq, Repr

/-- The kinds of trunk frame TI accepts (R2). -/
inductive RxKind
  | request | pass
  deriving DecidableEq, Repr

/-- A frame of the receive buffer: what is left of a frame once the tests of R2 have passed. -/
structure RxFrame where
  kind : RxKind
  tag : Byte
  payload : List Byte
  deriving DecidableEq, Repr

/-- The kinds of trunk frame the part sends (section 1.2). -/
inductive TxKind
  | reply | reject | mirror | notice
  deriving DecidableEq, Repr

/-- A frame of the transmit queue. Its address is the part's, and its check follows from the rest. -/
structure TxFrame where
  kind : TxKind
  tag : Byte
  payload : List Byte
  deriving DecidableEq, Repr

/-- The Trunk Interface (R2 to R7). `rx` and `tx` are oldest first. -/
structure Ti where
  rx : List RxFrame
  tx : List TxFrame
  address : BitVec 6
  counts : TrunkCounts
  deriving DecidableEq, Repr

/-! ### LC -/

/-- The command kinds of R21. -/
inductive CmdKind
  | setLevel | setPosition | setFlow | stop | query
  deriving DecidableEq, Repr

/-- What produced an item (R21). -/
inductive Origin
  | room | pass | protect | manage
  deriving DecidableEq, Repr

/-- The bands of a line queue (R21, R22). -/
inductive Band
  | urgent | normal
  deriving DecidableEq, Repr

/-- A line item (R21). Its band follows from its origin. -/
structure Item where
  node : NodeAddr
  kind : CmdKind
  value : Nat
  ramp : Nat
  origin : Origin
  link : Option RoomId
  passTag : Option Byte
  deriving DecidableEq, Repr

/-- A controller's view of a node (R17, R32). -/
inductive Health
  | online | suspect | offline
  deriving DecidableEq, Repr

/-- A node's role with the fields that apply to it (R17). A LIGHT's `group` 0 to 3 stands for groups
1 to 4, `step` is in tenths of a percent; a BLIND's `travel` is in seconds. -/
inductive Role
  | light (group : Fin 4) (step : Nat)
  | blind (travel : Nat)
  | damper
  | panel
  | sensor
  deriving DecidableEq, Repr

/-- The three families the part actuates (00, terms). -/
inductive Family
  | lights | blinds | air
  deriving DecidableEq, Repr

/-- A node table entry (R17). `missed` is a miss count of 1. -/
structure NodeEntry where
  room : RoomId
  role : Role
  statusRef : Half
  statusMask : Half
  health : Health
  missed : Bool
  deriving DecidableEq, Repr

/-- The nine line counts, in the order of R42. -/
structure LineCounts where
  accepted : Word
  delivered : Word
  timedOut : Word
  superseded : Word
  flushed : Word
  lateEchoes : Word
  validFrames : Word
  invalidFrames : Word
  timesDown : Word
  deriving DecidableEq, Repr

/-- One room line and its controller (R17, R22, R26, R34, R41, R42). The bands are oldest first.
`driving` is the DIR pin: the part is driving the line (00, pins). -/
structure Line where
  nodes : Vector (Option NodeEntry) 32
  urgent : List Item
  normal : List Item
  inFlight : Option Item
  echoTimer : Timer
  down : Bool
  suspended : Bool
  follow : Option RoomId
  timeouts : Nat
  timeoutSetting : Byte
  counts : LineCounts
  driving : Bool
  deriving DecidableEq, Repr

/-- The four line controllers. -/
structure Lc where
  lines : Vector Line 4
  deriving DecidableEq, Repr

/-- A node named by its line and its address (00, conventions). -/
structure NodeRef where
  line : LineId
  addr : NodeAddr
  deriving DecidableEq, Repr

/-! ### CL -/

/-- Where a room action is delivered (R45, R51). -/
inductive RoomTarget
  | room (r : RoomId)
  | fromNode
  deriving DecidableEq, Repr

/-- The room actions of a rule (R45, R52, R53). -/
inductive RoomAct
  | motion | countIn | countOut | co2 | windowOpen | windowClosed
  | panelScene (fixed : Option (Fin 32))
  | panelOff
  deriving DecidableEq, Repr

/-- A rule's action with the fields that apply to it; the others are stored as absent (R46). -/
inductive RuleAction
  | room (act : RoomAct) (target : RoomTarget)
  | partition (opens : Bool) (suite : SuiteId)
  | fault (sets : Bool) (source : SourceId)
  | ignore
  deriving DecidableEq, Repr

/-- A classifier rule (R45). An absent line, node or code is ANY. -/
structure Rule where
  line : Option LineId
  node : Option NodeAddr
  code : Option ReportCode
  reference : Half
  mask : Half
  whenDifferent : Bool
  action : RuleAction
  goesOn : Bool
  mirror : Bool
  deriving DecidableEq, Repr

/-- The Report Classifier (R45, R59). -/
structure Cl where
  rules : Vector (Option Rule) 128
  strangers : Vector Bool 4
  deriving DecidableEq, Repr

/-! ### RE -/

/-- The five states of the occupancy machine, a room's or a joined suite's (section 4.8, R160). -/
inductive OccState
  | vacant | preparing | expected | occupied | linger
  deriving DecidableEq, Repr

/-- A room's state (R62): OFF, one of the five states of its own machine, or JOINED. -/
inductive RoomState
  | off
  | run (o : OccState)
  | joined
  deriving DecidableEq, Repr

/-- A room's position relative to its cursor (R62, R102). `idle` is NONE. -/
inductive Phase
  | idle | prep | on | lag
  deriving DecidableEq, Repr

/-- Booking kinds (R95). -/
inductive BookingKind
  | lecture | seminar | exam | event
  deriving DecidableEq, Repr

/-- A scene number, 0 to 31 (R119). -/
abbrev SceneNum := Fin 32

/-- A room's configuration, the part RE holds (R61). Times in seconds, count trust in minutes. -/
structure RoomConfig where
  capacity : Nat
  vacantScene : SceneNum
  adHocScene : SceneNum
  lingerTime : Nat
  motionHold : Nat
  countTrust : Nat
  co2Threshold : Nat
  hysteresis : Nat
  lingerLevel : Nat
  standbyFlow : Nat
  comfortBase : Nat
  perHead : Nat
  boostFlow : Nat
  deriving DecidableEq, Repr

/-- A room record (R61, R62), and the booking scene AP composes the room from: that of the cursor booking of the last phase
report (R102, R106). -/
structure Room where
  state : RoomState
  cfg : RoomConfig
  suite : Option SuiteId
  phase : Phase
  cursorKind : Option BookingKind
  bookingScene : Option SceneNum
  seen : Bool
  head : Nat
  aboveCapacity : Bool
  motionHold : Timer
  stillness : Timer
  linger : Timer
  co2 : Option Half
  boost : Bool
  windows : List NodeRef
  overrideScene : Option SceneNum
  deriving DecidableEq, Repr

/-- A suite (R160). `occ` is the suite state: absent while the partition is SPLIT, present while it
is JOINED. The first member is the lead. -/
structure Suite where
  members : List RoomId
  adHocScene : SceneNum
  occ : Option OccState
  seen : Bool
  linger : Timer
  deriving DecidableEq, Repr

/-- The Room Engine. -/
structure Re where
  rooms : Vector Room 48
  suites : Vector (Option Suite) 8
  deriving DecidableEq, Repr

/-! ### TU -/

/-- The wing clock while it is set (R90). -/
structure Clock where
  week : Nat
  minute : Nat
  second : Nat
  deriving DecidableEq, Repr

/-- What a booking is for (R95). -/
inductive BookingTarget
  | room (r : RoomId)
  | suite (g : SuiteId)
  deriving DecidableEq, Repr

/-- A booking record (R95). `finish` is the manual's end. -/
structure Booking where
  id : Nat
  target : BookingTarget
  start : Nat
  finish : Nat
  kind : BookingKind
  scene : SceneNum
  lead : Nat
  lag : Nat
  confirm : Nat
  week : Option Nat
  heads : Nat
  deriving DecidableEq, Repr

/-- One week's instance of a booking (section 5.2). -/
structure Occurrence where
  id : Nat
  week : Nat
  deriving DecidableEq, Repr

/-- A mark: its minute of the week, and armed or spent (R102). -/
structure Mark where
  minute : Nat
  armed : Bool
  deriving DecidableEq, Repr

/-- The five marks of a cursor occurrence (R102). CONFIRM exists only with a confirm window. -/
structure Marks where
  prep : Mark
  start : Mark
  confirm : Option Mark
  finish : Mark
  release : Mark
  deriving DecidableEq, Repr

/-- A cursor: the occurrence a room follows, with its marks (R102). -/
structure Cursor where
  occ : Occurrence
  marks : Marks
  deriving DecidableEq, Repr

/-- What TU holds for one room besides its booking list (R102). -/
structure RoomTime where
  cursor : Option Cursor
  released : Option Occurrence
  deriving DecidableEq, Repr

/-- The Timetable Unit. `clock` is absent while UNSET. `ms` counts the crystal's milliseconds within
the second (log 17); at 1000 the second has passed and its event is due. `void` says that the event the
clock had due when SET CLOCK replaced it is not to be taken (R93; log 38). `store` is kept in order of
start and then id. -/
structure Tu where
  clock : Option Clock
  ms : Nat
  void : Bool
  store : List Booking
  rooms : Vector RoomTime 48
  deriving DecidableEq, Repr

/-! ### AP -/

/-- Roundings (R121, R124). -/
inductive Rounding
  | nearest | down | up
  deriving DecidableEq, Repr

/-- Air modes (R119, R125). -/
inductive AirMode
  | standby | comfort | purge | shut
  deriving DecidableEq, Repr

/-- A scene (R119). `levels` are those of groups 1 to 4. -/
structure Scene where
  levels : Vector (Option Nat) 4
  ramp : Nat
  rounding : Option Rounding
  blind : Option Nat
  air : Option AirMode
  deriving DecidableEq, Repr

/-- A node's target (R131): its value, its ramp, and whether layer 1 gave it. -/
structure Target where
  value : Nat
  ramp : Nat
  protect : Bool
  deriving DecidableEq, Repr

/-- An actuation plan entry (R131). -/
structure Plan where
  target : Option Target
  lastSent : Option Nat
  confirmed : Bool
  override : Option Nat
  travel : Timer
  stalled : Bool
  alarm : Bool
  deferred : Bool
  deriving DecidableEq, Repr

/-- A standby duty: period and on-time in minutes (R126). -/
structure Duty where
  period : Nat
  onTime : Nat
  deriving DecidableEq, Repr

/-- The parts of a duty period (R126). -/
inductive DutyPart
  | on | off
  deriving DecidableEq, Repr

/-- What AP holds for one room: its standby duty (R126) and its state air mode (R125). With an active
period of 0 a room in duty has no part and no timer. -/
structure RoomAir where
  active : Duty
  waiting : Option Duty
  part : Option DutyPart
  timer : Timer
  mode : Option AirMode
  deriving DecidableEq, Repr

/-- The Actuation Planner. `plans` has a place for every node; it holds an entry for actuator nodes
only (R131). `handed` and `freed` are what line controllers have handed over in the event being
taken (R22, R135; log 9). -/
structure Ap where
  scenes : Vector (Option Scene) 32
  rounding : Rounding
  mirrorUnclassified : Bool
  plans : Vector (Vector (Option Plan) 32) 4
  air : Vector RoomAir 48
  handed : List NodeRef
  freed : List LineId
  deriving DecidableEq, Repr

/-! ### PU -/

/-- Source modes (R143). -/
inductive FaultMode
  | latched | auto
  deriving DecidableEq, Repr

/-- Source states (R143). -/
inductive FaultState
  | idle | active | clearing | held
  deriving DecidableEq, Repr

/-- A response code of a family (R143, R16): FULL, RAISE or PURGE is `first`; OFF, LOWER or SHUT is
`second`; HOLD imposes nothing. -/
inductive Response
  | first | second | hold
  deriving DecidableEq, Repr

/-- A fault source's configuration (R143). The hold-off is in seconds. -/
structure FaultConfig where
  mode : FaultMode
  holdOff : Nat
  pin : Option PinId
  rooms : BitVec 48
  lights : Response
  blinds : Response
  air : Response
  deriving DecidableEq, Repr

/-- A fault source record (R143). -/
structure Source where
  cfg : FaultConfig
  state : FaultState
  classifierFlag : Bool
  supervisorFlag : Bool
  timer : Timer
  deriving DecidableEq, Repr

/-- The Protection Unit. `pins` holds whether each pin's debounced level is asserted, that is low
(R145). -/
structure Pu where
  sources : Vector Source 8
  pins : Vector Bool 4
  deriving DecidableEq, Repr

/-! ### NU -/

/-- The ten conditions, in the order of their bits (R16, R173). -/
inductive Condition
  | stateChanged | noShow | overrun | overcrowd | countDrift
  | nodeLost | driverAlarm | blindStall | protectionEntered | protectionLeft
  deriving DecidableEq, Repr

/-- A set of conditions, bit by bit as R16 lays it out. -/
abbrev CondSet := BitVec 10

/-- What NU keeps for one room (R173). -/
structure RoomNotice where
  conds : CondSet
  notify : CondSet
  cls : Fin 4
  tag : Word
  pending : Bool
  deriving DecidableEq, Repr

/-- Kinds of wing report with their subjects (R183). -/
inductive WingKind
  | startedPower
  | startedRequest
  | lineDown (line : LineId)
  | lineUp (line : LineId)
  | clockSet
  | stranger (line : LineId) (node : NodeAddr)
  | faultAsserted (source : SourceId)
  | faultEnded (source : SourceId)
  deriving DecidableEq, Repr

/-- A wing report entry (R183). An absent stamp is UNSET. -/
structure WingReport where
  kind : WingKind
  stamp : Option Clock
  overflow : Bool
  deriving DecidableEq, Repr

/-- The Notice Unit. The pending list and the wing report queue are oldest first. `due` holds the
rooms whose NOTICE is built at the end of the event being taken (R175; log 11). -/
structure Nu where
  rooms : Vector RoomNotice 48
  pendingList : List RoomId
  mask : BitVec 4
  wing : List WingReport
  due : List RoomId
  deriving DecidableEq, Repr

/-! ### The state -/

/-- The whole part. `deaf` runs for 2 ms after a reset (R196). `pending` is the queue of waiting
commands, first in first out. `choices` counts the orders drawn so far (log 4); it is the model's own
field. -/
structure State where
  power : Power
  deaf : Timer
  resetStage : ResetStage
  ti : Ti
  lc : Lc
  cl : Cl
  re : Re
  tu : Tu
  ap : Ap
  pu : Pu
  nu : Nu
  pending : List Instr
  choices : Nat
  deriving DecidableEq, Repr

/-! ### The state of each block after power-on or RESET PART (R197, table) -/

def TrunkCounts.zero : TrunkCounts := ⟨0, 0, 0, 0, 0, 0, 0, 0⟩

def LineCounts.zero : LineCounts := ⟨0, 0, 0, 0, 0, 0, 0, 0, 0⟩

def Ti.initial (address : BitVec 6) : Ti :=
  { rx := [], tx := [], address := address, counts := TrunkCounts.zero }

def Line.initial : Line :=
  { nodes := filled 32 none, urgent := [], normal := [], inFlight := none, echoTimer := none
    down := false, suspended := false, follow := none, timeouts := 0, timeoutSetting := 0
    counts := LineCounts.zero, driving := false }

def Lc.initial : Lc := { lines := filled 4 Line.initial }

def Cl.initial : Cl := { rules := filled 128 none, strangers := filled 4 false }

def RoomConfig.zero : RoomConfig :=
  { capacity := 0, vacantScene := 0, adHocScene := 0, lingerTime := 0, motionHold := 0, countTrust := 0
    co2Threshold := 0, hysteresis := 0, lingerLevel := 0, standbyFlow := 0, comfortBase := 0
    perHead := 0, boostFlow := 0 }

/-- A room that is OFF (R61, R62). -/
def Room.off : Room :=
  { state := .off, cfg := RoomConfig.zero, suite := none, phase := .idle, cursorKind := none
    bookingScene := none, seen := false, head := 0, aboveCapacity := false, motionHold := none, stillness := none
    linger := none, co2 := none, boost := false, windows := [], overrideScene := none }

def Re.initial : Re := { rooms := filled 48 Room.off, suites := filled 8 none }

def RoomTime.empty : RoomTime := { cursor := none, released := none }

def Tu.initial : Tu :=
  { clock := none, ms := 0, void := false, store := [], rooms := filled 48 RoomTime.empty }

def RoomAir.initial : RoomAir :=
  { active := ⟨0, 0⟩, waiting := none, part := none, timer := none, mode := none }

def Ap.initial : Ap :=
  { scenes := filled 32 none, rounding := .nearest, mirrorUnclassified := false
    plans := filled 4 (filled 32 none), air := filled 48 RoomAir.initial, handed := [], freed := [] }

/-- A fault source after power-on or RESET PART (R143). -/
def Source.initial : Source :=
  { cfg := { mode := .latched, holdOff := 0, pin := none, rooms := 0
             lights := .hold, blinds := .hold, air := .hold }
    state := .idle, classifierFlag := false, supervisorFlag := false, timer := none }

def Pu.initial (pins : Vector Bool 4) : Pu := { sources := filled 8 Source.initial, pins := pins }

def RoomNotice.empty : RoomNotice := { conds := 0, notify := 0, cls := 0, tag := 0, pending := false }

/-- NU with the wing report queue given: one STARTED entry once the part is ready (R183). -/
def Nu.initial (wing : List WingReport) : Nu :=
  { rooms := filled 48 RoomNotice.empty, pendingList := [], mask := 15#4, wing := wing, due := [] }

/-- The STARTED entry: stamp UNSET, overflow mark clear (R183). -/
def WingReport.started (kind : WingKind) : WingReport := { kind := kind, stamp := none, overflow := false }

/-- The right state for every block: the table of R197, over the model's own fields. -/
def State.fresh (power : Power) (deaf : Timer) (address : BitVec 6) (pins : Vector Bool 4)
    (wing : List WingReport) (pending : List Instr) (choices : Nat) : State :=
  { power := power, deaf := deaf, resetStage := .idle, ti := Ti.initial address, lc := Lc.initial
    cl := Cl.initial, re := Re.initial, tu := Tu.initial, ap := Ap.initial, pu := Pu.initial pins
    nu := Nu.initial wing, pending := pending, choices := choices }

/-- The part right after power-on, at the moment it becomes ready (R197; log 6). The straps read 1 and
every fault pin is open (log 5). -/
def State.reset : State :=
  State.fresh .ready none 1#6 (filled 4 false) [WingReport.started .startedPower] [] 0

/-! ### Outcomes other than a next state -/

/-- The manual describes no event that stops the part: every malformed input is counted or refused by
a result code (log 26). No command raises a fault; the type is empty. -/
inductive Fault
  deriving DecidableEq, Repr

/-- Why a command has no meaning. -/
inductive Refusal
  /-- Raised by an arm of `exec` whose command has no meaning yet, under the row's mnemonic. No arm
  raises it in this model. Safe: the run stops where the hardware goes on. -/
  | notModelled (mnemonic : String)
  deriving DecidableEq, Repr

end Sys2Proof.Machine
end

