-- ==== Sys2Proof/Machine/Frames.lean ====
section
/-!
DEFINITION. Bytes on the wire: checks, frames and record layouts (chapter 1, R1, R2, R8, R9, R16).

Multi-byte numbers are high byte first, and an absent optional field has every bit 1 (R16).
-/

namespace Sys2Proof.Machine

/-! ### Numbers as bytes -/

def byteOf (n : Nat) : Byte := BitVec.ofNat 8 n

def hiByte (x : Half) : Byte := x.extractLsb' 8 8

def loByte (x : Half) : Byte := x.extractLsb' 0 8

/-- Two bytes, high byte first. -/
def bytes2 (x : Half) : List Byte := [hiByte x, loByte x]

def natBytes2 (n : Nat) : List Byte := bytes2 (BitVec.ofNat 16 n)

/-- Four bytes, high byte first. -/
def bytes4 (x : Word) : List Byte := bytes2 (x.extractLsb' 16 16) ++ bytes2 (x.extractLsb' 0 16)

/-- The 16-bit number two received bytes make. -/
def half (hi lo : Byte) : Half := hi ++ lo

def word (a b c d : Byte) : Word := half a b ++ half c d

/-- An optional one-byte field. -/
def optByte (x : Option Nat) : Byte := match x with | some n => byteOf n | none => 0xFF

/-- An optional two-byte field. -/
def optBytes2 (x : Option Nat) : List Byte := match x with | some n => natBytes2 n | none => [0xFF, 0xFF]

def flagByte (b : Bool) : Byte := if b then 1 else 0

/-! ### Checks -/

/-- The bits of a byte, most significant first (R2, R8). -/
def bitsMsbFirst (b : Byte) : List Bool := (List.range 8).map b.getMsbD

/-- One bit shifted through x^16 + x^15 + x^2 + 1 (R2). -/
def crc16Bit (c : BitVec 16) (b : Bool) : BitVec 16 :=
  if c.msb != b then (c <<< 1) ^^^ 0x8005#16 else c <<< 1

def crc16Byte (c : BitVec 16) (b : Byte) : BitVec 16 := (bitsMsbFirst b).foldl crc16Bit c

/-- The trunk check of a run of bytes: initial value zero, no final inversion (R2). -/
def crc16 (bs : List Byte) : BitVec 16 := bs.foldl crc16Byte 0

/-- One bit shifted through x^8 + x^2 + x + 1 (R8). -/
def crc8Bit (c : BitVec 8) (b : Bool) : BitVec 8 :=
  if c.msb != b then (c <<< 1) ^^^ 0x07#8 else c <<< 1

def crc8Byte (c : BitVec 8) (b : Byte) : BitVec 8 := (bitsMsbFirst b).foldl crc8Bit c

/-- The room-line check of a run of bytes (R8). -/
def crc8 (bs : List Byte) : BitVec 8 := bs.foldl crc8Byte 0

/-! ### Enumeration codes (R16) -/

def RoomState.code : RoomState → Nat
  | .off => 0
  | .run .vacant => 1
  | .run .preparing => 2
  | .run .expected => 3
  | .run .occupied => 4
  | .run .linger => 5
  | .joined => 6

def RoomState.ofCode : Nat → Option RoomState
  | 0 => some .off
  | 1 => some (.run .vacant)
  | 2 => some (.run .preparing)
  | 3 => some (.run .expected)
  | 4 => some (.run .occupied)
  | 5 => some (.run .linger)
  | 6 => some .joined
  | _ => none

def Phase.code : Phase → Nat
  | .idle => 0
  | .prep => 1
  | .on => 2
  | .lag => 3

def Phase.ofCode : Nat → Option Phase
  | 0 => some .idle
  | 1 => some .prep
  | 2 => some .on
  | 3 => some .lag
  | _ => none

def BookingKind.code : BookingKind → Nat
  | .lecture => 0
  | .seminar => 1
  | .exam => 2
  | .event => 3

def BookingKind.ofCode : Nat → Option BookingKind
  | 0 => some .lecture
  | 1 => some .seminar
  | 2 => some .exam
  | 3 => some .event
  | _ => none

def Rounding.ofCode : Nat → Option Rounding
  | 0 => some .nearest
  | 1 => some .down
  | 2 => some .up
  | _ => none

def AirMode.ofCode : Nat → Option AirMode
  | 0 => some .standby
  | 1 => some .comfort
  | 2 => some .purge
  | 3 => some .shut
  | _ => none

def FaultMode.ofCode : Nat → Option FaultMode
  | 0 => some .latched
  | 1 => some .auto
  | _ => none

def Response.ofCode : Nat → Option Response
  | 0 => some .first
  | 1 => some .second
  | 2 => some .hold
  | _ => none

def reportByte : ReportCode → Nat
  | .motion => 1
  | .countIn => 2
  | .countOut => 3
  | .co2 => 4
  | .contact => 5
  | .panel => 6
  | .wind => 7
  | .temperature => 8
  | .generic => 9

def reportCodeOf : Nat → Option ReportCode
  | 1 => some .motion
  | 2 => some .countIn
  | 3 => some .countOut
  | 4 => some .co2
  | 5 => some .contact
  | 6 => some .panel
  | 7 => some .wind
  | 8 => some .temperature
  | 9 => some .generic
  | _ => none

/-- Line kind codes of the commands (R16); a PASS uses the same codes. -/
def CmdKind.code : CmdKind → Nat
  | .setLevel => 0x11
  | .setPosition => 0x12
  | .setFlow => 0x13
  | .stop => 0x14
  | .query => 0x15

def CmdKind.ofCode (n : Nat) : Option CmdKind :=
  if n = 0x11 then some .setLevel
  else if n = 0x12 then some .setPosition
  else if n = 0x13 then some .setFlow
  else if n = 0x14 then some .stop
  else if n = 0x15 then some .query
  else none

/-- Results of a REPLY (R16, R187). -/
inductive ResultCode
  | done | format | range | unknown | state | overlap | space | context
  deriving DecidableEq, Repr

def ResultCode.code : ResultCode → Nat
  | .done => 0
  | .format => 1
  | .range => 2
  | .unknown => 3
  | .state => 4
  | .overlap => 5
  | .space => 6
  | .context => 7

/-- Reasons of a REJECT (R10, R16). `guarded` is PROTECTED. -/
inductive RejectReason
  | unknown | state | guarded | offline | lineFull
  deriving DecidableEq, Repr

def RejectReason.code : RejectReason → Nat
  | .unknown => 1
  | .state => 2
  | .guarded => 3
  | .offline => 4
  | .lineFull => 5

/-! ### Room-line frames -/

/-- A room-line frame's bytes: node, kind, length, payload, check (R8, R16). -/
def lineFrameBytes (node : NodeAddr) (kind : Nat) (payload : List Byte) : List Byte :=
  let body := byteOf node.val :: byteOf kind :: byteOf payload.length :: payload
  body ++ [crc8 body]

/-- The frame an LC builds from the item it sends (R8): payload 3 for SET LEVEL, 1 for the others, and
0 as the payload of STOP and QUERY. -/
def Item.wireBytes (it : Item) : List Byte :=
  lineFrameBytes it.node it.kind.code
    (match it.kind with
      | .setLevel => natBytes2 it.value ++ [byteOf it.ramp]
      | .setPosition => [byteOf it.value]
      | .setFlow => [byteOf it.value]
      | .stop => [0]
      | .query => [0])

/-- A received frame is broken on a room line: a low stop bit, fewer than 5 bytes, or a byte count
other than 4 plus the length field (R1). -/
def brokenOnLine (f : RawFrame) : Bool :=
  f.lowStop ||
    match f.bytes with
    | _ :: _ :: len :: _ => f.bytes.length < 5 || f.bytes.length != 4 + len.toNat
    | _ => true

/-- What a valid frame from a field node carries (R9). -/
inductive LineMessage
  | report (node : NodeAddr) (code : ReportCode) (value : Half)
  | arrived (node : NodeAddr) (position : Byte)
  | echo (node : NodeAddr) (status : Half) (current : Half)
  deriving DecidableEq, Repr

/-- The node field of a valid frame, 1 to 31 (R9). -/
def nodeOf (b : Byte) : Option NodeAddr :=
  if h : b.toNat < 32 then if b.toNat = 0 then none else some ⟨b.toNat, h⟩ else none

/-- The test of R9 on a received room-line frame: what it carries when it is valid, nothing when it is
invalid. -/
def lineMessage (f : RawFrame) : Option LineMessage :=
  if brokenOnLine f then none
  else if crc8 f.bytes.dropLast != f.bytes.getLastD 0 then none
  else
    match f.bytes.dropLast with
    | node :: kind :: _ :: payload =>
      match nodeOf node, kind.toNat, payload with
      | some n, 1, [c, hi, lo] => (reportCodeOf c.toNat).map fun code => .report n code (half hi lo)
      | some n, 2, [p] => if p.toNat ≤ 100 then some (.arrived n p) else none
      | some n, 3, [sh, sl, ch, cl] => some (.echo n (half sh sl) (half ch cl))
      | _, _, _ => none
    | _ => none

/-- The frame of a field node's message, as a node sends it (R8, R9, R16). -/
def LineMessage.bytes : LineMessage → List Byte
  | .report n c v => lineFrameBytes n 1 (byteOf (reportByte c) :: bytes2 v)
  | .arrived n p => lineFrameBytes n 2 [p]
  | .echo n st cu => lineFrameBytes n 3 (bytes2 st ++ bytes2 cu)

/-! ### Trunk frames -/

def TxKind.code : TxKind → Nat
  | .reply => 2
  | .reject => 4
  | .mirror => 5
  | .notice => 6

/-- Bytes of a trunk frame: address, kind, tag, length, payload, check high byte first (R2, R16). -/
def trunkFrameBytes (address : Byte) (kind : Nat) (tag : Byte) (payload : List Byte) : List Byte :=
  let body := address :: byteOf kind :: tag :: byteOf payload.length :: payload
  body ++ bytes2 (crc16 body)

/-- What TI sends for a frame of its transmit queue (R3, R6). -/
def Ti.wireBytes (t : Ti) (f : TxFrame) : List Byte :=
  trunkFrameBytes (t.address.zeroExtend 8) f.kind.code f.tag f.payload

/-- A received frame is broken on the trunk: a low stop bit, fewer than 6 bytes, or a byte count other
than 6 plus the length field (R1). -/
def brokenOnTrunk (f : RawFrame) : Bool :=
  f.lowStop ||
    match f.bytes with
    | _ :: _ :: _ :: len :: _ => f.bytes.length < 6 || f.bytes.length != 6 + len.toNat
    | _ => true

/-! ### Records the part sends -/

def BookingTarget.bytes : BookingTarget → List Byte
  | .room r => [0, byteOf r.val]
  | .suite g => [2, byteOf g.val]

/-- The booking record of 16 bytes (R16). -/
def Booking.bytes (b : Booking) : List Byte :=
  natBytes2 b.id ++ b.target.bytes ++ natBytes2 b.start ++ natBytes2 b.finish ++
    [byteOf b.kind.code, byteOf b.scene.val, byteOf b.lead, byteOf b.lag, byteOf b.confirm, optByte b.week] ++
    natBytes2 b.heads

/-- Kind and subject of a wing report entry (R16). -/
def WingKind.bytes : WingKind → List Byte
  | .startedPower => [0, 0, 0xFF]
  | .startedRequest => [0, 1, 0xFF]
  | .lineDown l => [1, byteOf l.val, 0xFF]
  | .lineUp l => [2, byteOf l.val, 0xFF]
  | .clockSet => [3, 0xFF, 0xFF]
  | .stranger l n => [4, byteOf l.val, byteOf n.val]
  | .faultAsserted f => [5, byteOf f.val, 0xFF]
  | .faultEnded f => [6, byteOf f.val, 0xFF]

/-- A wing clock as week, minute and second; zeros while UNSET (R16, R94). -/
def clockBytes : Option Clock → List Byte
  | some c => byteOf c.week :: natBytes2 c.minute ++ [byteOf c.second]
  | none => [0, 0, 0, 0]

/-- The wing report entry of 8 bytes (R16). -/
def WingReport.bytes (w : WingReport) : List Byte :=
  w.kind.bytes ++ clockBytes w.stamp ++ [flagByte w.overflow]

/-- The eight trunk counts, in the order of R7. -/
def TrunkCounts.bytes (c : TrunkCounts) : List Byte :=
  bytes4 c.received ++ bytes4 c.checkErrors ++ bytes4 c.foreign ++ bytes4 c.malformed ++
    bytes4 c.overruns ++ bytes4 c.sent ++ bytes4 c.noticesDropped ++ bytes4 c.mirrorsDropped

/-- The nine line counts, in the order of R42. -/
def LineCounts.bytes (c : LineCounts) : List Byte :=
  bytes4 c.accepted ++ bytes4 c.delivered ++ bytes4 c.timedOut ++ bytes4 c.superseded ++
    bytes4 c.flushed ++ bytes4 c.lateEchoes ++ bytes4 c.validFrames ++ bytes4 c.invalidFrames ++
    bytes4 c.timesDown

/-- A set of conditions in 2 bytes, bits 10 to 15 sent as 0 (R16). -/
def condBytes (c : CondSet) : List Byte := bytes2 (c.zeroExtend 16)

/-- The set of conditions two received bytes carry; bits 10 to 15 are not examined (R85; log 18). -/
def condsOf (x : Half) : CondSet := x.truncate 10

end Sys2Proof.Machine
end

