-- ==== Sys2Proof/WellFormed.lean ====
section
/-!
DEFINITION. Well-formed commands: the operands a row of the table can carry.

A frame of a room line names a field node, 1 to 31, and an ARRIVED a position to 100 (R9); a frame of INVALID LINE
FRAME fails the test of R9. Every other operand is bounded by its type.
-/

namespace Sys2Proof

/-- The operands of a command are ones the manual admits. -/
def Instr.wf : Instr → Bool
  | .report _ node _ _ => node != 0
  | .arrived _ node position => node != 0 && decide (position.toNat ≤ 100)
  | .echo _ node _ _ => node != 0
  | .travelTimerExpiry _ node => node != 0
  | .invalidLineFrame _ frame => (Machine.lineMessage frame).isNone
  | _ => true

end Sys2Proof
end

