-- ==== Sys2Proof/Decode.lean ====
section
/-!
DEFINITION. Decoding.

No row of spec/opcode_table.json gives bits, so a word spells no command. The frames of a room line do spell
commands: `lineCommand` reads them by the test of R9.
-/

namespace Sys2Proof

/-- No row of the table gives bits: a word spells no command. -/
def decodeTableWord (_nbits _w : Nat) : Option Instr := none

/-- The command a complete frame on a room line stands for (R9, R16, R20). -/
def lineCommand (line : LineId) (frame : RawFrame) : Instr :=
  match Machine.lineMessage frame with
  | some (.report node code value) => .report line node code value
  | some (.arrived node position) => .arrived line node position
  | some (.echo node status current) => .echo line node status current
  | none => .invalidLineFrame line frame

end Sys2Proof
end

