-- ==== Sys2Proof/Config.lean ====
section
/-!
DEFINITION. What the manual leaves free.

The manual fixes every capacity and length of this part (00, "Numbers at a glance"), so the
configuration holds one free value only: the rank by which an order is drawn where the manual says
that no order is set (R91, and wherever an event or a request visits several rooms or sources;
log 4). It has no body, so nothing can be proved about the order beyond its being an order.
-/

namespace Sys2Proof

/-- FREE VALUE (log 4). The rank of the `k`-th piece of work of the `n`-th drawing of an order. Work
of lower rank is taken first. -/
opaque Config.orderRank : Nat → Nat → Nat

end Sys2Proof
end

