-- ==== Sys2Proof/Machine/Operands.lean ====
section
/-!
DEFINITION. The operands of requests and of PASS: parameter bytes into typed fields, with the FORMAT and
RANGE refusals of each request's own rule (R187 judges FORMAT first, then RANGE).

A parser answers `.error .format` when the parameter bytes are not those of the layout, `.error .range`
when a field lies outside the values its request allows, and the typed operands otherwise. Fields that
do not apply to the role or action given are not examined (R16).
-/

namespace Sys2Proof.Machine

/-- A byte that must lie below `n`. -/
def below (n : Nat) (b : Byte) : Option (Fin n) := if h : b.toNat < n then some ⟨b.toNat, h⟩ else none

/-- An optional one-byte field: absent when every bit is 1 (R16). -/
def optField (b : Byte) : Option Nat := if b = 0xFF then none else some b.toNat

/-- An optional two-byte field. -/
def optField2 (x : Half) : Option Nat := if x = 0xFFFF then none else some x.toNat

/-- A present optional field must pass `p`. -/
def optOk (x : Option Nat) (p : Nat → Bool) : Bool := match x with | some n => p n | none => true

/-- A field that holds a single byte naming a place of a table. -/
def oneByte (n : Nat) : List Byte → Except ResultCode (Fin n)
  | [b] => match below n b with | some i => .ok i | none => .error .range
  | _ => .error .format

/-- A request without parameters (READ CLOCK and the like). -/
def noBytes : List Byte → Except ResultCode Unit
  | [] => .ok ()
  | _ => .error .format

/-! ### Line controllers -/

/-- The role of LOAD NODE (R18): the group of a LIGHT 1 to 4, its step at most 250 with 0 taken as 1, the
travel time of a BLIND not 0; absent when out of range. -/
def roleOf (code group step travel : Byte) : Option Role :=
  match code.toNat with
  | 0 =>
    if h : 1 ≤ group.toNat ∧ group.toNat ≤ 4 then
      if step.toNat ≤ 250 then
        some (.light ⟨group.toNat - 1, by omega⟩ (if step.toNat = 0 then 1 else step.toNat))
      else none
    else none
  | 1 => if travel.toNat = 0 then none else some (.blind travel.toNat)
  | 2 => some .damper
  | 3 => some .panel
  | 4 => some .sensor
  | _ => none

structure NodeLoad where
  ref : NodeRef
  room : RoomId
  role : Role
  statusRef : Half
  statusMask : Half
  deriving DecidableEq, Repr

/-- LOAD NODE (R18). -/
def nodeLoad : List Byte → Except ResultCode NodeLoad
  | [l, n, r, ro, g, st, tt, rh, rl, mh, ml] =>
    match below 4 l, nodeOf n, below 48 r, roleOf ro g st tt with
    | some line, some node, some room, some role =>
      .ok { ref := ⟨line, node⟩, room := room, role := role, statusRef := half rh rl, statusMask := half mh ml }
    | _, _, _, _ => .error .range
  | _ => .error .format

/-- A line and a node (DROP NODE R19, CANCEL TRAVEL R141). -/
def nodeRefOf : List Byte → Except ResultCode NodeRef
  | [l, n] =>
    match below 4 l, nodeOf n with
    | some line, some node => .ok ⟨line, node⟩
    | _, _ => .error .range
  | _ => .error .format

/-- The actions of LINE CONTROL (R16). -/
inductive LineAction
  | suspend | resume | restart | setTimeout
  deriving DecidableEq, Repr

def LineAction.ofCode : Nat → Option LineAction
  | 0 => some .suspend
  | 1 => some .resume
  | 2 => some .restart
  | 3 => some .setTimeout
  | _ => none

/-- LINE CONTROL (R38): line, action and timeout setting. -/
def lineControlOf : List Byte → Except ResultCode (LineId × LineAction × Byte)
  | [l, a, t] =>
    match below 4 l, LineAction.ofCode a.toNat with
    | some line, some act => .ok (line, act, t)
    | _, _ => .error .range
  | _ => .error .format

/-! ### PASS -/

/-- What check 1 of R10 admits: a command for one node, its value and its ramp. The value and ramp of
STOP and QUERY are not examined and not used (R10, R21); SET POSITION and SET FLOW have no ramp. -/
structure PassCommand where
  ref : NodeRef
  kind : CmdKind
  value : Nat
  ramp : Nat
  deriving DecidableEq, Repr

/-- Value and ramp of a PASS, when in range (R10, check 1). -/
def passValue (kind : CmdKind) (value ramp : Nat) : Option (Nat × Nat) :=
  match kind with
  | .setLevel => if value ≤ 1000 ∧ ramp ≤ 60 then some (value, ramp) else none
  | .setPosition => if value ≤ 100 then some (value, 0) else none
  | .setFlow => if value ≤ 100 then some (value, 0) else none
  | .stop => some (0, 0)
  | .query => some (0, 0)

/-- Check 1 of R10 on the six payload bytes of a PASS. -/
def passCommand : List Byte → Option PassCommand
  | [l, n, k, vh, vl, ra] =>
    match below 4 l, nodeOf n, CmdKind.ofCode k.toNat with
    | some line, some node, some kind =>
      (passValue kind (half vh vl).toNat ra.toNat).map fun vr =>
        { ref := ⟨line, node⟩, kind := kind, value := vr.1, ramp := vr.2 }
    | _, _, _ => none
  | _ => none

/-! ### Classifier -/

/-- A rule's line: A to D, or ANY (0xFF). The outer option is the RANGE test. -/
def ruleLine (b : Byte) : Option (Option LineId) := if b = 0xFF then some none else (below 4 b).map some

def ruleNode (b : Byte) : Option (Option NodeAddr) := if b = 0xFF then some none else (nodeOf b).map some

def ruleCode (b : Byte) : Option (Option ReportCode) :=
  if b = 0xFF then some none else (reportCodeOf b.toNat).map some

/-- A rule's target for a room action: ROOM with a number to 47, or FROM NODE (R46). -/
def ruleTarget (kind number : Byte) : Option RoomTarget :=
  match kind.toNat with
  | 0 => (below 48 number).map .room
  | 1 => some .fromNode
  | _ => none

/-- A partition action's target: SUITE with a number to 7 (R46). -/
def ruleSuite (kind number : Byte) : Option SuiteId := if kind.toNat = 2 then below 8 number else none

/-- The fixed scene of PANEL SCENE: absent, or 0 to 31 (R46). -/
def fixedScene (b : Byte) : Option (Option (Fin 32)) := if b = 0xFF then some none else (below 32 b).map some

/-- A rule's action with the fields that apply to it (R46). -/
def ruleAction (code source tkind tnum scene : Byte) : Option RuleAction :=
  match code.toNat with
  | 0 => (ruleTarget tkind tnum).map (.room .motion)
  | 1 => (ruleTarget tkind tnum).map (.room .countIn)
  | 2 => (ruleTarget tkind tnum).map (.room .countOut)
  | 3 => (ruleTarget tkind tnum).map (.room .co2)
  | 4 => (ruleTarget tkind tnum).map (.room .windowOpen)
  | 5 => (ruleTarget tkind tnum).map (.room .windowClosed)
  | 6 => (ruleSuite tkind tnum).map (.partition true)
  | 7 => (ruleSuite tkind tnum).map (.partition false)
  | 8 =>
    match ruleTarget tkind tnum, fixedScene scene with
    | some t, some f => some (.room (.panelScene f) t)
    | _, _ => none
  | 9 => (ruleTarget tkind tnum).map (.room .panelOff)
  | 10 => (below 8 source).map (.fault true)
  | 11 => (below 8 source).map (.fault false)
  | 12 => some .ignore
  | _ => none

/-- The sense code: HIT WHEN EQUAL 0, HIT WHEN DIFFERENT 1. -/
def ruleSense (b : Byte) : Option Bool :=
  match b.toNat with
  | 0 => some false
  | 1 => some true
  | _ => none

/-- LOAD RULE (R46): the index and the rule. -/
def ruleLoad : List Byte → Except ResultCode (Fin 128 × Rule)
  | [i, l, n, c, rh, rl, mh, ml, se, ac, src, tk, tn, sc, fl] =>
    match below 128 i, ruleLine l, ruleNode n, ruleCode c, ruleSense se, ruleAction ac src tk tn sc with
    | some index, some line, some node, some code, some sense, some action =>
      .ok (index,
        { line := line, node := node, code := code, reference := half rh rl, mask := half mh ml
          whenDifferent := sense, action := action, goesOn := fl.getLsbD 0, mirror := fl.getLsbD 1 })
    | _, _, _, _, _, _ => .error .range
  | _ => .error .format

/-! ### Rooms -/

structure RoomLoad where
  room : RoomId
  cfg : RoomConfig
  notify : CondSet
  cls : Fin 4
  tag : Word
  deriving DecidableEq, Repr

/-- The RANGE tests of R85 on the configuration fields. -/
def RoomConfig.inRange (c : RoomConfig) : Bool :=
  decide (1 ≤ c.capacity ∧ c.capacity ≤ 500 ∧ 60 ≤ c.lingerTime ∧ c.lingerTime ≤ 3600 ∧
    30 ≤ c.motionHold ∧ c.motionHold ≤ 1800 ∧ 5 ≤ c.countTrust ∧ c.countTrust ≤ 240 ∧
    400 ≤ c.co2Threshold ∧ c.co2Threshold ≤ 5000 ∧ 50 ≤ c.hysteresis ∧ c.hysteresis ≤ 500 ∧
    c.hysteresis < c.co2Threshold ∧ c.lingerLevel ≤ 100 ∧ c.standbyFlow ≤ 100 ∧ c.comfortBase ≤ 100 ∧
    c.boostFlow ≤ 100 ∧ c.perHead ≤ 20)

/-- LOAD ROOM (R85). -/
def roomLoad : List Byte → Except ResultCode RoomLoad
  | [r, ch, cl, vs, as, lh, ll, mh, ml, ct, th, tl, hh, hl, lv, sf, cb, ph, bf, nh, nl, cls, t3, t2, t1, t0] =>
    match below 48 r, below 32 vs, below 32 as, below 4 cls with
    | some room, some vacant, some adHoc, some c =>
      let cfg : RoomConfig :=
        { capacity := (half ch cl).toNat, vacantScene := vacant, adHocScene := adHoc
          lingerTime := (half lh ll).toNat, motionHold := (half mh ml).toNat, countTrust := ct.toNat
          co2Threshold := (half th tl).toNat, hysteresis := (half hh hl).toNat, lingerLevel := lv.toNat
          standbyFlow := sf.toNat, comfortBase := cb.toNat, perHead := ph.toNat, boostFlow := bf.toNat }
      if cfg.inRange then
        .ok { room := room, cfg := cfg, notify := condsOf (half nh nl), cls := c, tag := word t3 t2 t1 t0 }
      else .error .range
    | _, _, _, _ => .error .range
  | _ => .error .format

/-- A context record as RESTORE ROOM carries it (R190). Remaining times are in seconds. -/
structure Context where
  state : RoomState
  phase : Phase
  cursor : Option Nat
  seen : Bool
  head : Nat
  motionHold : Option Nat
  linger : Option Nat
  stillness : Option Nat
  boost : Bool
  overrideScene : Option SceneNum
  conds : CondSet
  overrides : List (NodeRef × Nat)
  deriving DecidableEq, Repr

/-- A booking id, absent when 0 (R16). -/
def idField (x : Half) : Option Nat := if x = 0 then none else some x.toNat

/-- A byte that must be 0 or 1. -/
def bitField (b : Byte) : Option Bool :=
  match b.toNat with
  | 0 => some false
  | 1 => some true
  | _ => none

/-- The node overrides of a context, four bytes each (R16). The outer option is the RANGE test. -/
def overridesOf : List Byte → Option (List (NodeRef × Nat))
  | l :: n :: vh :: vl :: rest =>
    match below 4 l, nodeOf n, overridesOf rest with
    | some line, some node, some more => some ((⟨line, node⟩, (half vh vl).toNat) :: more)
    | _, _, _ => none
  | _ => some []

/-- RESTORE ROOM (R191): FORMAT by the byte count, then RANGE. -/
def restoreOf : List Byte → Except ResultCode (RoomId × Context)
  | r :: st :: ph :: ih :: il :: se :: hh :: hl :: mh :: ml :: lh :: ll :: sh :: sl :: bo :: os :: ch :: cl :: n :: rest =>
    if rest.length ≠ 4 * n.toNat then .error .format
    else
      match below 48 r, RoomState.ofCode st.toNat, Phase.ofCode ph.toNat, bitField se, bitField bo,
        fixedScene os, overridesOf rest with
      | some room, some state, some phase, some seen, some boost, some scene, some overrides =>
        if n.toNat ≤ 16 then
          .ok (room,
            { state := state, phase := phase, cursor := idField (half ih il), seen := seen
              head := (half hh hl).toNat, motionHold := optField2 (half mh ml)
              linger := optField2 (half lh ll), stillness := optField2 (half sh sl), boost := boost
              overrideScene := scene, conds := condsOf (half ch cl), overrides := overrides })
        else .error .range
      | _, _, _, _, _, _, _ => .error .range
  | _ => .error .format

/-! ### Timetable -/

/-- SET CLOCK (R93). -/
def clockOf : List Byte → Except ResultCode Clock
  | [w, mh, ml, s] =>
    if 1 ≤ w.toNat ∧ w.toNat ≤ 52 ∧ (half mh ml).toNat ≤ 10079 ∧ s.toNat ≤ 59 then
      .ok { week := w.toNat, minute := (half mh ml).toNat, second := s.toNat }
    else .error .range
  | _ => .error .format

def targetOf (kind number : Byte) : Option BookingTarget :=
  match kind.toNat with
  | 0 => (below 48 number).map .room
  | 2 => (below 8 number).map .suite
  | _ => none

/-- The RANGE tests of R98 on the numbers of a booking. -/
def Booking.inRange (b : Booking) : Bool :=
  decide (1 ≤ b.id ∧ b.start ≤ 10079 ∧ b.finish ≤ 10079 ∧ b.start < b.finish ∧ b.scene.val ≠ 0 ∧
    b.lead ≤ 120 ∧ b.lag ≤ 60 ∧ b.confirm ≤ 60 ∧ (0 < b.confirm → b.start + b.confirm < b.finish) ∧
    b.heads ≤ 500 ∧ b.lead ≤ b.start ∧ b.finish + b.lag ≤ 10079) &&
    optOk b.week fun w => decide (1 ≤ w ∧ w ≤ 52)

/-- LOAD BOOKING (R98). -/
def bookingOf : List Byte → Except ResultCode Booking
  | [ih, il, tk, tn, sh, sl, eh, el, k, sc, le, la, cw, w, xh, xl] =>
    match targetOf tk tn, BookingKind.ofCode k.toNat, below 32 sc with
    | some target, some kind, some scene =>
      let b : Booking :=
        { id := (half ih il).toNat, target := target, start := (half sh sl).toNat
          finish := (half eh el).toNat, kind := kind, scene := scene, lead := le.toNat, lag := la.toNat
          confirm := cw.toNat, week := optField w, heads := (half xh xl).toNat }
      if b.inRange then .ok b else .error .range
    | _, _, _ => .error .range
  | _ => .error .format

/-- CANCEL BOOKING (R100). -/
def bookingIdOf : List Byte → Except ResultCode Nat
  | [h, l] => if half h l = 0 then .error .range else .ok (half h l).toNat
  | _ => .error .format

/-- LIST BOOKINGS (R101): a room and a first position. -/
def listOf : List Byte → Except ResultCode (RoomId × Nat)
  | [r, h, l] => match below 48 r with | some room => .ok (room, (half h l).toNat) | none => .error .range
  | _ => .error .format

/-! ### Actuation -/

/-- LOAD SCENE (R120). -/
def sceneOf : List Byte → Except ResultCode (SceneNum × Scene)
  | [s, h1, l1, h2, l2, h3, l3, h4, l4, ra, ro, bl, ai] =>
    let levels : Vector (Option Nat) 4 :=
      #v[optField2 (half h1 l1), optField2 (half h2 l2), optField2 (half h3 l3), optField2 (half h4 l4)]
    match below 32 s with
    | some scene =>
      if scene = 0 ∨ ¬ (levels.toList.all fun x => optOk x (· ≤ 1000)) ∨ 60 < ra.toNat ∨
          ¬ optOk (optField ro) (· ≤ 2) ∨ ¬ optOk (optField bl) (· ≤ 100) ∨ ¬ optOk (optField ai) (· ≤ 3) then
        .error .range
      else
        .ok (scene,
          { levels := levels, ramp := ra.toNat, rounding := (optField ro).bind Rounding.ofCode
            blind := optField bl, air := (optField ai).bind AirMode.ofCode })
    | none => .error .range
  | _ => .error .format

/-- LOAD WING (R121). -/
def wingOf : List Byte → Except ResultCode (Rounding × Bool)
  | [r, m] =>
    match Rounding.ofCode r.toNat, bitField m with
    | some rounding, some mirror => .ok (rounding, mirror)
    | _, _ => .error .range
  | _ => .error .format

/-- SET AIR DUTY (R127). -/
def dutyOf : List Byte → Except ResultCode (RoomId × Duty)
  | [r, p, o] =>
    match below 48 r with
    | some room => if o.toNat ≤ p.toNat then .ok (room, ⟨p.toNat, o.toNat⟩) else .error .range
    | none => .error .range
  | _ => .error .format

/-- ROOM SCENE (R129): a room and a scene, absent to clear. -/
def roomSceneOf : List Byte → Except ResultCode (RoomId × Option SceneNum)
  | [r, s] =>
    match below 48 r, fixedScene s with
    | some room, some scene => .ok (room, scene)
    | _, _ => .error .range
  | _ => .error .format

/-! ### Protection -/

/-- A set of rooms in 6 bytes, room 0 in the least significant bit of the first (R16). -/
def roomSetOf (b0 b1 b2 b3 b4 b5 : Byte) : BitVec 48 := b5 ++ (b4 ++ (b3 ++ (b2 ++ (b1 ++ b0))))

/-- The pin of LOAD FAULT: absent, or FP0 to FP3 (R144). -/
def pinOf (b : Byte) : Option (Option PinId) := if b = 0xFF then some none else (below 4 b).map some

/-- LOAD FAULT (R144). -/
def faultOf : List Byte → Except ResultCode (SourceId × FaultConfig)
  | [s, m, hh, hl, p, b0, b1, b2, b3, b4, b5, li, bl, ai] =>
    match below 8 s, FaultMode.ofCode m.toNat, pinOf p, Response.ofCode li.toNat, Response.ofCode bl.toNat,
      Response.ofCode ai.toNat with
    | some source, some mode, some pin, some lights, some blinds, some air =>
      if (half hh hl).toNat ≤ 600 then
        .ok (source,
          { mode := mode, holdOff := (half hh hl).toNat, pin := pin, rooms := roomSetOf b0 b1 b2 b3 b4 b5
            lights := lights, blinds := blinds, air := air })
      else .error .range
    | _, _, _, _, _, _ => .error .range
  | _ => .error .format

/-! ### Suites -/

/-- The members of LOAD SUITE: 2 or 3 distinct rooms, unused bytes 0xFF (R161). -/
def membersOf (count a b c : Byte) : Option (List RoomId) :=
  match count.toNat, below 48 a, below 48 b, below 48 c with
  | 2, some x, some y, none => if c = 0xFF ∧ x ≠ y then some [x, y] else none
  | 3, some x, some y, some z => if x ≠ y ∧ x ≠ z ∧ y ≠ z then some [x, y, z] else none
  | _, _, _, _ => none

/-- LOAD SUITE (R161). -/
def suiteOf : List Byte → Except ResultCode (SuiteId × List RoomId × SceneNum)
  | [g, n, a, b, c, s] =>
    match below 8 g, membersOf n a b c, below 32 s with
    | some suite, some members, some scene => .ok (suite, members, scene)
    | _, _, _ => .error .range
  | _ => .error .format

/-- SET NOTICE MASK (R177): bits 4 to 7 are not examined. -/
def maskOf : List Byte → Except ResultCode (BitVec 4)
  | [m] => .ok (m.truncate 4)
  | _ => .error .format

end Sys2Proof.Machine
end

