-- ==== Sys2Proof/Machine/Ops.lean ====
section
/-!
DEFINITION. Reading and writing the state: one accessor pair per table, the views the manual derives
(log 15), drawing an order where none is set (log 4), and TI's buffers (chapter 1).
-/

namespace Sys2Proof.Machine

/-- What a command answers. -/
abbrev Answer := Host.Outcome State Fault Refusal

/-! ### Reading and changing one place of a table -/

def State.room (s : State) (r : RoomId) : Room := look s.re.rooms r

def onRoom (r : RoomId) (f : Room → Room) (s : State) : State :=
  { s with re := { s.re with rooms := put s.re.rooms r (f (s.room r)) } }

def State.suite (s : State) (g : SuiteId) : Option Suite := look s.re.suites g

def setSuite (g : SuiteId) (x : Option Suite) (s : State) : State :=
  { s with re := { s.re with suites := put s.re.suites g x } }

def onSuite (g : SuiteId) (f : Suite → Suite) (s : State) : State := setSuite g ((s.suite g).map f) s

def State.line (s : State) (l : LineId) : Line := look s.lc.lines l

def onLine (l : LineId) (f : Line → Line) (s : State) : State :=
  { s with lc := { s.lc with lines := put s.lc.lines l (f (s.line l)) } }

/-- The node table entry of a node, if its place holds one (R17). -/
def State.entry (s : State) (n : NodeRef) : Option NodeEntry := look (s.line n.line).nodes n.addr

def setEntry (n : NodeRef) (x : Option NodeEntry) (s : State) : State :=
  onLine n.line (fun l => { l with nodes := put l.nodes n.addr x }) s

def onEntry (n : NodeRef) (f : NodeEntry → NodeEntry) (s : State) : State := setEntry n ((s.entry n).map f) s

/-- The actuation plan entry of a node, if it has one (R131). -/
def State.plan (s : State) (n : NodeRef) : Option Plan := look (look s.ap.plans n.line) n.addr

def setPlan (n : NodeRef) (x : Option Plan) (s : State) : State :=
  { s with ap := { s.ap with plans := put s.ap.plans n.line (put (look s.ap.plans n.line) n.addr x) } }

def onPlan (n : NodeRef) (f : Plan → Plan) (s : State) : State := setPlan n ((s.plan n).map f) s

def State.air (s : State) (r : RoomId) : RoomAir := look s.ap.air r

def onAir (r : RoomId) (f : RoomAir → RoomAir) (s : State) : State :=
  { s with ap := { s.ap with air := put s.ap.air r (f (s.air r)) } }

def State.time (s : State) (r : RoomId) : RoomTime := look s.tu.rooms r

def onTime (r : RoomId) (f : RoomTime → RoomTime) (s : State) : State :=
  { s with tu := { s.tu with rooms := put s.tu.rooms r (f (s.time r)) } }

def State.notice (s : State) (r : RoomId) : RoomNotice := look s.nu.rooms r

def onNotice (r : RoomId) (f : RoomNotice → RoomNotice) (s : State) : State :=
  { s with nu := { s.nu with rooms := put s.nu.rooms r (f (s.notice r)) } }

def State.source (s : State) (f : SourceId) : Source := look s.pu.sources f

def onSource (i : SourceId) (f : Source → Source) (s : State) : State :=
  { s with pu := { s.pu with sources := put s.pu.sources i (f (s.source i)) } }

/-! ### Timers (R64) -/

def seconds (n : Nat) : Timer := some (n * 1000)

def minutes (n : Nat) : Timer := some (n * 60000)

/-- The work of an expiry, done when the timer has run its length (R64). An expiry that waits while the timer is stopped, or
started again, does not come about (R84; log 1). -/
def ifExpired (t : Timer) (f : State → State) (s : State) : State := if t = some 0 then f s else s

/-! ### Node tables -/

def allRooms : List RoomId := List.finRange 48

/-- Every node address in node-table order: line A to line D, ascending address (R17). -/
def allNodes : List NodeRef :=
  (List.finRange 4).flatMap fun l => (List.finRange 32).map fun a => ⟨l, a⟩

/-- The nodes whose entries name a room, in node-table order. -/
def State.nodesOf (s : State) (r : RoomId) : List NodeRef :=
  allNodes.filter fun n => match s.entry n with | some e => e.room == r | none => false

/-- The family of a role (R17). -/
def Role.family : Role → Option Family
  | .light _ _ => some .lights
  | .blind _ => some .blinds
  | .damper => some .air
  | .panel => none
  | .sensor => none

/-- The command kind of an actuator role's targets (R133). -/
def Role.kind : Role → CmdKind
  | .light _ _ => .setLevel
  | .blind _ => .setPosition
  | .damper => .setFlow
  | .panel => .query
  | .sensor => .query

def Role.isBlind : Role → Bool
  | .blind _ => true
  | .light _ _ => false
  | .damper => false
  | .panel => false
  | .sensor => false

def Role.isLight : Role → Bool
  | .light _ _ => true
  | .blind _ => false
  | .damper => false
  | .panel => false
  | .sensor => false

/-- A fresh plan entry (R18). -/
def Plan.fresh : Plan :=
  { target := none, lastSent := none, confirmed := false, override := none, travel := none
    stalled := false, alarm := false, deferred := false }

/-- The plan entry a node with this role begins with: actuator nodes only (R18, R131). -/
def Role.freshPlan (r : Role) : Option Plan := if r.family.isSome then some Plan.fresh else none

/-! ### Lines -/

/-- The band of an item, from its origin (R21). -/
def Origin.band : Origin → Band
  | .protect => .urgent
  | .manage => .urgent
  | .room => .normal
  | .pass => .normal

def Line.queued (l : Line) : List Item := l.urgent ++ l.normal

/-- Line states (R34). -/
inductive LineState
  | idle | awaitEcho | suspended | down
  deriving DecidableEq, Repr

/-- The state a line reports (R34). -/
def Line.state (l : Line) : LineState :=
  if l.down then .down
  else if l.inFlight.isSome then .awaitEcho
  else if l.suspended then .suspended
  else .idle

def LineState.code : LineState → Nat
  | .idle => 0
  | .awaitEcho => 1
  | .suspended => 2
  | .down => 3

def countLine (l : LineId) (f : LineCounts → LineCounts) (s : State) : State :=
  onLine l (fun x => { x with counts := f x.counts }) s

/-! ### Rooms and suites -/

/-- The loaded flag (R61): a room is OFF exactly while it is clear. -/
def Room.loaded (x : Room) : Bool := x.state != .off

/-- A room's presence (R65). -/
def Room.presence (x : Room) : Bool := x.motionHold.isSome || decide (0 < x.head)

/-- The exam suspension (R72). -/
def Room.suspended (x : Room) : Bool := x.phase == .on && x.cursorKind == some .exam

/-- The suite a JOINED room's events go to (R63, R160). -/
def State.joinedSuite (s : State) (r : RoomId) : Option SuiteId :=
  if (s.room r).state = .joined then (s.room r).suite else none

def State.members (s : State) (g : SuiteId) : List RoomId :=
  match s.suite g with | some x => x.members | none => []

/-- The state of a suite place's machine: absent when the place is empty or SPLIT (R160). -/
def State.suiteOcc (s : State) (g : SuiteId) : Option OccState := (s.suite g).bind Suite.occ

/-- A suite has presence when a member has (R160). -/
def State.suitePresence (s : State) (g : SuiteId) : Bool := (s.members g).any fun r => (s.room r).presence

/-- The strength of phases: ON, then PREP, then LAG, then NONE (R160). -/
def Phase.rank : Phase → Nat
  | .on => 3
  | .prep => 2
  | .lag => 1
  | .idle => 0

def Phase.stronger (p q : Phase) : Phase := if p.rank < q.rank then q else p

/-- A suite's effective phase (R160). -/
def State.effectivePhase (s : State) (g : SuiteId) : Phase :=
  ((s.members g).map fun r => (s.room r).phase).foldl Phase.stronger .idle

/-- In standby duty: own state VACANT and phase NONE (R126). -/
def State.inDuty (s : State) (r : RoomId) : Bool :=
  (s.room r).state == .run .vacant && (s.room r).phase == .idle

/-! ### An order where none is set (log 4) -/

/-- Inserts a piece of work, numbered, by the free rank. -/
def insertRanked {α : Type} (n : Nat) (p : α × Nat) : List (α × Nat) → List (α × Nat)
  | [] => [p]
  | q :: qs => if Config.orderRank n p.2 ≤ Config.orderRank n q.2 then p :: q :: qs else q :: insertRanked n p qs

/-- The pieces of work in a free order. -/
def freeOrder {α : Type} (n : Nat) (xs : List α) : List α := (xs.zipIdx.foldr (insertRanked n) []).map Prod.fst

/-- Takes every piece of work once, in a free order. -/
def forEachFree {α : Type} (xs : List α) (f : α → State → State) (s : State) : State :=
  (freeOrder s.choices xs).foldl (fun t x => f x t) { s with choices := s.choices + 1 }

/-- Takes every piece of work once, in the order given. -/
def forEach {α : Type} (xs : List α) (f : α → State → State) (s : State) : State :=
  xs.foldl (fun t x => f x t) s

/-! ### TI's buffers -/

def countTrunk (f : TrunkCounts → TrunkCounts) (s : State) : State :=
  { s with ti := { s.ti with counts := f s.ti.counts } }

/-- The part takes frames from the wires: it is ready and no reset has just taken effect (R196, R197). -/
def State.hears (s : State) : Bool := s.power == .ready && s.deaf.isNone

/-- Places a REPLY or a REJECT: always admitted (R6). -/
def pushTx (f : TxFrame) (s : State) : State := { s with ti := { s.ti with tx := s.ti.tx ++ [f] } }

/-- Offers a MIRROR or a NOTICE: admitted while the queue holds 11 frames or fewer, else dropped and
counted (R6). -/
def offerTx (f : TxFrame) (s : State) : State :=
  if s.ti.tx.length ≤ 11 then pushTx f s
  else
    countTrunk (fun c =>
      match f.kind with
      | .notice => { c with noticesDropped := c.noticesDropped + 1 }
      | _ => { c with mirrorsDropped := c.mirrorsDropped + 1 }) s

/-- A REPLY (R5): request code, result, result data. -/
def replyFrame (tag code : Byte) (result : ResultCode) (data : List Byte) : TxFrame :=
  { kind := .reply, tag := tag, payload := code :: byteOf result.code :: data }

/-- A MIRROR (R15): line, node, line frame kind, payload length, payload. -/
def mirrorFrame (tag : Byte) (n : NodeRef) (kind : Nat) (payload : List Byte) : TxFrame :=
  { kind := .mirror, tag := tag
    payload := byteOf n.line.val :: byteOf n.addr.val :: byteOf kind :: byteOf payload.length :: payload }

/-- The frame TI takes next (R4): the oldest buffered one, while the transmit queue holds 15 frames or
fewer; none once a RESET PART has been accepted (R5). -/
def State.nextFrame (s : State) : Option RxFrame :=
  if s.power = .ready ∧ s.resetStage = .idle ∧ s.ti.tx.length ≤ 15 then s.ti.rx.head? else none

/-- The taken frame leaves the buffer (R4). -/
def dropFrame (s : State) : State := { s with ti := { s.ti with rx := s.ti.rx.tail } }

/-- The owner of a request judges it and, when it is accepted, gives the state after all its work and the
result data. A refused request has no state to give, so it changes nothing (R187). -/
abbrev Handler := List Byte → State → Except ResultCode (State × List Byte)

/-- A request is carried out whole and its REPLY placed once its work is done (R186). -/
def serve (tag code : Byte) (params : List Byte) (h : Handler) (s : State) : State :=
  match h params s with
  | .error r => pushTx (replyFrame tag code r []) s
  | .ok (t, data) => pushTx (replyFrame tag code .done data) t

/-- TI takes a REQUEST with this code, whose parameters `p` accepts. When the oldest buffered frame is no
such request, or TI may take none, the command stands for nothing (log 1). -/
def requestWhen (p : List Byte → Bool) (code : Nat) (h : Handler) (s : State) : Answer :=
  match s.nextFrame with
  | some ⟨.request, tag, c :: params⟩ =>
    if c.toNat = code ∧ p params then .next (serve tag c params h (dropFrame s)) else .next s
  | _ => .next s

def request (code : Nat) (h : Handler) (s : State) : Answer := requestWhen (fun _ => true) code h s

/-- An event of the blocks: it comes about only while the part is ready (R197; log 1). -/
def whenReady (f : State → State) (s : State) : Answer := .next (if s.power = .ready then f s else s)

end Sys2Proof.Machine
end

