-- ==== Sys2Proof/Machine/Flags.lean ====
section
/-!
DEFINITION. Conditions, the status pending flag, NOTICE frames and wing reports (chapter 9, NU).
-/

namespace Sys2Proof.Machine

def Condition.code : Condition → Nat
  | .stateChanged => 0
  | .noShow => 1
  | .overrun => 2
  | .overcrowd => 3
  | .countDrift => 4
  | .nodeLost => 5
  | .driverAlarm => 6
  | .blindStall => 7
  | .protectionEntered => 8
  | .protectionLeft => 9

def CondSet.holds (x : CondSet) (c : Condition) : Bool := x.getLsbD c.code

def CondSet.add (x : CondSet) (c : Condition) : CondSet := x ||| (1#10 <<< c.code)

/-- A class is enabled in the notice mask (R177). -/
def State.enabled (s : State) (c : Fin 4) : Bool := s.nu.mask.getLsbD c.val

/-- A condition is raised against a room (R174). It is discarded while the room is OFF. A notifiable
condition of a room that is not pending makes the room pending and lists it; its NOTICE is built at
the end of the event (R175). -/
def raise (c : Condition) (r : RoomId) (s : State) : State :=
  if (s.room r).state = .off then s
  else
    let n := s.notice r
    let s := onNotice r (fun n => { n with conds := CondSet.add n.conds c }) s
    if CondSet.holds n.notify c && !n.pending then
      let s := onNotice r (fun n => { n with pending := true }) s
      { s with nu := { s.nu with
          pendingList := s.nu.pendingList ++ [r]
          due := if s.enabled n.cls then s.nu.due ++ [r] else s.nu.due } }
    else s

/-- The NOTICE of a room as it stands (R175, R16): tag 0; room, room tag, class, conditions. -/
def State.noticeFrame (s : State) (r : RoomId) : TxFrame :=
  { kind := .notice, tag := 0
    payload := byteOf r.val :: bytes4 (s.notice r).tag ++ byteOf (s.notice r).cls.val :: condBytes (s.notice r).conds }

/-- Builds the NOTICE frames of the event that ends and offers each (R175). -/
def buildNotices (s : State) : State :=
  forEach s.nu.due (fun r t => offerTx (t.noticeFrame r) t) { s with nu := { s.nu with due := [] } }

/-- Sets the overflow mark of the newest entry (R184). -/
def markNewest : List WingReport → List WingReport
  | [] => []
  | [w] => [{ w with overflow := true }]
  | w :: ws => w :: markNewest ws

/-- A wing report is written while the queue holds fewer than 16 entries; otherwise it is lost and the
newest entry carries the overflow mark (R183, R184). -/
def writeWing (k : WingKind) (s : State) : State :=
  if s.nu.wing.length < 16 then
    { s with nu := { s.nu with wing := s.nu.wing ++ [{ kind := k, stamp := s.tu.clock, overflow := false }] } }
  else { s with nu := { s.nu with wing := markNewest s.nu.wing } }

end Sys2Proof.Machine
end

