-- ==== Sys2Proof/Machine/Lines.lean ====
section
/-!
DEFINITION. The line queue (chapter 2, R21 to R26): offering an item, removing items, choosing the item to
send. What a line controller hands AP (a freed place, the node of a superseded or flushed item) waits in
AP's inbox until AP takes it (R22, R135; log 9).
-/

namespace Sys2Proof.Machine

/-- What an offerer is told (R23, R36). -/
inductive OfferAnswer
  | merged | placed | full | down
  deriving DecidableEq, Repr

/-- Two items compete for one place: same node, same command kind (R22, R23). -/
def Item.rivals (a b : Item) : Bool := a.node == b.node && a.kind == b.kind

/-- Puts `it` in the place of its rival (R23). -/
def mergeInto (it : Item) (q : List Item) : List Item := q.map fun x => if x.rivals it then it else x

def Line.band (l : Line) : Band → List Item
  | .urgent => l.urgent
  | .normal => l.normal

def Line.withBand (l : Line) (b : Band) (q : List Item) : Line :=
  match b with
  | .urgent => { l with urgent := q }
  | .normal => { l with normal := q }

def Band.other : Band → Band
  | .urgent => .normal
  | .normal => .urgent

def LineCounts.addAccepted (c : LineCounts) : LineCounts := { c with accepted := c.accepted + 1 }

def LineCounts.addSuperseded (c : LineCounts) (n : Nat) : LineCounts :=
  { c with superseded := c.superseded + BitVec.ofNat 32 n }

def LineCounts.addFlushed (c : LineCounts) (n : Nat) : LineCounts := { c with flushed := c.flushed + BitVec.ofNat 32 n }

/-- A place on a line has freed: AP is told (R22). -/
def tellFreed (l : LineId) (s : State) : State :=
  if l ∈ s.ap.freed then s else { s with ap := { s.ap with freed := s.ap.freed ++ [l] } }

/-- The nodes of superseded or flushed items are handed to AP (R135). -/
def handNodes (l : LineId) (its : List Item) (s : State) : State :=
  { s with ap := { s.ap with handed := s.ap.handed ++ its.map fun it => ⟨l, it.node⟩ } }

/-- What an LC does with an offered item (R23, R24, R36), on its line alone: the line afterwards, the
items that left its queue superseded (a merge is none: that item stays queued), and the answer. -/
def Line.offer (x : Line) (it : Item) : Line × List Item × OfferAnswer :=
  let own := it.origin.band
  let accepted := { x with counts := x.counts.addAccepted }
  if x.down then (x, [], .down)
  else if (x.band own).any it.rivals then
    ({ (x.withBand own (mergeInto it (x.band own))) with counts := x.counts.addAccepted.addSuperseded 1 }, [], .merged)
  else if (x.band own.other).any it.rivals then
    let out := (x.band own.other).filter it.rivals
    let y := x.withBand own.other ((x.band own.other).filter fun y => !it.rivals y)
    ({ (y.withBand own (x.band own ++ [it])) with counts := x.counts.addAccepted.addSuperseded out.length }, out, .placed)
  else if x.queued.length < 32 then
    (accepted.withBand own (x.band own ++ [it]), [], .placed)
  else
    match own, x.normal.getLast? with
    | .urgent, some newest =>
      ({ x with urgent := x.urgent ++ [it], normal := x.normal.dropLast
                counts := x.counts.addAccepted.addSuperseded 1 }, [newest], .placed)
    | _, _ => (x, [], .full)

/-- An item is offered to the controller of a line (R23, R24). The node of a displaced ROOM item is
marked deferred (R24). -/
def offer (l : LineId) (it : Item) (s : State) : State × OfferAnswer :=
  let r := (s.line l).offer it
  let s := onLine l (fun _ => r.1) s
  match r.2.1 with
  | [] => (s, r.2.2)
  | out =>
    let s := forEach out (fun o t =>
      if o.origin = .room ∧ ¬ o.rivals it then onPlan ⟨l, o.node⟩ (fun p => { p with deferred := true }) t else t) s
    (tellFreed l (handNodes l out s), r.2.2)

/-- How a removal claim counts what it removes (R25). -/
inductive RemovalKind
  | superseded | flushed
  deriving DecidableEq, Repr

/-- A removal claim on one line (R25): every queued item in the set leaves; the item in flight is not
touched. -/
def removeItems (l : LineId) (p : Item → Bool) (k : RemovalKind) (s : State) : State :=
  let x := s.line l
  let out := x.queued.filter p
  if out = [] then s
  else
    let counts := match k with
      | .superseded => x.counts.addSuperseded out.length
      | .flushed => x.counts.addFlushed out.length
    let s := onLine l (fun x =>
      { x with urgent := x.urgent.filter fun i => !p i, normal := x.normal.filter fun i => !p i, counts := counts }) s
    tellFreed l (handNodes l out s)

/-- All queued items of one node leave, counted flushed (R25). -/
def flushNode (n : NodeRef) (s : State) : State := removeItems n.line (fun it => it.node == n.addr) .flushed s

/-- The item an IDLE line takes (R26): the oldest URGENT; else the oldest NORMAL whose link mark is the
follow mark; else the oldest NORMAL. -/
def Line.nextItem (x : Line) : Option Item :=
  match x.urgent with
  | it :: _ => some it
  | [] =>
    match x.follow with
    | some m => (x.normal.find? fun it => it.link == some m) <|> x.normal.head?
    | none => x.normal.head?

/-- The echo timeout of a line in milliseconds (R41). -/
def Line.timeoutMs (x : Line) : Nat := if x.timeoutSetting = 0 then 512 else 2 * x.timeoutSetting.toNat

/-- The value of the item of a node's command kind that is on its way (R133): the queued one, else the
one in flight. -/
def Line.onItsWay (x : Line) (node : NodeAddr) (kind : CmdKind) : Option Item :=
  (x.queued ++ x.inFlight.toList).find? fun it => it.node == node && it.kind == kind

/-- A node has an item queued or in flight (R132). -/
def Line.holds (x : Line) (node : NodeAddr) : Bool := (x.queued ++ x.inFlight.toList).any fun it => it.node == node

end Sys2Proof.Machine
end

