-- ==== Sys2Proof/Machine/Compose.lean ====
section
/-!
DEFINITION. Composing targets (chapter 6, R119 to R125; chapter 7, R152; chapter 8, R169).
-/

namespace Sys2Proof.Machine

/-! ### Protection of a room and family (R152) -/

/-- The value a response imposes on a family's nodes (R122, layer 1); HOLD imposes none. -/
def Source.imposes (x : Source) : Family → Option Nat
  | .lights =>
    match x.cfg.lights with
    | .first => some 1000
    | .second => some 0
    | .hold => none
  | .blinds =>
    match x.cfg.blinds with
    | .first => some 0
    | .second => some 100
    | .hold => none
  | .air =>
    match x.cfg.air with
    | .first => some 100
    | .second => some 0
    | .hold => none

/-- In force: ACTIVE, CLEARING or HELD (R143). -/
def Source.inForce (x : Source) : Bool := x.state != .idle

/-- A source meets the three conditions of R152 for a room and family. -/
def Source.governs (x : Source) (r : RoomId) (f : Family) : Bool :=
  x.inForce && x.cfg.rooms.getLsbD r.val && (x.imposes f).isSome

def allSources : List SourceId := List.finRange 8

/-- The governing source: the lowest-numbered one that governs (R152). -/
def Pu.governing (p : Pu) (r : RoomId) (f : Family) : Option SourceId :=
  allSources.find? fun i => (look p.sources i).governs r f

/-- The protected value of a room's family; absent is HOLD (R152, R122). -/
def State.protection (s : State) (r : RoomId) (f : Family) : Option Nat :=
  (s.pu.governing r f).bind fun i => (s.source i).imposes f

/-! ### Scenes (R119) -/

/-- Scene 0, built in. -/
def Scene.builtIn : Scene :=
  { levels := #v[some 0, some 0, some 0, some 0], ramp := 0, rounding := none, blind := none, air := some .standby }

/-- An empty place is composed as a scene whose optional fields are absent, with ramp 0. -/
def Scene.empty : Scene :=
  { levels := #v[none, none, none, none], ramp := 0, rounding := none, blind := none, air := none }

/-- The scene a place holds; scene 0 is always present. -/
def State.loadedScene (s : State) (n : SceneNum) : Option Scene :=
  if n = 0 then some Scene.builtIn else look s.ap.scenes n

def State.scene (s : State) (n : SceneNum) : Scene := (s.loadedScene n).getD Scene.empty

/-! ### Levels and flows (R124, R125) -/

/-- The light level of a node with this step (R124, step 2). -/
def roundLevel (rounding : Rounding) (step level : Nat) : Nat :=
  let low := level / step * step
  let high := if low = level then level else low + step
  let chosen :=
    match rounding with
    | .down => low
    | .up => high
    | .nearest => if level - low < high - level then low else high
  if 1000 < chosen then 1000 / step * step else chosen

/-- The linger level discards the fraction (R124, step 1). -/
def scaleLevel (percent level : Nat) : Nat := level * percent / 100

/-- The demand flow (R125). -/
def demandFlow (c : RoomConfig) (head : Nat) : Nat := min 100 (c.comfortBase + c.perHead * head / 10)

/-- The flow an air mode gives in a room (R125). -/
def Room.flow (x : Room) : AirMode → Nat
  | .standby => x.cfg.standbyFlow
  | .comfort => if x.boost then x.cfg.boostFlow else demandFlow x.cfg x.head
  | .purge => 100
  | .shut => 0

/-! ### Layer 5 (R123, R169) -/

def State.findBooking (s : State) (id : Nat) : Option Booking := s.tu.store.find? fun b => b.id == id

/-- The booking of a room's cursor. -/
def State.cursorBooking (s : State) (r : RoomId) : Option Booking :=
  (s.time r).cursor.bind fun c => s.findBooking c.occ.id

/-- The booking scene of a room (R123); with no cursor booking, no field (log 16). AP takes it from the cursor booking of
the room's last phase report (R106). Until the next report it stays so, also when SET CLOCK, LOAD BOOKING, CANCEL BOOKING or a
boundary has taken that booking out of the store (log 40). -/
def State.bookingScene (s : State) (r : RoomId) : Scene :=
  match (s.room r).bookingScene with
  | some n => s.scene n
  | none => Scene.empty

/-- What layer 5 reads: the room's own state and scenes, or its suite's (R123, R169). -/
structure View where
  occ : OccState
  phase : Phase
  booking : Scene
  adHoc : Scene
  vacant : Scene
  lingerLevel : Nat
  dutyFlow : Nat

/-- The flow standby duty gives (R126): 0 in the OFF part, else the standby flow. -/
def State.dutyFlow (s : State) (r : RoomId) : Nat :=
  match (s.air r).part with
  | some .off => 0
  | _ => (s.room r).cfg.standbyFlow

/-- The member whose own phase is the strongest, earliest in the list (R169). -/
def State.strongest (s : State) (g : SuiteId) : Option RoomId :=
  (s.members g).find? fun r => (s.room r).phase == s.effectivePhase g

/-- The view of a room that is not OFF. A JOINED member takes its suite's (R169). -/
def State.view (s : State) (r : RoomId) : Option View :=
  let x := s.room r
  match x.state with
  | .off => none
  | .run o =>
    some { occ := o, phase := x.phase, booking := s.bookingScene r, adHoc := s.scene x.cfg.adHocScene
           vacant := s.scene x.cfg.vacantScene, lingerLevel := x.cfg.lingerLevel, dutyFlow := s.dutyFlow r }
  | .joined =>
    match x.suite with
    | none => none
    | some g =>
      match s.suite g with
      | none => none
      | some su =>
        su.occ.map fun o =>
          let lead := (s.room (su.members.headD r)).cfg
          { occ := o, phase := s.effectivePhase g
            booking := match s.strongest g with | some m => s.bookingScene m | none => Scene.empty
            adHoc := s.scene su.adHocScene, vacant := s.scene lead.vacantScene
            lingerLevel := lead.lingerLevel, dutyFlow := x.cfg.standbyFlow }

/-- What the table of R123 selects for lights or blinds: a scene, or the light value 0 with the booking
scene's ramp, or nothing for the pairs the table leaves out (log 16). -/
inductive Choice
  | scene (x : Scene)
  | zero (ramp : Nat)
  | keep

def View.lights (v : View) : Choice :=
  match v.occ, v.phase with
  | .vacant, .idle => .scene v.vacant
  | .vacant, .lag => .zero v.booking.ramp
  | .preparing, .prep => .zero v.booking.ramp
  | .expected, .on => .scene v.booking
  | .occupied, .idle => .scene v.adHoc
  | .occupied, _ => .scene v.booking
  | .linger, .idle => .scene v.adHoc
  | .linger, _ => .scene v.booking
  | _, _ => .keep

def View.blinds (v : View) : Choice :=
  match v.occ, v.phase with
  | .vacant, .idle => .scene v.vacant
  | .vacant, .lag => .scene v.vacant
  | .preparing, .prep => .scene v.booking
  | .expected, .on => .scene v.booking
  | .occupied, .idle => .scene v.adHoc
  | .occupied, _ => .scene v.booking
  | .linger, .idle => .scene v.adHoc
  | .linger, _ => .scene v.booking
  | _, _ => .keep

/-- The air of layer 5: standby duty, or a scene's mode (R123). -/
inductive AirChoice
  | duty
  | scene (x : Scene)
  | keep

def View.air (v : View) : AirChoice :=
  match v.occ, v.phase with
  | .vacant, .idle => .duty
  | .vacant, .lag => .scene v.booking
  | .preparing, .prep => .scene v.booking
  | .expected, .on => .scene v.booking
  | .occupied, .idle => .scene v.adHoc
  | .occupied, _ => .scene v.booking
  | .linger, .idle => .scene v.adHoc
  | .linger, _ => .scene v.booking
  | _, _ => .keep

/-- The air mode layer 5 gives, when it gives one (R125). -/
def View.airMode (v : View) : Option AirMode :=
  match v.air with
  | .duty => some .standby
  | .scene x => x.air
  | .keep => none

/-! ### Composition of one node (R122) -/

/-- A LIGHT node's value from a scene (R124); absent is KEEP. -/
def lightFrom (s : State) (lingers : Bool) (lingerLevel : Nat) (x : Scene) (group : Fin 4) (step : Nat) :
    Option Target :=
  (look x.levels group).map fun level =>
    { value := roundLevel (x.rounding.getD s.ap.rounding) step (if lingers then scaleLevel lingerLevel level else level)
      ramp := x.ramp, protect := false }

/-- A value without a ramp that layer 1 did not give. -/
def plain (v : Nat) : Target := { value := v, ramp := 0, protect := false }

/-- Layer 5 for one node (R123). -/
def layer5 (s : State) (v : View) (r : RoomId) : Role → Option Target
  | .light group step =>
    match v.lights with
    | .scene x => lightFrom s (v.occ == .linger) v.lingerLevel x group step
    | .zero ramp => some { value := 0, ramp := ramp, protect := false }
    | .keep => none
  | .blind _ =>
    match v.blinds with
    | .scene x => x.blind.map plain
    | .zero _ => none
    | .keep => none
  | .damper =>
    match v.air with
    | .duty => some (plain v.dutyFlow)
    | .scene x => x.air.map fun m => plain ((s.room r).flow m)
    | .keep => none
  | .panel => none
  | .sensor => none

/-- Layer 4: the override scene's field for the node; absent when the layer does not apply (R122). -/
def layer4 (s : State) (v : View) (r : RoomId) (role : Role) : Option Target :=
  match (s.room r).overrideScene with
  | none => none
  | some n =>
    match role with
    | .light group step => lightFrom s (v.occ == .linger) v.lingerLevel (s.scene n) group step
    | .blind _ => (s.scene n).blind.map plain
    | .damper => (s.scene n).air.map fun m => plain ((s.room r).flow m)
    | .panel => none
    | .sensor => none

/-- Composition (R122): the first layer that applies; absent is KEEP. -/
def compose (s : State) (r : RoomId) (role : Role) (p : Plan) : Option Target :=
  match s.view r with
  | none => none
  | some v =>
    match role.family.bind (s.protection r) with
    | some value => some { value := value, ramp := 0, protect := true }
    | none =>
      if role = .damper ∧ (s.room r).windows ≠ [] then some (plain 0)
      else
        match p.override with
        | some value => some (plain value)
        | none => (layer4 s v r role).orElse fun _ => layer5 s v r role

/-- The composed target has the value of the old one (R132). -/
def Plan.sameValue (p : Plan) (t : Target) : Bool := p.target.any fun old => old.value == t.value

/-- A composition result is taken into the plan entry (R132, R139): another value, or the first, clears the stalled flag and
the same value leaves it, with the new ramp and layer. KEEP changes nothing. -/
def Plan.take (p : Plan) : Option Target → Plan
  | none => p
  | some t => { p with target := some t, stalled := p.stalled && p.sameValue t }

/-- One node of a room is composed (R122, R132). -/
def composeNode (n : NodeRef) (s : State) : State :=
  match s.entry n with
  | some e => onPlan n (fun p => p.take (compose s e.room e.role p)) s
  | none => s

end Sys2Proof.Machine
end

