-- ==== Sys2Proof/Machine/Planner.lean ====
section
/-!
DEFINITION. Delivery (chapter 6, R126, R132 to R140): examining a node, recomposing a room, AP's inbox,
standby duty, completions, node health and blind travel.
-/

namespace Sys2Proof.Machine

/-! ### Examination (R133) -/

/-- The item that carries a node's target (R133). Only light items of a recomposition carry a link mark
(R132). -/
def targetItem (n : NodeRef) (role : Role) (t : Target) (link : Option RoomId) : Item :=
  { node := n.addr, kind := role.kind, value := t.value, ramp := if role.isLight then t.ramp else 0
    origin := if t.protect then .protect else .room, link := if role.isLight then link else none, passTag := none }

/-- The conditions under which an examination offers nothing, and otherwise the target to offer (R133). A blind that
travels to its target, stands there confirmed or has the SET POSITION to it in flight is offered nothing, a protective target
with a STOP queued in front of it included (R155, R159; log 39). -/
def examined (s : State) (n : NodeRef) (e : NodeEntry) (p : Plan) : Option Target :=
  match p.target with
  | none => none
  | some t =>
    if (s.room e.room).state = .off ∨ e.health = .offline ∨ p.stalled then none
    else if e.role.isBlind ∧ p.travel.isSome ∧ p.lastSent = some t.value then none
    else
      match (s.line n.line).onItsWay n.addr e.role.kind with
      | some it => if it.value ≠ t.value then some t else none
      | none => if p.lastSent ≠ some t.value ∨ p.confirmed = false then some t else none

/-- The line controller's answer settles the deferred flag (R133). -/
def noteAnswer (n : NodeRef) (a : OfferAnswer) (s : State) : State :=
  match a with
  | .merged => onPlan n (fun p => { p with deferred := false }) s
  | .placed => onPlan n (fun p => { p with deferred := false }) s
  | .full => onPlan n (fun p => { p with deferred := true }) s
  | .down => s

/-- AP examines one node (R133). -/
def examine (link : Option RoomId) (n : NodeRef) (s : State) : State :=
  match s.entry n, s.plan n with
  | some e, some p =>
    match examined s n e p with
    | some t =>
      let r := offer n.line (targetItem n e.role t link) s
      noteAnswer n r.2 r.1
    | none => s
  | _, _ => s

/-! ### AP's inbox (R22, R134, R135; log 9) -/

/-- AP retries a line's deferred nodes in node-table order (R134). -/
def retryDeferred (l : LineId) (s : State) : State :=
  forEach (List.finRange 32) (fun a t =>
    match t.plan ⟨l, a⟩ with
    | some p =>
      if p.deferred then examine none ⟨l, a⟩ (onPlan ⟨l, a⟩ (fun p => { p with deferred := false }) t) else t
    | none => t) s

/-- AP examines the nodes handed to it (R135). -/
def takeHanded (s : State) : State :=
  forEach s.ap.handed (examine none) { s with ap := { s.ap with handed := [] } }

/-- AP takes the freed places told to it (R134). -/
def takeFreed (s : State) : State :=
  forEach s.ap.freed retryDeferred { s with ap := { s.ap with freed := [] } }

/-- One round of AP's inbox. -/
def settleRound (s : State) : State := takeFreed (takeHanded s)

/-- AP empties its inbox. An offer of the first round can displace a NORMAL item, whose node a second
round finds deferred; a further round finds nothing to do (log 9). -/
def settle (s : State) : State := settleRound (settleRound (settleRound s))

/-- The end of an event: AP has taken what was handed to it, and the event's NOTICE frames are built (R175;
log 11). -/
def endEvent (s : State) : State := buildNotices (settle s)

/-! ### Recomposition (R132) -/

/-- The state air mode takes the mode layer 5 gives, when it gives one (R125). -/
def updateAirMode (r : RoomId) (s : State) : State :=
  match (s.view r).bind View.airMode with
  | some m => onAir r (fun a => { a with mode := some m }) s
  | none => s

/-- Every actuator node of a room is composed (R122, R132). -/
def composeRoom (r : RoomId) (s : State) : State := forEach (s.nodesOf r) composeNode (updateAirMode r s)

/-- A room's actuator nodes are examined in two passes, first the nodes that have an item queued or in flight, then the
others (R132). -/
def examineRoom (r : RoomId) (s : State) : State :=
  let busy := (s.nodesOf r).filter fun n => (s.line n.line).holds n.addr
  let rest := (s.nodesOf r).filter fun n => !(s.line n.line).holds n.addr
  forEach rest (examine (some r)) (forEach busy (examine (some r)) s)

/-- AP recomposes a room that is not OFF (R132). -/
def recompose (r : RoomId) (s : State) : State :=
  if (s.room r).state = .off then s else examineRoom r (composeRoom r s)

/-- AP recomposes every member of a suite in list order (R165, R167, R168). -/
def recomposeMembers (g : SuiteId) (s : State) : State := forEach (s.members g) recompose s

/-- AP recomposes every room that is not OFF, in a free order (R120, R121; log 4). -/
def recomposeAll (s : State) : State := forEachFree (allRooms.filter fun r => (s.room r).loaded) recompose s

/-! ### Standby duty (R126) -/

/-- A period starts: a pending duty becomes active, and the ON or OFF part begins (R126). -/
def startPeriod (a : RoomAir) : RoomAir :=
  let d := a.waiting.getD a.active
  let a := { a with active := d, waiting := none }
  if d.period = 0 then { a with part := none, timer := none }
  else if 0 < d.onTime then { a with part := some .on, timer := minutes d.onTime }
  else { a with part := some .off, timer := minutes d.period }

/-- The room leaves duty: the timer stops and the part is forgotten (R126). -/
def RoomAir.leaveDuty (a : RoomAir) : RoomAir := { a with part := none, timer := none }

/-- Duty follows an event: `was` says whether the room was in duty before it (R126). -/
def dutyEdge (was : Bool) (r : RoomId) (s : State) : State :=
  if was then if s.inDuty r then s else onAir r RoomAir.leaveDuty s
  else if s.inDuty r then onAir r startPeriod s else s

/-- The duty timer expires (R126). -/
def RoomAir.expire (a : RoomAir) : RoomAir :=
  match a.part with
  | some .on =>
    if a.active.onTime = a.active.period then startPeriod a
    else { a with part := some .off, timer := minutes (a.active.period - a.active.onTime) }
  | _ => startPeriod a

/-! ### Overrides (R130) -/

/-- AP clears the override of an actuator node of a family that `p` names. -/
def clearOverride (p : Family → Bool) (n : NodeRef) (s : State) : State :=
  if (s.entry n).any fun e => e.role.family.any p then onPlan n (fun q => { q with override := none }) s else s

/-- AP clears the node overrides of the room's actuator nodes that `p` names. -/
def clearOverrides (p : Family → Bool) (r : RoomId) (s : State) : State := forEach (s.nodesOf r) (clearOverride p) s

/-! ### Completions (R135, R137, R140) -/

/-- Within 2 of each other (R137). -/
def within2 (a b : Nat) : Bool := decide (a ≤ b + 2 ∧ b ≤ a + 2)

/-- The plan entry judged against a position: confirmed when it is within 2 of the last sent value (R138,
R140). -/
def Plan.judge (p : Plan) (position : Nat) : Bool :=
  match p.lastSent with | some v => within2 position v | none => false

/-- A delivered item is taken into the plan entry (R135, R137, R140). `current` is the echo's current value. -/
def Plan.delivered (p : Plan) (role : Role) (it : Item) (current : Nat) : Plan :=
  match it.kind with
  | .setLevel => { p with lastSent := some it.value, confirmed := true }
  | .setFlow => { p with lastSent := some it.value, confirmed := true }
  | .setPosition =>
    match role with
    | .blind travel =>
      if within2 current it.value then
        { p with lastSent := some it.value, stalled := false, confirmed := true, travel := none }
      else { p with lastSent := some it.value, stalled := false, confirmed := false, travel := seconds (travel + 5) }
    | _ => p
  | .stop =>
    if role.isBlind then { p with travel := none, lastSent := none, confirmed := false, target := none } else p
  | .query =>
    if role.isBlind ∧ p.travel.isSome then { p with travel := none, confirmed := p.judge current } else p

/-! ### Node health (R32, R33, R136) -/

def setHealth (n : NodeRef) (h : Health) (missed : Bool) (s : State) : State :=
  onEntry n (fun e => { e with health := h, missed := missed }) s

/-- A node becomes OFFLINE (R32, R33, R136): its queued items are flushed, NODE LOST is raised for its room,
and its plan entry loses confirmation, deferral and travel timer. -/
def goOffline (n : NodeRef) (s : State) : State :=
  match s.entry n with
  | some e =>
    let s := flushNode n (setHealth n .offline false s)
    raise .nodeLost e.room (onPlan n (fun p => { p with confirmed := false, deferred := false, travel := none }) s)
  | none => s

/-- A valid frame makes its sender ONLINE with miss count 0; a change is handed to AP, which examines the
node (R20, R32, R136). -/
def hearNode (n : NodeRef) (s : State) : State :=
  match s.entry n with
  | some e =>
    let t := setHealth n .online false s
    if e.health = .online then t else examine none n t
  | none => s

/-! ### Lines going DOWN and coming UP (R35, R37) -/

/-- The nodes of a line that have entries, in ascending address. -/
def State.nodesOn (s : State) (l : LineId) : List NodeRef :=
  ((List.finRange 32).map fun a => (⟨l, a⟩ : NodeRef)).filter fun n => (s.entry n).isSome

/-- The line goes DOWN (R35). -/
def lineGoesDown (l : LineId) (s : State) : State :=
  let s := onLine l (fun x => { x with down := true, follow := none, timeouts := 0 }) s
  let s := removeItems l (fun _ => true) .flushed s
  let s := forEach (s.nodesOn l) (fun n t =>
    if (t.entry n).any (fun e => e.health == .offline) then t else goOffline n t) s
  writeWing (.lineDown l) (countLine l (fun c => { c with timesDown := c.timesDown + 1 }) s)

/-- The line comes UP on a frame from `sender` (R37): the sender ONLINE, the others SUSPECT with miss count
0, LINE UP written; AP takes the changes, the sender's first (log 20). -/
def lineComesUp (l : LineId) (sender : NodeAddr) (s : State) : State :=
  let others := (s.nodesOn l).filter fun n => n.addr != sender
  let s := onLine l (fun x => { x with down := false }) s
  let s := setHealth ⟨l, sender⟩ .online false s
  let s := forEach others (fun n t => setHealth n .suspect false t) s
  let s := writeWing (.lineUp l) s
  forEach others (examine none) (examine none ⟨l, sender⟩ s)

/-- What every valid frame does to its line (R20): counted, consecutive timeouts 0, a DOWN line UP. -/
def validFrame (l : LineId) (sender : NodeAddr) (s : State) : State :=
  let wasDown := (s.line l).down
  let s := onLine l (fun x =>
    { x with timeouts := 0, counts := { x.counts with validFrames := x.counts.validFrames + 1 } }) s
  if wasDown then lineComesUp l sender s else s

/-- The item in flight ends: the wire is released, the echo timer stops, and the follow mark is the item's
link mark (R26, R28, R30). -/
def endInFlight (l : LineId) (it : Item) (s : State) : State :=
  onLine l (fun x => { x with inFlight := none, echoTimer := none, driving := false, follow := it.link }) s

end Sys2Proof.Machine
end

