-- ==== Sys2Proof/Machine/Occupancy.lean ====
section
/-!
DEFINITION. The Room Engine (chapters 4 and 8): the occupancy machine of a room and of a joined suite, the room
actions, phase reports, joining and splitting.

An event of a room ends in one recomposition by AP, made once every field has taken its value of after the event
(log 10), and then in `endEvent`.
-/

namespace Sys2Proof.Machine

/-! ### The occupancy machine (R77, R79, R83) -/

/-- A phase report taken by the machine (R77). -/
def OccState.onPhase : OccState → Phase → OccState
  | .vacant, .prep => .preparing
  | .vacant, .on => .expected
  | .vacant, _ => .vacant
  | .preparing, .prep => .preparing
  | .preparing, .on => .expected
  | .preparing, _ => .vacant
  | .expected, .prep => .preparing
  | .expected, .on => .expected
  | .expected, _ => .vacant
  | .occupied, _ => .occupied
  | .linger, _ => .linger

/-- Presence falls (R77, R78). -/
def OccState.onFall : OccState → OccState
  | .occupied => .linger
  | o => o

/-- The state a phase gives without presence (R79, R83). -/
def Phase.place : Phase → OccState
  | .prep => .preparing
  | .on => .expected
  | .lag => .vacant
  | .idle => .vacant

/-- The re-entry rule (R83). -/
def reentry (presence : Bool) (p : Phase) : OccState := if presence then .occupied else p.place

/-- The linger timer follows a change of state: started on entry to LINGER, stopped on leaving it (R78, R79). -/
def lingerAfter (new : OccState) (length : Nat) : Timer := if new = .linger then seconds length else none

/-- Entry of a room to VACANT (R82). -/
def enterVacant (r : RoomId) (s : State) : State :=
  clearOverrides (fun _ => true) r (onRoom r (fun x => { x with overrideScene := none, boost := false }) s)

/-- A room takes a state. A change raises STATE CHANGED, and entry to VACANT clears what R82 names. -/
def setRoomState (r : RoomId) (st : RoomState) (s : State) : State :=
  if (s.room r).state = st then s
  else
    let s := raise .stateChanged r (onRoom r (fun x => { x with state := st }) s)
    if st = .run .vacant then enterVacant r s else s

/-- A room's own machine moves (R77, R78, R79, R82). -/
def moveRoom (r : RoomId) (f : OccState → OccState) (s : State) : State :=
  match (s.room r).state with
  | .run o =>
    if f o = o then s
    else setRoomState r (.run (f o)) (onRoom r (fun x => { x with linger := lingerAfter (f o) x.cfg.lingerTime }) s)
  | .off => s
  | .joined => s

/-- The lead of a suite. -/
def State.leadOf (s : State) (g : SuiteId) : RoomId := (s.members g).headD 0

/-- A joined suite's machine moves (R168). The members are told in list order (log 41). -/
def moveSuite (g : SuiteId) (f : OccState → OccState) (s : State) : State :=
  match s.suiteOcc g with
  | some o =>
    if f o = o then s
    else
      let length := (s.room (s.leadOf g)).cfg.lingerTime
      let s := onSuite g (fun x => { x with occ := some (f o), linger := lingerAfter (f o) length }) s
      let s := forEach (s.members g) (raise .stateChanged) s
      if f o = .vacant then
        forEach (s.members g) (fun m t =>
          clearOverrides (fun _ => true) m (onRoom m (fun x => { x with boost := false }) t)) s
      else s
  | none => s

/-! ### Presence (R65, R81, R166) -/

/-- Presence of a room after an event is compared with its presence before it, and a rise or fall goes to the
room's machine, or to its suite's. -/
def presenceEdge (s0 : State) (r : RoomId) (s : State) : State :=
  let before := (s0.room r).presence
  let after := (s.room r).presence
  let s := if after && !before then onRoom r (fun x => { x with seen := true }) s else s
  match s.joinedSuite r with
  | some g =>
    if s.suitePresence g && !s0.suitePresence g then
      moveSuite g (fun _ => .occupied) (onSuite g (fun x => { x with seen := true }) s)
    else if s0.suitePresence g && !s.suitePresence g then moveSuite g OccState.onFall s
    else s
  | none =>
    if after && !before then moveRoom r (fun _ => .occupied) s
    else if before && !after then moveRoom r OccState.onFall s
    else s

/-- What AP composes a room from, of the fields a room event changes (R132). -/
def Room.drives (x : Room) : RoomState × Nat × Bool × Bool := (x.state, x.head, x.boost, x.windows.isEmpty)

/-- AP recomposes after a room event: every member when the suite's state changed, else the room alone when
something it is composed from changed (R132, R166, R168; log 10). -/
def recomposeAfter (s0 : State) (r : RoomId) (s : State) : State :=
  let own := if (s.room r).drives = (s0.room r).drives then s else recompose r s
  match s.joinedSuite r with
  | some g => if s.suiteOcc g = s0.suiteOcc g then own else recomposeMembers g s
  | none => own

/-- The end of a room event, once its evidence has changed. -/
def afterRoomEvent (s0 : State) (r : RoomId) (s : State) : State :=
  endEvent (recomposeAfter s0 r (dutyEdge (s0.inDuty r) r (presenceEdge s0 r s)))

/-! ### The head estimate and stillness (R67 to R71) -/

/-- A count value: 0 is taken as 1, above 50 as 50 (R67, R68). -/
def countValue (v : Half) : Nat := if v = 0 then 1 else min 50 v.toNat

/-- The start test of the stillness timer (R70). -/
def Room.startStillness (x : Room) : Room :=
  if 0 < x.head ∧ x.motionHold.isNone ∧ ¬ x.suspended ∧ x.stillness.isNone then
    { x with stillness := minutes x.cfg.countTrust }
  else x

/-- A count that leaves the estimate above 0 restarts a running stillness timer (R70). -/
def Room.restartStillness (x : Room) : Room :=
  if x.stillness.isSome then { x with stillness := minutes x.cfg.countTrust } else x

/-- MOTION (R66). -/
def Room.motion (x : Room) : Room := { x with motionHold := seconds x.cfg.motionHold, stillness := none }

/-- COUNT IN (R67, R70). -/
def Room.countIn (v : Half) (x : Room) : Room :=
  let y := { x with head := min 999 (x.head + countValue v) }
  if x.head = 0 then y.startStillness else y.restartStillness

/-- COUNT OUT (R68, R70, R71). -/
def Room.countOut (v : Half) (x : Room) : Room :=
  let y := { x with head := x.head - countValue v }
  if x.head = 0 then x else if y.head = 0 then { y with stillness := none } else y.restartStillness

/-- COUNT OUT raises COUNT DRIFT (R68). -/
def Room.drifts (v : Half) (x : Room) : Bool := decide (x.head < countValue v)

/-- The test of R69 on the estimate as it stands. -/
def overcrowdTest (r : RoomId) (s : State) : State :=
  let x := s.room r
  if x.cfg.capacity < x.head then
    if x.aboveCapacity then s else raise .overcrowd r (onRoom r (fun x => { x with aboveCapacity := true }) s)
  else onRoom r (fun x => { x with aboveCapacity := false }) s

/-! ### CO2 and windows (R73 to R75) -/

/-- OCCUPIED or LINGER, the room's own state or its suite's (R73, R168). -/
def State.inUse (s : State) (r : RoomId) : Bool :=
  let used : OccState → Bool := fun o => o == .occupied || o == .linger
  match (s.room r).state with
  | .run o => used o
  | .joined => ((s.room r).suite.bind s.suiteOcc).any used
  | .off => false

/-- A CO2 action: the value stored, the latch tested when `tested` holds (R73). -/
def Room.co2Action (tested : Bool) (v : Half) (x : Room) : Room :=
  let boost :=
    if tested then
      if x.cfg.co2Threshold ≤ v.toNat then true
      else if v.toNat ≤ x.cfg.co2Threshold - x.cfg.hysteresis then false
      else x.boost
    else x.boost
  { x with co2 := some v, boost := boost }

/-- WINDOW OPEN (R74). -/
def Room.windowOpen (n : NodeRef) (x : Room) : Room :=
  if n ∈ x.windows ∨ 8 ≤ x.windows.length then x else { x with windows := x.windows ++ [n] }

/-- WINDOW CLOSED (R75). -/
def Room.windowClosed (n : NodeRef) (x : Room) : Room := { x with windows := x.windows.filter (· != n) }

/-! ### Override scenes (R128) -/

/-- A new override scene: stored, the node overrides cleared, the room recomposed. -/
def setOverrideScene (n : SceneNum) (r : RoomId) (s : State) : State :=
  recompose r (clearOverrides (fun _ => true) r (onRoom r (fun x => { x with overrideScene := some n }) s))

/-- PANEL SCENE, and PANEL OFF with scene 0 (R128). -/
def panel (n : SceneNum) (r : RoomId) (s : State) : State :=
  if (s.room r).state = .joined ∨ s.loadedScene n = none then s else setOverrideScene n r s

/-! ### Room actions (R63) -/

/-- A room action taken by a room that is not OFF, up to the end of its event. -/
def takeRoomAct (act : RoomAct) (n : NodeRef) (value : Half) (r : RoomId) (s : State) : State :=
  match act with
  | .motion => afterRoomEvent s r (onRoom r Room.motion s)
  | .countIn => afterRoomEvent s r (overcrowdTest r (onRoom r (Room.countIn value) s))
  | .countOut =>
    let t := onRoom r (Room.countOut value) s
    afterRoomEvent s r (overcrowdTest r (if (s.room r).drifts value then raise .countDrift r t else t))
  | .co2 =>
    let tested := s.inUse r && (s.air r).mode == some .comfort
    afterRoomEvent s r (onRoom r (Room.co2Action tested value) s)
  | .windowOpen => afterRoomEvent s r (onRoom r (Room.windowOpen n) s)
  | .windowClosed => afterRoomEvent s r (onRoom r (Room.windowClosed n) s)
  | .panelScene (some scene) => endEvent (panel scene r s)
  | .panelScene none =>
    endEvent (if h : value.toNat < 32 then panel ⟨value.toNat, h⟩ r s else s)
  | .panelOff => endEvent (panel 0 r s)

/-- A room action reaches a room (R63): an OFF room discards it. -/
def roomAction (act : RoomAct) (n : NodeRef) (value : Half) (r : RoomId) (s : State) : State :=
  if (s.room r).state = .off then s else takeRoomAct act n value r s

/-! ### Phase reports (R76, R80, R81, R167) -/

/-- The exam suspension follows a phase report (R72). `was` says whether it applied before. -/
def Room.suspendExam (was : Bool) (x : Room) : Room :=
  if x.suspended then if was then x else { x with stillness := none }
  else if was then x.startStillness else x

/-- RE stores a phase report (R76), with the seen flag (R81) and the exam suspension (R72). The report is the event by which
RE learns the cursor booking's kind, and AP its scene (R106). -/
def Room.storePhase (p : Phase) (cursor : Option Booking) (x : Room) : Room :=
  Room.suspendExam x.suspended
    { x with phase := p, cursorKind := cursor.map Booking.kind, bookingScene := cursor.map Booking.scene
             seen := if p = .on then x.presence else x.seen }

/-- A phase report taken by a JOINED member's suite (R166, R167, R168). OVERRUN is raised for the members in list order
(log 41). -/
def suitePhase (g : SuiteId) (p before : Phase) (s : State) : State :=
  let after := s.effectivePhase g
  let presence := s.suitePresence g
  let s := if p = .on then onSuite g (fun x => { x with seen := presence }) s else s
  let s :=
    if s.suiteOcc g = some .occupied ∧ before = .on ∧ after = .lag then forEach (s.members g) (raise .overrun) s else s
  recomposeMembers g (moveSuite g (fun o => o.onPhase after) s)

/-- A phase report of TU, with the cursor booking, reaches a room (R76, R80). TU makes none for a room that is OFF. -/
def phaseReport (r : RoomId) (p : Phase) (cursor : Option Booking) (s0 : State) : State :=
  let x := s0.room r
  let s := onRoom r (Room.storePhase p cursor) s0
  match x.state with
  | .off => s0
  | .run o =>
    let s := if o = .occupied ∧ x.phase = .on ∧ p = .lag then raise .overrun r s else s
    recompose r (dutyEdge (s0.inDuty r) r (moveRoom r (fun o => o.onPhase p) s))
  | .joined =>
    match x.suite with
    | some g => suitePhase g p (s0.effectivePhase g) s
    | none => s

/-! ### Joining and splitting (R164, R165, R171) -/

/-- One member joins (R165, step 2). -/
def joinMember (r : RoomId) (s : State) : State :=
  let s := if s.inDuty r then onAir r RoomAir.leaveDuty s else s
  clearOverrides (fun _ => true) r
    (onRoom r (fun x => { x with linger := none, overrideScene := none }) (setRoomState r .joined s))

/-- A SPLIT suite joins (R165). Steps 1, 3 and 4 write one suite record; the members' work of step 2 reads none
of it. -/
def joinSuite (g : SuiteId) (s : State) : State :=
  let s := forEach (s.members g) joinMember s
  let seen := (s.members g).any fun r => (s.room r).seen
  let occ := reentry (s.suitePresence g) (s.effectivePhase g)
  recomposeMembers g (onSuite g (fun x => { x with occ := some occ, seen := seen, linger := none }) s)

/-- One member splits off (R171, step 2). -/
def splitMember (r : RoomId) (s : State) : State :=
  let x := s.room r
  let s := setRoomState r (.run (reentry x.presence x.phase)) s
  recompose r (dutyEdge false r (clearOverrides (fun _ => true) r s))

/-- A JOINED suite splits (R171). -/
def splitSuite (g : SuiteId) (s : State) : State :=
  forEach (s.members g) splitMember (onSuite g (fun x => { x with occ := none, seen := false, linger := none }) s)

/-- A partition action (R164). -/
def partitionAction (opens : Bool) (g : SuiteId) (s : State) : State :=
  match s.suite g with
  | none => s
  | some x =>
    if opens && x.occ.isNone then endEvent (joinSuite g s)
    else if !opens && x.occ.isSome then endEvent (splitSuite g s)
    else s

/-! ### Expiries (R66, R71, R79, R168, R126, R139) -/

def motionHoldEnds (r : RoomId) (s : State) : State :=
  afterRoomEvent s r (onRoom r (fun x => Room.startStillness { x with motionHold := none }) s)

def stillnessEnds (r : RoomId) (s : State) : State :=
  let s1 := onRoom r (fun x => { x with head := 0, stillness := none, aboveCapacity := false }) s
  afterRoomEvent s r (raise .countDrift r s1)

def lingerEnds (r : RoomId) (s : State) : State :=
  let move : OccState → OccState := fun o => if o = .linger then (s.room r).phase.place else o
  afterRoomEvent s r (moveRoom r move (onRoom r (fun x => { x with linger := none }) s))

def suiteLingerEnds (g : SuiteId) (s : State) : State :=
  let move : OccState → OccState := fun o => if o = .linger then (s.effectivePhase g).place else o
  endEvent (recomposeMembers g (moveSuite g move (onSuite g (fun x => { x with linger := none }) s)))

/-- AP recomposes when the duty part has changed (R126, R132). -/
def recomposePart (before : Option DutyPart) (r : RoomId) (s : State) : State :=
  if (s.air r).part = before then s else endEvent (recompose r s)

def dutyEnds (r : RoomId) (s : State) : State := recomposePart (s.air r).part r (onAir r RoomAir.expire s)

/-- BLIND STALL is raised for a node's room (R138, R139); an OFF room discards it (R174). -/
def travelEnds (n : NodeRef) (s : State) : State :=
  let t := onPlan n (fun p => { p with travel := none, stalled := true, confirmed := false }) s
  match s.entry n with
  | some e => endEvent (raise .blindStall e.room t)
  | none => t

end Sys2Proof.Machine
end

