-- ==== Sys2Proof/Machine/Protection.lean ====
section
/-!
DEFINITION. The Protection Unit (chapter 7): assertion, the source state machine, and the protection changes it
hands to AP.
-/

namespace Sys2Proof.Machine

/-- A source is asserted (R143). -/
def Source.asserted (p : Pu) (x : Source) : Bool :=
  x.cfg.pin.any (look p.pins) || x.classifierFlag || x.supervisorFlag

/-- The room a node serves and its family, as a test on the queued items of a line (R154, step 1). -/
def State.itemOf (s : State) (l : LineId) (r : RoomId) (p : Family → Bool) (it : Item) : Bool :=
  (it.origin == .room || it.origin == .pass) &&
    match s.entry ⟨l, it.node⟩ with
    | some e => e.room == r && e.role.family.any p
    | none => false

/-- The removal claims of an entry, one for each line (R154, step 1). -/
def removeFamily (p : Family → Bool) (r : RoomId) (s : State) : State :=
  forEach (List.finRange 4) (fun l t => removeItems l (t.itemOf l r p) .superseded t) s

/-- A family enters protection between two summaries (R153). -/
def enters (old new : Pu) (r : RoomId) (f : Family) : Bool :=
  (old.governing r f).isNone && (new.governing r f).isSome

/-- A family leaves protection (R153). -/
def leaves (old new : Pu) (r : RoomId) (f : Family) : Bool :=
  (old.governing r f).isSome && (new.governing r f).isNone

def allFamilies : List Family := [.lights, .blinds, .air]

/-- One room's protection change, taken whole by AP (R153, R154, R156, R157). `old` is the summary before. The recomposition
is R132's: a stalled blind keeps its stall, and is sent nothing, where the protected position was its target already, and any
new target value clears it (R139, R155; log 36). -/
def protectionChange (old : Pu) (r : RoomId) (s : State) : State :=
  if (s.room r).state = .off then s
  else if allFamilies.all fun f => old.governing r f == s.pu.governing r f then s
  else
    let enter := enters old s.pu r
    let leave := leaves old s.pu r
    let s := clearOverrides enter r (removeFamily enter r s)
    let s := recompose r s
    let s := if allFamilies.any enter then raise .protectionEntered r s else s
    endEvent (if allFamilies.any leave then raise .protectionLeft r s else s)

/-- A source goes into or out of force (R151, R153): its wing report, and the changes of its rooms in ascending
number. -/
def sourceMoves (i : SourceId) (f : Source → Source) (k : WingKind) (s : State) : State :=
  forEach (allRooms.filter fun r => (s.source i).cfg.rooms.getLsbD r.val) (protectionChange s.pu)
    (writeWing k (onSource i f s))

/-- A source becomes ACTIVE from IDLE. -/
def activate (i : SourceId) (s : State) : State :=
  sourceMoves i (fun x => { x with state := .active }) (.faultAsserted i) s

/-- A source becomes IDLE, its hold-off timer stopped. -/
def endSource (i : SourceId) (s : State) : State :=
  sourceMoves i (fun x => { x with state := .idle, timer := none }) (.faultEnded i) s

/-- The assertion test (R148). -/
def testAssertion (i : SourceId) (s : State) : State :=
  let x := s.source i
  match x.state, x.asserted s.pu with
  | .idle, true => activate i s
  | .active, false =>
    match x.cfg.mode with
    | .latched => onSource i (fun x => { x with state := .held }) s
    | .auto =>
      if x.cfg.holdOff = 0 then endSource i s
      else onSource i (fun x => { x with state := .clearing, timer := seconds x.cfg.holdOff }) s
  | .clearing, true => onSource i (fun x => { x with state := .active, timer := none }) s
  | .held, true => onSource i (fun x => { x with state := .active }) s
  | _, _ => s

/-- A classifier claim (R146). -/
def claimFault (i : SourceId) (sets : Bool) (s : State) : State :=
  if (s.source i).classifierFlag = sets then s
  else testAssertion i (onSource i (fun x => { x with classifierFlag := sets }) s)

/-- A debounced pin changes (R145). The sources that name it are tested in a free order (log 4). -/
def pinChanges (p : PinId) (low : Bool) (s : State) : State :=
  if look s.pu.pins p = low then s
  else
    let s := { s with pu := { s.pu with pins := put s.pu.pins p low } }
    forEachFree (allSources.filter fun i => (s.source i).cfg.pin == some p) testAssertion s

/-- The hold-off timer expires in CLEARING (R149). -/
def holdOffEnds (i : SourceId) (s : State) : State := endSource i s

end Sys2Proof.Machine
end

