-- ==== Sys2Proof/Machine/Classifier.lean ====
section
/-!
DEFINITION. The Report Classifier (chapter 3): matching, the search, delivery and mirroring.
-/

namespace Sys2Proof.Machine

/-- A report as a line controller hands it to CL (R20). -/
structure LineReport where
  ref : NodeRef
  code : ReportCode
  value : Half

/-- An optional field of a rule passes when it is ANY or equal (R49). -/
def anyOr {α : Type} [DecidableEq α] (field : Option α) (x : α) : Bool :=
  match field with | none => true | some y => decide (y = x)

/-- The value test (R49). -/
def Rule.valueTest (x : Rule) (v : Half) : Bool := (((v ^^^ x.reference) &&& x.mask) != 0) == x.whenDifferent

/-- A rule matches a report (R49). -/
def Rule.hits (x : Rule) (rep : LineReport) : Bool :=
  anyOr x.line rep.ref.line && anyOr x.node rep.ref.addr && anyOr x.code rep.code && x.valueTest rep.value

/-- The rules that hit, in ascending index, up to the first without the continue flag (R50). -/
def search (rep : LineReport) : List (Option Rule) → List Rule
  | [] => []
  | none :: rest => search rep rest
  | some x :: rest => if x.hits rep then (if x.goesOn then x :: search rep rest else [x]) else search rep rest

/-- A target becomes a room (R51); `home` is the room of the node's entry as the report is taken. -/
def RoomTarget.resolve (home : Option RoomId) : RoomTarget → Option RoomId
  | .room r => some r
  | .fromNode => home

/-- The action of a hit is handed on (R52 to R55). -/
def deliver (rep : LineReport) (home : Option RoomId) (x : Rule) (s : State) : State :=
  match x.action with
  | .room act target =>
    match target.resolve home with
    | some r => roomAction act rep.ref rep.value r s
    | none => s
  | .partition opens g => partitionAction opens g s
  | .fault sets i => claimFault i sets s
  | .ignore => s

/-- The stranger flag of a line (R59). -/
def noteStranger (n : NodeRef) (s : State) : State :=
  if look s.cl.strangers n.line then s
  else
    let t := writeWing (.stranger n.line n.addr) s
    if s.nu.wing.length < 16 then { t with cl := { t.cl with strangers := put t.cl.strangers n.line true } } else t

/-- A report is mirrored when the search ends (R57, R58). -/
def mirrored (hits : List Rule) (unclassified : Bool) : Bool :=
  match hits with | [] => unclassified | _ => hits.any Rule.mirror

/-- CL takes a report whole (R48, R50, R56 to R59). The work of each action is finished before the next rule's action is
handed on, whichever blocks they reach (log 33). -/
def classify (rep : LineReport) (s : State) : State :=
  let home := (s.entry rep.ref).map NodeEntry.room
  let s := if home.isNone then noteStranger rep.ref s else s
  let hits := search rep s.cl.rules.toList
  let t := forEach hits (deliver rep home) s
  if mirrored hits t.ap.mirrorUnclassified then
    offerTx (mirrorFrame 0 rep.ref 1 (byteOf (reportByte rep.code) :: bytes2 rep.value)) t
  else t

end Sys2Proof.Machine
end

