-- ==== Sys2Proof/Machine/Timetable.lean ====
section
/-!
DEFINITION. The Timetable Unit (chapter 5): bookings and their lists, selection and advance, catch-up, marks,
passing, and the minute boundary.
-/

namespace Sys2Proof.Machine

/-! ### Bookings (R95, R96, R97) -/

/-- List order: start, then id (R96). -/
def Booking.before (a b : Booking) : Bool :=
  decide (a.start < b.start) || (a.start == b.start && decide (a.id < b.id))

/-- A booking takes its place in the store (R96). -/
def insertBooking (b : Booking) : List Booking → List Booking
  | [] => [b]
  | c :: cs => if b.before c then b :: c :: cs else c :: insertBooking b cs

/-- A booking stands in a room's list (R96). -/
def State.lists (s : State) (r : RoomId) (b : Booking) : Bool :=
  match b.target with
  | .room q => q == r
  | .suite g => (s.room r).suite == some g

/-- A room's booking list: a view of the store (R96; log 15). -/
def State.bookingsOf (s : State) (r : RoomId) : List Booking := s.tu.store.filter (s.lists r)

/-- A booking applies to a week (R95). -/
def Booking.applies (b : Booking) (week : Nat) : Bool :=
  match b.week with | none => true | some w => w == week

def Booking.prepAt (b : Booking) : Nat := b.start - b.lead
def Booking.confirmAt (b : Booking) : Nat := b.start + b.confirm
def Booking.releaseAt (b : Booking) : Nat := b.finish + b.lag

/-- Two bookings overlap in some week to which both apply (R97). -/
def Booking.overlaps (a b : Booking) : Bool :=
  decide (a.start < b.finish) && decide (b.start < a.finish) &&
    match a.week, b.week with | some v, some w => v == w | _, _ => true

/-- The rooms whose list a booking joins (R99). -/
def State.roomsOf (s : State) (b : Booking) : List RoomId := allRooms.filter fun r => s.lists r b

/-! ### Hand-off and search (R103, R104) -/

/-- The follower of an occurrence in a list (R103). -/
def follower (list : List Booking) (released : Option Occurrence) (b : Booking) (week : Nat) : Option Booking :=
  list.find? fun c => b.before c && c.applies week && released != some ⟨c.id, week⟩

/-- An occurrence hands over at END (R103, R112). -/
def handsOver (list : List Booking) (released : Option Occurrence) (b : Booking) (week : Nat) : Bool :=
  match follower list released b week with
  | some c => decide (c.prepAt ≤ b.releaseAt)
  | none => false

/-- The hand-off time (R103). -/
def handOff (list : List Booking) (released : Option Occurrence) (b : Booking) (week : Nat) : Nat :=
  if handsOver list released b week then b.finish else b.releaseAt

/-- The week after a week (R90, R104). -/
def weekAfter (w : Nat) : Nat := if w = 52 then 1 else w + 1

/-- A search of a list (R104): `from` says which bookings the current week's search looks at. -/
def searchList (clock : Option Clock) (list : List Booking) (released : Option Occurrence) (from_ : Booking → Bool) :
    Option (Booking × Nat) :=
  match clock with
  | none => none
  | some c =>
    let now := list.find? fun b =>
      from_ b && b.applies c.week && decide (c.minute < handOff list released b c.week) &&
        released != some ⟨b.id, c.week⟩
    match now with
    | some b => some (b, c.week)
    | none => (list.find? fun b => b.applies (weekAfter c.week)).map fun b => (b, weekAfter c.week)

/-- Selection for a room (R104). -/
def State.select (s : State) (r : RoomId) : Option (Booking × Nat) :=
  searchList s.tu.clock (s.bookingsOf r) (s.time r).released fun _ => true

/-- Advance from a booking (R104). -/
def State.advance (s : State) (r : RoomId) (b : Booking) : Option (Booking × Nat) :=
  searchList s.tu.clock (s.bookingsOf r) (s.time r).released b.before

/-! ### Catch-up (R105) -/

/-- The marks of an occurrence at their own minutes, armed where `armed` holds of the minute. -/
def Booking.marks (b : Booking) (armed : Nat → Bool) : Marks :=
  { prep := ⟨b.prepAt, armed b.prepAt⟩, start := ⟨b.start, armed b.start⟩
    confirm := if 0 < b.confirm then some ⟨b.confirmAt, armed b.confirmAt⟩ else none
    finish := ⟨b.finish, armed b.finish⟩, release := ⟨b.releaseAt, armed b.releaseAt⟩ }

/-- The CONFIRM mark when catch-up lands in ON (R105). -/
def Booking.lateConfirm (b : Booking) (minute : Nat) : Option Mark :=
  if 0 < b.confirm then
    let at_ := max b.confirmAt (minute + b.confirm)
    some ⟨at_, decide (at_ < b.finish)⟩
  else none

/-- Catch-up of an occurrence in the current week (R105). At or after RELEASE, which no search finds, nothing is
armed (log 23). -/
def Booking.caughtUp (b : Booking) (minute : Nat) : Phase × Marks :=
  if minute < b.prepAt then (.idle, b.marks fun _ => true)
  else if minute < b.start then (.prep, { b.marks fun _ => true with prep := ⟨b.prepAt, false⟩ })
  else if minute < b.finish then
    (.on, { b.marks fun _ => true with
              prep := ⟨b.prepAt, false⟩, start := ⟨b.start, false⟩, confirm := b.lateConfirm minute })
  else if minute < b.releaseAt then
    (.lag, { b.marks fun _ => false with release := ⟨b.releaseAt, true⟩ })
  else (.idle, b.marks fun _ => false)

/-- Cursor, phase and cursor booking after catch-up of what a search found (R105). -/
def catchUp (clock : Option Clock) (found : Option (Booking × Nat)) : Option Cursor × Phase × Option Booking :=
  match clock, found with
  | some c, some (b, week) =>
    let pm := if week = c.week then b.caughtUp c.minute else (.idle, b.marks fun _ => true)
    (some { occ := ⟨b.id, week⟩, marks := pm.2 }, pm.1, some b)
  | _, _ => (none, .idle, none)

/-- A loaded room is given what a search found: cursor, catch-up and the one phase report (R105, R106). -/
def giveCursor (r : RoomId) (found : Option (Booking × Nat)) (s : State) : State :=
  let c := catchUp s.tu.clock found
  phaseReport r c.2.1 c.2.2 (onTime r (fun t => { t with cursor := c.1 }) s)

/-! ### Removal, passing and re-selection (R107, R108, R115) -/

/-- Release records for which `p` holds are cleared. -/
def clearReleases (p : Occurrence → Bool) (s : State) : State :=
  { s with tu := { s.tu with rooms := s.tu.rooms.map fun t => { t with released := t.released.filter fun o => !p o } } }

/-- Bookings leave the store, with the release records that name their occurrences (R115). -/
def removeBookings (p : Booking → Bool) (s : State) : State :=
  let gone := (s.tu.store.filter p).map Booking.id
  clearReleases (fun o => gone.contains o.id) { s with tu := { s.tu with store := s.tu.store.filter fun b => !p b } }

/-- Another room's cursor holds an occurrence (R115). -/
def State.heldElsewhere (s : State) (r : RoomId) (o : Occurrence) : Bool :=
  allRooms.any fun q => q != r && (s.time q).cursor.any fun c => c.occ == o

/-- A room's cursor occurrence is passed (R107). `early` marks a no-show and a ROOM RELEASE. -/
def passOccurrence (early : Bool) (r : RoomId) (s : State) : State :=
  match (s.time r).cursor with
  | none => s
  | some c =>
    match s.findBooking c.occ.id with
    | none => s
    | some b =>
      let s := if early then onTime r (fun t => { t with released := some c.occ }) s else s
      let s := if b.week.isSome && !s.heldElsewhere r c.occ then removeBookings (fun x => x.id == b.id) s else s
      giveCursor r (s.advance r b) s

/-- A room's cursor is re-selected (R108). `changed` is the booking the request replaced or loaded. The selection decides
in every case (log 37). -/
def reselect (changed : Option Nat) (r : RoomId) (s : State) : State :=
  if (s.room r).state = .off then s
  else
    match s.select r, (s.time r).cursor with
    | none, none => s
    | some f, some c => if c.occ = ⟨f.1.id, f.2⟩ ∧ changed ≠ some c.occ.id then s else giveCursor r (some f) s
    | found, _ => giveCursor r found s

/-! ### Mark events (R110 to R114) -/

/-- The five marks, in mark order. -/
inductive MarkName
  | prep | start | confirm | finish | release
  deriving DecidableEq, Repr

def allMarks : List MarkName := [.prep, .start, .confirm, .finish, .release]

def Marks.get (m : Marks) : MarkName → Option Mark
  | .prep => some m.prep
  | .start => some m.start
  | .confirm => m.confirm
  | .finish => some m.finish
  | .release => some m.release

/-- A mark becomes spent. -/
def Marks.spend (m : Marks) : MarkName → Marks
  | .prep => { m with prep := ⟨m.prep.minute, false⟩ }
  | .start => { m with start := ⟨m.start.minute, false⟩ }
  | .confirm => { m with confirm := m.confirm.map fun x => ⟨x.minute, false⟩ }
  | .finish => { m with finish := ⟨m.finish.minute, false⟩ }
  | .release => { m with release := ⟨m.release.minute, false⟩ }

/-- TU sets a room's phase by a mark (R106). -/
def markPhase (r : RoomId) (p : Phase) (s : State) : State := phaseReport r p (s.cursorBooking r) s

/-- The seen-since-start flag CONFIRM reads: the suite's while the room is JOINED (R111, R170). -/
def State.seenForConfirm (s : State) (r : RoomId) : Bool :=
  match s.joinedSuite r with
  | some g => (s.suite g).any Suite.seen
  | none => (s.room r).seen

/-- The cursor occurrence hands over at END, from the list as it stands (R112). -/
def State.cursorHandsOver (s : State) (r : RoomId) (o : Occurrence) : Bool :=
  match s.findBooking o.id with
  | some b => handsOver (s.bookingsOf r) (s.time r).released b o.week
  | none => false

/-- A reached mark of occurrence `o`, already spent, is taken. The answer says whether it passed the occurrence. -/
def takeMark (r : RoomId) (o : Occurrence) (k : MarkName) (s : State) : State × Bool :=
  match k with
  | .prep => (markPhase r .prep s, false)
  | .start => (markPhase r .on s, false)
  | .confirm => if s.seenForConfirm r then (s, false) else (passOccurrence true r (raise .noShow r s), true)
  | .finish => if s.cursorHandsOver r o then (passOccurrence false r s, true) else (markPhase r .lag s, false)
  | .release => (passOccurrence false r s, true)

/-- The marks of one room at a boundary, in mark order, until one of them passes the occurrence (R91, R114). Each
is an event of its own (log 11). -/
def takeMarks (r : RoomId) (minute week : Nat) : List MarkName → State → State
  | [], s => s
  | k :: rest, s =>
    match (s.time r).cursor with
    | none => s
    | some c =>
      if c.occ.week = week ∧ (c.marks.get k).any (fun m => m.armed && m.minute == minute) then
        let spent := onTime r (fun t => { t with cursor := some { c with marks := c.marks.spend k } }) s
        let q := takeMark r c.occ k spent
        if q.2 then endEvent q.1 else takeMarks r minute week rest (endEvent q.1)
      else takeMarks r minute week rest s

/-! ### The clock (R90 to R93) -/

/-- The clock after a minute boundary (R90). -/
def Clock.nextMinute (c : Clock) : Clock :=
  if c.minute = 10079 then { week := weekAfter c.week, minute := 0, second := 0 }
  else { week := c.week, minute := c.minute + 1, second := 0 }

def State.loadedRooms (s : State) : List RoomId := allRooms.filter fun r => (s.room r).loaded

/-- A room without a cursor is selected at the week boundary (R92). Its selection and phase report are an event of their own
for the building of NOTICE frames: the model's choice (log 42). -/
def selectIfNone (r : RoomId) (s : State) : State :=
  match (s.time r).cursor, s.select r with
  | none, some f => endEvent (giveCursor r (some f) s)
  | _, _ => s

/-- The week boundary work (R92). -/
def weekBoundary (ended : Nat) (s : State) : State :=
  let s := clearReleases (fun _ => true) (removeBookings (fun b => b.week == some ended) s)
  forEachFree s.loadedRooms selectIfNone s

/-- A minute boundary of a clock that is set (R91). All the marks of one room are taken before those of the next
(log 35). -/
def minutePasses (c : Clock) (s : State) : State :=
  let n := c.nextMinute
  let s := { s with tu := { s.tu with clock := some n } }
  let s := if n.minute = 0 then weekBoundary c.week s else s
  forEachFree s.loadedRooms (fun r => takeMarks r n.minute n.week allMarks) s

/-- SET CLOCK replaces the clock (R93, step 1; log 17). What the old clock has due is void (log 38). -/
def replaceClock (c : Clock) (s : State) : State :=
  { s with tu := { s.tu with clock := some c, ms := 0, void := s.tu.void || decide (1000 ≤ s.tu.ms) } }

/-- SET CLOCK, once accepted (R93). -/
def setClock (c : Clock) (s : State) : State :=
  let s := replaceClock c s
  let s := removeBookings (fun b => match b.week with | some w => decide (w < c.week) | none => false) s
  let s := clearReleases (fun _ => true) s
  let s := forEachFree s.loadedRooms (fun r t => giveCursor r (t.select r) t) s
  endEvent (writeWing .clockSet s)

end Sys2Proof.Machine
end

