-- ==== Sys2Proof/Machine/Trunk.lean ====
section
/-!
DEFINITION. The commands of TI and PF, reset and power (chapter 1, R2 to R15; chapter 10, R196, R197).
-/

namespace Sys2Proof.Machine

/-! ### Reception (R2) -/

/-- The check of a trunk frame is correct: its last two bytes are the CRC of the others (R2). -/
def checkOk (bs : List Byte) : Bool :=
  bytes2 (crc16 (bs.take (bs.length - 2))) == bs.drop (bs.length - 2)

/-- The kind and form of test 3 (R2). -/
def rxKindOf (kind : Byte) (length : Nat) : Option RxKind :=
  if 240 < length then none
  else if kind = 1 then some .request
  else if kind = 3 ∧ length = 6 then some .pass
  else none

/-- A strapped value of 1 to 62 is an address; 0 and 63 are none (R3). -/
def Ti.addressed (t : Ti) : Bool := t.address != 0 && t.address != 63

/-- The address test of R2. -/
def Ti.isMine (t : Ti) (address : Byte) : Bool := t.addressed && address == t.address.zeroExtend 8

/-- The tests of R2 in order on a complete frame. -/
def Ti.receive (t : Ti) (f : RawFrame) : Ti :=
  let c := t.counts
  if brokenOnTrunk f then { t with counts := { c with malformed := c.malformed + 1 } }
  else if !checkOk f.bytes then { t with counts := { c with checkErrors := c.checkErrors + 1 } }
  else
    match f.bytes with
    | address :: kind :: tag :: length :: rest =>
      if !t.isMine address then { t with counts := { c with foreign := c.foreign + 1 } }
      else
        match rxKindOf kind length.toNat with
        | none => { t with counts := { c with malformed := c.malformed + 1 } }
        | some k =>
          if t.rx.length < 4 then
            { t with rx := t.rx ++ [{ kind := k, tag := tag, payload := rest.take length.toNat }]
                     counts := { c with received := c.received + 1 } }
          else { t with counts := { c with overruns := c.overruns + 1 } }
    | _ => t

/-- TRUNK FRAME RECEIVED (R2). -/
def execTrunkFrameReceived (f : RawFrame) (s : State) : Answer :=
  .next (if s.hears then { s with ti := s.ti.receive f } else s)

/-! ### Transmission (R6) -/

/-- The REPLY DONE of a RESET PART (R5). -/
def isResetReply (f : TxFrame) : Bool := f.kind == .reply && f.payload == [1, 0]

/-- FRAME SENT (R6): the oldest frame has left the queue. A part without an address sends nothing (R3), and
nothing more is sent once the REPLY to RESET PART has gone (R196; log 8). -/
def execFrameSent (s : State) : Answer :=
  match s.ti.tx with
  | [] => .next s
  | f :: rest =>
    if s.power = .ready ∧ s.resetStage ≠ .replySent ∧ s.ti.addressed then
      let s := { s with ti := { s.ti with tx := rest, counts := { s.ti.counts with sent := s.ti.counts.sent + 1 } } }
      .next (if s.resetStage = .requested ∧ isResetReply f then { s with resetStage := .replySent } else s)
    else .next s

/-! ### Requests TI answers (R5, R7) -/

/-- The request codes of the layout section (R16). -/
def requestCodes : List Nat :=
  [0x01, 0x02, 0x10, 0x11, 0x12, 0x13, 0x20, 0x21, 0x30, 0x31, 0x32, 0x33, 0x40, 0x41, 0x42, 0x43, 0x44, 0x45,
   0x50, 0x51, 0x52, 0x53, 0x54, 0x60, 0x61, 0x62, 0x63, 0x70, 0x71, 0x80, 0x81, 0x82, 0x83, 0x84]

/-- UNKNOWN REQUEST CODE (R5): an empty REQUEST is answered with code 0, one with an unlisted code with its
first byte. -/
def execUnknownRequestCode (s : State) : Answer :=
  match s.nextFrame with
  | some ⟨.request, tag, []⟩ => .next (pushTx (replyFrame tag 0 .format []) (dropFrame s))
  | some ⟨.request, tag, c :: _⟩ =>
    .next (if c.toNat ∈ requestCodes then s else pushTx (replyFrame tag c .format []) (dropFrame s))
  | _ => .next s

def readTrunkCounters : Handler := fun ps s => do
  noBytes ps
  pure (s, s.ti.counts.bytes)

/-- READ TRUNK COUNTERS (R7). -/
def execReadTrunkCounters (s : State) : Answer := request 0x02 readTrunkCounters s

/-! ### PASS (R10 to R12) -/

/-- A role accepts a command kind (R10, check 3). -/
def Role.accepts : Role → CmdKind → Bool
  | .light _ _, k => k == .setLevel || k == .stop || k == .query
  | .blind _, k => k == .setPosition || k == .stop || k == .query
  | .damper, k => k == .setFlow || k == .stop || k == .query
  | .panel, k => k == .query
  | .sensor, k => k == .query

/-- Checks 4 to 7 of R10, in order, for a node that has the entry `e`. -/
def passState (s : State) (c : PassCommand) (e : NodeEntry) : Option RejectReason :=
  let x := s.room e.room
  let l := s.line c.ref.line
  if x.state = .off ∨ (c.kind = .setFlow ∧ x.windows ≠ []) then some .state
  else if (e.role.family.bind (s.protection e.room)).isSome then some .guarded
  else if l.down ∨ e.health = .offline then some .offline
  else if 32 ≤ l.queued.length ∧ ¬ (l.queued.any fun it => it.node == c.ref.addr && it.kind == c.kind) then
    some .lineFull
  else none

/-- The seven checks of R10 in order. -/
def judgePass (s : State) (payload : List Byte) : Except RejectReason PassCommand :=
  match passCommand payload with
  | none => .error .unknown
  | some c =>
    match s.entry c.ref with
    | none => .error .unknown
    | some e =>
      if e.role.accepts c.kind then
        match passState s c e with
        | some r => .error r
        | none => .ok c
      else .error .unknown

/-- The item of an admitted PASS (R12). -/
def PassCommand.item (c : PassCommand) (tag : Byte) : Item :=
  { node := c.ref.addr, kind := c.kind, value := c.value, ramp := c.ramp, origin := .pass, link := none
    passTag := some tag }

/-- STOP and QUERY set no value (R12). -/
def CmdKind.setsValue : CmdKind → Bool
  | .setLevel => true
  | .setPosition => true
  | .setFlow => true
  | .stop => false
  | .query => false

/-- PF hands the item of an admitted PASS to its line, and AP takes the node override (R12, R130). -/
def admitPass (tag : Byte) (c : PassCommand) (s : State) : State :=
  let s := (offer c.ref.line (c.item tag) s).1
  if c.kind.setsValue then
    endEvent (examine none c.ref (composeNode c.ref (onPlan c.ref (fun p => { p with override := some c.value }) s)))
  else endEvent s

/-- The REJECT of a refused PASS (R11): reason, and line and node as the PASS carried them. -/
def rejectFrame (tag : Byte) (r : RejectReason) (payload : List Byte) : TxFrame :=
  { kind := .reject, tag := tag, payload := byteOf r.code :: payload.take 2 }

/-- PASS (R10 to R12). -/
def execPass (s : State) : Answer :=
  match s.nextFrame with
  | some ⟨.pass, tag, payload⟩ =>
    match judgePass s payload with
    | .ok c => .next (admitPass tag c (dropFrame s))
    | .error r => .next (pushTx (rejectFrame tag r payload) (dropFrame s))
  | _ => .next s

/-! ### Reset and power (R5, R196, R197) -/

def resetPart : Handler := fun ps s => do
  noBytes ps
  pure ({ s with resetStage := .requested }, [])

/-- RESET PART (R5, R196). -/
def execResetPart (s : State) : Answer := request 0x01 resetPart s

/-- RESET TAKES EFFECT (R196), once the REPLY has been sent. Every line of the state is the table's of R197; the
pins keep their levels, and the part is deaf for 2 ms. -/
def execResetTakesEffect (straps : BitVec 6) (s : State) : Answer :=
  .next (if s.power = .ready ∧ s.resetStage = .replySent then
      State.fresh .ready (some 2) straps s.pu.pins [WingReport.started .startedRequest] s.pending s.choices
    else s)

/-- TAKES FRAMES AGAIN (R196). -/
def execTakesFramesAgain (s : State) : Answer :=
  .next (ifExpired s.deaf (fun t => { t with deaf := none }) s)

/-- POWER ON (R197): the straps are read, and nothing is received until the part is ready. -/
def execPowerOn (straps : BitVec 6) (s : State) : Answer :=
  .next (if s.power = .off then State.fresh .starting none straps (filled 4 false) [] s.pending s.choices else s)

/-- PART READY (R197): the fault pins are taken at their first debounced levels; STARTED is written. -/
def execPartReady (pinsLow : BitVec 4) (s : State) : Answer :=
  .next (if s.power = .starting then
      State.fresh .ready none s.ti.address (Vector.ofFn fun i => pinsLow.getLsbD i.val)
        [WingReport.started .startedPower] s.pending s.choices
    else s)

/-- POWER LOSS (R197): nothing is kept (log 14). -/
def execPowerLoss (s : State) : Answer :=
  .next (if s.power = .off then s else State.fresh .off none 0 (filled 4 false) [] s.pending s.choices)

end Sys2Proof.Machine
end

