-- ==== Sys2Proof/Machine/LineRequests.lean ====
section
/-!
DEFINITION. The requests of the line controllers and of the classifier (R18, R19, R38 to R43, R46, R47).
-/

namespace Sys2Proof.Machine

/-- A request whose owner refuses it where `bad` holds. -/
def refuseWhen (bad : Bool) (r : ResultCode) : Except ResultCode Unit := if bad then .error r else .ok ()

/-! ### LOAD NODE and DROP NODE -/

/-- A node has an item in flight or its travel timer runs (R18, R19). -/
def State.busyNode (s : State) (n : NodeRef) : Bool :=
  (s.line n.line).inFlight.any (fun it => it.node == n.addr) || (s.plan n).any fun p => p.travel.isSome

/-- The entry LOAD NODE writes (R18). -/
def NodeLoad.entry (x : NodeLoad) (down : Bool) : NodeEntry :=
  { room := x.room, role := x.role, statusRef := x.statusRef, statusMask := x.statusMask
    health := if down then .offline else .online, missed := false }

/-- LOAD NODE, once accepted (R18; log 28). -/
def loadNodeWork (x : NodeLoad) (s : State) : State :=
  let s := if (s.entry x.ref).isSome then flushNode x.ref s else s
  let s := setPlan x.ref x.role.freshPlan (setEntry x.ref (some (x.entry (s.line x.ref.line).down)) s)
  endEvent (examine none x.ref (composeNode x.ref (settle s)))

def loadNode : Handler := fun ps s => do
  let x ← nodeLoad ps
  refuseWhen ((s.entry x.ref).isSome && s.busyNode x.ref) .state
  pure (loadNodeWork x s, [])

def execLoadNode (s : State) : Answer := request 0x10 loadNode s

/-- DROP NODE, once accepted (R19). -/
def dropNodeWork (n : NodeRef) (s : State) : State := endEvent (setEntry n none (setPlan n none (flushNode n s)))

def dropNode : Handler := fun ps s => do
  let n ← nodeRefOf ps
  refuseWhen (s.entry n).isNone .unknown
  refuseWhen (s.busyNode n) .state
  pure (dropNodeWork n s, [])

def execDropNode (s : State) : Answer := request 0x11 dropNode s

/-! ### LINE CONTROL (R38 to R41) -/

/-- The LINE CONTROL frames that a row takes: those of its action, and those refused before the action counts
(log 7). -/
def takesAction (a : LineAction) (ps : List Byte) : Bool :=
  match lineControlOf ps with
  | .ok x => x.2.1 == a
  | .error _ => true

/-- LINE CONTROL is judged and carried out; `work` is the action on the named line. -/
def lineControl (work : LineId → Byte → State → State) : Handler := fun ps s => do
  let x ← lineControlOf ps
  pure (work x.1 x.2.2 s, [])

/-- SUSPEND (R38). -/
def suspendLine (l : LineId) (s : State) : State := onLine l (fun x => { x with suspended := true }) s

def execLineControlSuspend (s : State) : Answer :=
  requestWhen (takesAction .suspend) 0x12 (lineControl fun l _ => suspendLine l) s

/-- RESUME (R39). -/
def resumeLine (l : LineId) (s : State) : State := onLine l (fun x => { x with suspended := false }) s

def execLineControlResume (s : State) : Answer :=
  requestWhen (takesAction .resume) 0x12 (lineControl fun l _ => resumeLine l) s

/-- The item in flight is dropped and counted flushed (R40, step 2). -/
def dropInFlight (l : LineId) (s : State) : State :=
  if (s.line l).inFlight.isSome then
    onLine l (fun x =>
      { x with inFlight := none, echoTimer := none, driving := false, counts := x.counts.addFlushed 1 }) s
  else s

/-- AP takes a node of a restarted line into its plan (R136). -/
def Plan.restarted (p : Plan) : Plan := { p with confirmed := false, stalled := false, travel := none }

/-- Steps 1 and 2 of R40: what is queued and in flight is flushed. -/
def flushLine (l : LineId) (s : State) : State := dropInFlight l (removeItems l (fun _ => true) .flushed s)

/-- Steps 3 to 5 of R40 on the line, its nodes and their plan entries. -/
def cleanLine (l : LineId) (s : State) : State :=
  let s := onLine l (fun x => { x with suspended := false, follow := none, timeouts := 0, down := false }) s
  let s := forEach (s.nodesOn l) (fun n t => onPlan n Plan.restarted (setHealth n .online false t)) s
  countLine l (fun _ => LineCounts.zero) s

/-- AP's examination of a node would offer its target (R133). -/
def State.offers (s : State) (n : NodeRef) : Bool :=
  match s.entry n, s.plan n with
  | some e, some p => (examined s n e p).isSome
  | _, _ => false

/-- RESTART (R40). AP judges the node of the item that was in flight before the health changes, and then the line's nodes
in node-table order after them (R136). Its offers reach the line once the counts are 0 (log 12). The nodes of the flushed
queued items stand among these, so what the end of the event examines of them finds its target on its way. -/
def restartLine (l : LineId) (s : State) : State :=
  let flushed := flushLine l s
  let ended := (s.line l).inFlight.toList.map fun it => (⟨l, it.node⟩ : NodeRef)
  let t := cleanLine l flushed
  endEvent (forEach (ended.filter flushed.offers ++ t.nodesOn l) (examine none) t)

def execLineControlRestart (s : State) : Answer :=
  requestWhen (takesAction .restart) 0x12 (lineControl fun l _ => restartLine l) s

/-- SET TIMEOUT (R41). -/
def setLineTimeout (l : LineId) (n : Byte) (s : State) : State := onLine l (fun x => { x with timeoutSetting := n }) s

def execLineControlSetTimeout (s : State) : Answer :=
  requestWhen (takesAction .setTimeout) 0x12 (lineControl setLineTimeout) s

/-! ### READ LINE COUNTERS (R43) -/

/-- Line state, queued items, items in flight, nine counts (R16, R43). -/
def Line.countersRecord (x : Line) : List Byte :=
  [byteOf x.state.code, byteOf x.queued.length, flagByte x.inFlight.isSome] ++ x.counts.bytes

def readLineCounters : Handler := fun ps s => do
  let l ← oneByte 4 ps
  pure (s, (s.line l).countersRecord)

def execReadLineCounters (s : State) : Answer := request 0x13 readLineCounters s

/-! ### LOAD RULE and DROP RULE (R46, R47) -/

def setRule (i : Fin 128) (x : Option Rule) (s : State) : State :=
  { s with cl := { s.cl with rules := put s.cl.rules i x } }

def loadRule : Handler := fun ps s => do
  let x ← ruleLoad ps
  pure (setRule x.1 (some x.2) s, [])

def execLoadRule (s : State) : Answer := request 0x20 loadRule s

def dropRule : Handler := fun ps s => do
  let i ← oneByte 128 ps
  refuseWhen (look s.cl.rules i).isNone .unknown
  pure (setRule i none s, [])

def execDropRule (s : State) : Answer := request 0x21 dropRule s

end Sys2Proof.Machine
end

