-- ==== Sys2Proof/Machine/RoomRequests.lean ====
section
/-!
DEFINITION. The requests of the Room Engine: rooms (R85 to R89), context transfer (R189 to R194) and suites
(R161 to R163).
-/

namespace Sys2Proof.Machine

/-! ### LOAD ROOM (R85 to R87) -/

/-- The notify set, class and room tag are handed to NU (R173). -/
def writeNotice (x : RoomLoad) (s : State) : State :=
  onNotice x.room (fun n => { n with notify := x.notify, cls := x.cls, tag := x.tag }) s

/-- LOAD ROOM on a room that is OFF (R86). The phase is stored before the room has a machine; step 4 places it. -/
def roomIntoService (x : RoomLoad) (s : State) : State :=
  let r := x.room
  let s := writeNotice x (onRoom r (fun _ => { Room.off with cfg := x.cfg }) s)
  let s := onAir r (fun _ => RoomAir.initial) s
  let c := catchUp s.tu.clock (s.select r)
  let s := onTime r (fun t => { t with cursor := c.1 }) s
  let s := onRoom r (Room.storePhase c.2.1 c.2.2) s
  let s := setRoomState r (.run (reentry (s.room r).presence (s.room r).phase)) s
  endEvent (recompose r (dutyEdge false r s))

/-- A room is the lead of a joined suite. -/
def State.leads (s : State) (r : RoomId) : Option SuiteId :=
  (s.joinedSuite r).bind fun g => if (s.members g).head? = some r then some g else none

/-- AP recomposes the rooms that take targets from a room's configuration: the room, or every member when it leads
a joined suite (R87, R169; log 19). -/
def recomposeFrom (r : RoomId) (s : State) : State :=
  match s.leads r with
  | some g => recomposeMembers g s
  | none => recompose r s

/-- LOAD ROOM on a room that is not OFF (R87). The notify set and the class are written before the capacity is tested, so
an OVERCROWD that the test raises is judged by the new ones (R173; log 34). -/
def reloadRoom (x : RoomLoad) (s : State) : State :=
  let s := writeNotice x (onRoom x.room (fun y => { y with cfg := x.cfg }) s)
  endEvent (recomposeFrom x.room (overcrowdTest x.room s))

def loadRoom : Handler := fun ps s => do
  let x ← roomLoad ps
  pure (if (s.room x.room).state = .off then roomIntoService x s else reloadRoom x s, [])

def execLoadRoom (s : State) : Answer := request 0x30 loadRoom s

/-! ### DISABLE ROOM (R88, R89) -/

/-- The plan entries of a room's nodes return to the fresh values (R89). -/
def renewPlans (r : RoomId) (s : State) : State :=
  forEach (s.nodesOf r) (fun n t =>
    match t.entry n with
    | some e => setPlan n e.role.freshPlan t
    | none => t) s

/-- A room leaves the pending list. -/
def unlist (r : RoomId) (s : State) : State :=
  { s with nu := { s.nu with pendingList := s.nu.pendingList.filter (· != r) } }

/-- DISABLE ROOM, once accepted (R89, R126, R173). -/
def disableRoomWork (r : RoomId) (s : State) : State :=
  let s := onRoom r (fun _ => Room.off) s
  let s := onTime r (fun _ => RoomTime.empty) s
  let s := forEach (s.nodesOf r) flushNode s
  let s := onAir r (fun _ => RoomAir.initial) (renewPlans r s)
  endEvent (unlist r (onNotice r (fun _ => RoomNotice.empty) s))

def disableRoom : Handler := fun ps s => do
  let r ← oneByte 48 ps
  refuseWhen (decide ((s.room r).state = .off) || (s.room r).suite.isSome) .state
  pure (disableRoomWork r s, [])

def execDisableRoom (s : State) : Answer := request 0x31 disableRoom s

/-! ### SAVE ROOM (R189, R190) -/

/-- A remaining time in whole seconds, rounded up, at least 1 (R190; log 29). -/
def Timer.saved (t : Timer) : Option Nat := t.map fun ms => max 1 ((ms + 999) / 1000)

/-- The node overrides of a room's actuator nodes, in node-table order (R190). -/
def State.overridesOf (s : State) (r : RoomId) : List (NodeRef × Nat) :=
  (s.nodesOf r).filterMap fun n => ((s.plan n).bind Plan.override).map fun v => (n, v)

/-- The context of a room (R190). -/
def State.context (s : State) (r : RoomId) : Context :=
  let x := s.room r
  { state := x.state, phase := x.phase, cursor := (s.time r).cursor.map fun c => c.occ.id, seen := x.seen
    head := x.head, motionHold := x.motionHold.saved, linger := x.linger.saved, stillness := x.stillness.saved
    boost := x.boost, overrideScene := x.overrideScene, conds := (s.notice r).conds
    overrides := (s.overridesOf r).take 16 }

def overrideBytes (o : NodeRef × Nat) : List Byte := [byteOf o.1.line.val, byteOf o.1.addr.val] ++ natBytes2 o.2

/-- The room context record (R16). -/
def Context.bytes (c : Context) : List Byte :=
  [byteOf c.state.code, byteOf c.phase.code] ++ natBytes2 (c.cursor.getD 0) ++ [flagByte c.seen] ++
    natBytes2 c.head ++ optBytes2 c.motionHold ++ optBytes2 c.linger ++ optBytes2 c.stillness ++
    [flagByte c.boost, optByte (c.overrideScene.map Fin.val)] ++ condBytes c.conds ++
    byteOf c.overrides.length :: c.overrides.flatMap overrideBytes

def saveRoom : Handler := fun ps s => do
  let r ← oneByte 48 ps
  refuseWhen (decide ((s.room r).state = .off ∨ (s.room r).state = .joined)) .state
  pure (s, (s.context r).bytes)

def execSaveRoom (s : State) : Answer := request 0x32 saveRoom s

/-! ### RESTORE ROOM (R191 to R194) -/

/-- The occurrence of a context's cursor: this week's when the booking applies to it and its hand-off time is
ahead, else next week's (R192, Occurrence). -/
def State.contextWeek (s : State) (r : RoomId) (b : Booking) : Option Nat :=
  match s.tu.clock with
  | none => none
  | some c =>
    if b.applies c.week then
      if c.minute < handOff (s.bookingsOf r) (s.time r).released b c.week then some c.week else none
    else if b.applies (weekAfter c.week) then some (weekAfter c.week)
    else none

/-- The booking a context names, from the room's list (R192, Cursor). -/
def State.contextBooking (s : State) (r : RoomId) (c : Context) : Option Booking :=
  c.cursor.bind fun id => (s.bookingsOf r).find? fun b => b.id == id

/-- State, and state against phase (R192). -/
def Context.stateOk (c : Context) : Bool :=
  match c.state with
  | .off => false
  | .joined => false
  | .run .preparing => c.phase == .prep
  | .run .expected => c.phase == .on
  | .run .vacant => c.phase == .idle || c.phase == .lag
  | .run .occupied => true
  | .run .linger => true

/-- Cursor, clock and occurrence (R192). -/
def State.cursorOk (s : State) (r : RoomId) (c : Context) : Bool :=
  match c.cursor with
  | none => c.phase == .idle
  | some _ =>
    match s.contextBooking r c, s.tu.clock with
    | some b, some k =>
      match s.contextWeek r b with
      | some w => w == k.week || c.phase == .idle
      | none => false
    | _, _ => false

/-- Head estimate, presence and timers (R192). `exam` says whether the cursor booking is an EXAM. -/
def Context.evidenceOk (c : Context) (exam : Bool) : Bool :=
  decide (c.head ≤ 999) &&
    (if c.state = .run .occupied then c.motionHold.isSome || decide (0 < c.head)
     else c.motionHold.isNone && decide (c.head = 0)) &&
    (c.linger.isSome == decide (c.state = .run .linger)) &&
    (c.stillness.isNone || (decide (0 < c.head) && c.motionHold.isNone && !(c.phase == .on && exam))) &&
    c.motionHold != some 0 && c.linger != some 0 && c.stillness != some 0

/-- The largest value a node override may have, by role (R192); none for PANEL and SENSOR. -/
def Role.limit : Role → Option Nat
  | .light _ _ => some 1000
  | .blind _ => some 100
  | .damper => some 100
  | .panel => none
  | .sensor => none

/-- One listed node override (R192). -/
def State.overrideOk (s : State) (r : RoomId) (o : NodeRef × Nat) : Bool :=
  match s.entry o.1 with
  | some e => e.room == r && e.role.limit.any fun m => decide (o.2 ≤ m)
  | none => false

/-- The context checks (R192). -/
def State.contextOk (s : State) (r : RoomId) (c : Context) : Bool :=
  let exam := (s.contextBooking r c).any fun b => b.kind == .exam
  c.stateOk && s.cursorOk r c && c.evidenceOk exam &&
    (match c.overrideScene with | some n => (s.loadedScene n).isSome | none => true) &&
    c.overrides.all (s.overrideOk r) && decide ((c.overrides.map Prod.fst).Nodup)

/-- RE takes a context into the room record, the phase, kind and scene of the later report included (R193, R194 step 1);
the start test of the stillness timer comes last. -/
def Room.restored (c : Context) (cursor : Option Booking) (x : Room) : Room :=
  Room.startStillness
    { x with state := c.state, phase := c.phase, cursorKind := cursor.map Booking.kind
             bookingScene := cursor.map Booking.scene, seen := c.seen, head := c.head
             aboveCapacity := decide (x.cfg.capacity < c.head), motionHold := c.motionHold.bind seconds
             stillness := c.stillness.bind seconds, linger := c.linger.bind seconds, boost := c.boost
             overrideScene := c.overrideScene }

/-- The cursor of a context with its marks armed from the clock (R109). In the following week every mark is later
than the current minute (log 30). -/
def State.contextCursor (s : State) (r : RoomId) (c : Context) : Option Cursor :=
  match s.contextBooking r c, s.tu.clock with
  | some b, some k =>
    (s.contextWeek r b).map fun w =>
      { occ := ⟨b.id, w⟩, marks := b.marks fun m => decide (w ≠ k.week ∨ k.minute < m) }
  | _, _ => none

/-- AP sets the node overrides a context lists (R194, step 3). -/
def setOverrides (os : List (NodeRef × Nat)) (s : State) : State :=
  forEach os (fun o t => onPlan o.1 (fun p => { p with override := some o.2 }) t) s

/-- RESTORE ROOM, once accepted (R193, R194). -/
def restoreRoomWork (r : RoomId) (c : Context) (s0 : State) : State :=
  let s := onRoom r (Room.restored c (s0.contextBooking r c)) s0
  let s := onNotice r (fun n => { n with conds := c.conds }) s
  let s := onTime r (fun _ => { cursor := s0.contextCursor r c, released := none }) s
  let s := dutyEdge (s0.inDuty r) r s
  endEvent (recompose r (setOverrides c.overrides (clearOverrides (fun _ => true) r s)))

def restoreRoom : Handler := fun ps s => do
  let x ← restoreOf ps
  refuseWhen (decide ((s.room x.1).state ≠ .run .vacant)) .state
  refuseWhen (!s.contextOk x.1 x.2) .context
  pure (restoreRoomWork x.1 x.2 s, [])

def execRestoreRoom (s : State) : Answer := request 0x33 restoreRoom s

/-! ### LOAD SUITE and DROP SUITE (R161 to R163) -/

/-- The STATE refusals of LOAD SUITE (R161). -/
def State.suiteBlocked (s : State) (g : SuiteId) (members : List RoomId) : Bool :=
  (members.any fun r => (s.room r).state == .off || (s.room r).suite.any (· != g)) ||
    (s.suite g).any fun x => x.occ.isSome || s.tu.store.any fun b => b.target == .suite g

/-- Rooms take a suite membership, or lose it. -/
def setMembership (rooms : List RoomId) (g : Option SuiteId) (s : State) : State :=
  forEach rooms (fun r t => onRoom r (fun x => { x with suite := g }) t) s

/-- LOAD SUITE, once accepted (R162). -/
def loadSuiteWork (g : SuiteId) (members : List RoomId) (adHoc : SceneNum) (s : State) : State :=
  let s := setMembership members (some g) (setMembership (s.members g) none s)
  setSuite g (some { members := members, adHocScene := adHoc, occ := none, seen := false, linger := none }) s

def loadSuite : Handler := fun ps s => do
  let x ← suiteOf ps
  refuseWhen (s.suiteBlocked x.1 x.2.1) .state
  pure (loadSuiteWork x.1 x.2.1 x.2.2 s, [])

def execLoadSuite (s : State) : Answer := request 0x70 loadSuite s

/-- DROP SUITE, once accepted (R163). The former members are re-selected in a free order (log 4), each as its selection
finds, one that follows a booking of its own included (log 37). -/
def dropSuiteWork (g : SuiteId) (s : State) : State :=
  let members := s.members g
  let s := if (s.suiteOcc g).isSome then splitSuite g s else s
  let s := removeBookings (fun b => b.target == .suite g) s
  let s := setSuite g none (setMembership members none s)
  endEvent (forEachFree members (reselect none) s)

def dropSuite : Handler := fun ps s => do
  let g ← oneByte 8 ps
  refuseWhen (s.suite g).isNone .unknown
  pure (dropSuiteWork g s, [])

def execDropSuite (s : State) : Answer := request 0x71 dropSuite s

end Sys2Proof.Machine
end

