-- ==== Sys2Proof/Machine/TimetableRequests.lean ====
section
/-!
DEFINITION. The requests of the Timetable Unit (R93, R94, R98 to R101, R116).
-/

namespace Sys2Proof.Machine

def setClockRequest : Handler := fun ps s => do
  let c ← clockOf ps
  pure (setClock c s, [])

def execSetClock (s : State) : Answer := request 0x40 setClockRequest s

def readClock : Handler := fun ps s => do
  noBytes ps
  pure (s, flagByte s.tu.clock.isSome :: clockBytes s.tu.clock)

def execReadClock (s : State) : Answer := request 0x41 readClock s

/-! ### LOAD BOOKING (R98, R99) -/

/-- The target is a suite whose place is empty (R98, UNKNOWN). -/
def State.noTarget (s : State) (b : Booking) : Bool :=
  match b.target with
  | .room _ => false
  | .suite g => (s.suite g).isNone

/-- The booking overlaps one of a list it would join, its own id apart (R98, OVERLAP). -/
def State.clashes (s : State) (b : Booking) : Bool :=
  (s.roomsOf b).any fun r => (s.bookingsOf r).any fun c => c.id != b.id && c.overlaps b

/-- No place for a booking with a new id (R98, SPACE). -/
def State.noPlace (s : State) (b : Booking) : Bool := (s.findBooking b.id).isNone && decide (512 ≤ s.tu.store.length)

/-- LOAD BOOKING, once accepted (R99). The rooms concerned are re-selected in a free order (log 4). -/
def loadBookingWork (b : Booking) (s : State) : State :=
  let left := (s.findBooking b.id).toList.flatMap s.roomsOf
  let s := removeBookings (fun c => c.id == b.id) s
  let s := { s with tu := { s.tu with store := insertBooking b s.tu.store } }
  let concerned := allRooms.filter fun r => s.lists r b || left.contains r
  endEvent (forEachFree concerned (reselect (some b.id)) s)

def loadBooking : Handler := fun ps s => do
  let b ← bookingOf ps
  refuseWhen (s.noTarget b) .unknown
  refuseWhen (s.clashes b) .overlap
  refuseWhen (s.noPlace b) .space
  pure (loadBookingWork b s, [])

def execLoadBooking (s : State) : Answer := request 0x42 loadBooking s

/-! ### CANCEL BOOKING, LIST BOOKINGS, ROOM RELEASE (R100, R101, R116) -/

/-- CANCEL BOOKING, once accepted (R100). -/
def cancelBookingWork (b : Booking) (s : State) : State :=
  let concerned := s.roomsOf b
  endEvent (forEachFree concerned (reselect none) (removeBookings (fun c => c.id == b.id) s))

def cancelBooking : Handler := fun ps s => do
  let id ← bookingIdOf ps
  match s.findBooking id with
  | none => .error .unknown
  | some b => pure (cancelBookingWork b s, [])

def execCancelBooking (s : State) : Answer := request 0x43 cancelBooking s

/-- The result data of LIST BOOKINGS (R101): list length, records returned, up to 13 records. -/
def listRecords (list : List Booking) (first : Nat) : List Byte :=
  let returned := (list.drop first).take 13
  natBytes2 list.length ++ byteOf returned.length :: returned.flatMap Booking.bytes

def listBookings : Handler := fun ps s => do
  let x ← listOf ps
  pure (s, listRecords (s.bookingsOf x.1) x.2)

def execListBookings (s : State) : Answer := request 0x44 listBookings s

def roomRelease : Handler := fun ps s => do
  let r ← oneByte 48 ps
  refuseWhen (decide ((s.room r).state = .off ∨ (s.room r).phase = .idle) || (s.time r).cursor.isNone) .state
  pure (endEvent (passOccurrence true r s), [])

def execRoomRelease (s : State) : Answer := request 0x45 roomRelease s

end Sys2Proof.Machine
end

