-- ==== Sys2Proof/Machine/ActuationRequests.lean ====
section
/-!
DEFINITION. The requests of the Actuation Planner (R120, R121, R127, R129, R141) and of the Protection Unit (R144,
R147, R150).
-/

namespace Sys2Proof.Machine

/-! ### LOAD SCENE and LOAD WING (R120, R121) -/

def loadSceneWork (n : SceneNum) (x : Scene) (s : State) : State :=
  endEvent (recomposeAll { s with ap := { s.ap with scenes := put s.ap.scenes n (some x) } })

def loadScene : Handler := fun ps s => do
  let x ← sceneOf ps
  pure (loadSceneWork x.1 x.2 s, [])

def execLoadScene (s : State) : Answer := request 0x50 loadScene s

def loadWingWork (rounding : Rounding) (mirror : Bool) (s : State) : State :=
  let t := { s with ap := { s.ap with rounding := rounding, mirrorUnclassified := mirror } }
  if rounding = s.ap.rounding then t else endEvent (recomposeAll t)

def loadWing : Handler := fun ps s => do
  let x ← wingOf ps
  pure (loadWingWork x.1 x.2 s, [])

def execLoadWing (s : State) : Answer := request 0x51 loadWing s

/-! ### SET AIR DUTY (R127) -/

/-- SET AIR DUTY, once accepted: the pending duty is written, and becomes active at once in a room that is in
duty with active period 0. -/
def setAirDutyWork (r : RoomId) (d : Duty) (s : State) : State :=
  let atOnce := s.inDuty r && (s.air r).active.period == 0
  let s := onAir r (fun a => { a with waiting := some d }) s
  if atOnce then recomposePart (s.air r).part r (onAir r startPeriod s) else s

def setAirDuty : Handler := fun ps s => do
  let x ← dutyOf ps
  refuseWhen (decide ((s.room x.1).state = .off)) .state
  pure (setAirDutyWork x.1 x.2 s, [])

def execSetAirDuty (s : State) : Answer := request 0x52 setAirDuty s

/-! ### ROOM SCENE (R129) -/

def roomSceneWork (r : RoomId) (n : Option SceneNum) (s : State) : State :=
  match n with
  | some n => endEvent (setOverrideScene n r s)
  | none => endEvent (recompose r (onRoom r (fun x => { x with overrideScene := none }) s))

def roomScene : Handler := fun ps s => do
  let x ← roomSceneOf ps
  refuseWhen (x.2.any fun n => (s.loadedScene n).isNone) .unknown
  refuseWhen (decide ((s.room x.1).state = .off ∨ (s.room x.1).state = .joined)) .state
  pure (roomSceneWork x.1 x.2 s, [])

def execRoomScene (s : State) : Answer := request 0x53 roomScene s

/-! ### CANCEL TRAVEL (R141) -/

/-- The entry of a BLIND node. -/
def State.blind (s : State) (n : NodeRef) : Option NodeEntry := (s.entry n).filter fun e => e.role.isBlind

/-- The STATE refusals of CANCEL TRAVEL (R141). -/
def State.travelBlocked (s : State) (n : NodeRef) (e : NodeEntry) : Bool :=
  decide ((s.room e.room).state = .off ∨ e.health = .offline) || (s.protection e.room .blinds).isSome ||
    (s.line n.line).queued.any fun it => it.node == n.addr && it.kind == .setPosition

/-- The STOP item of CANCEL TRAVEL. -/
def stopItem (n : NodeRef) : Item :=
  { node := n.addr, kind := .stop, value := 0, ramp := 0, origin := .manage, link := none, passTag := none }

/-- No place for the STOP (R141, SPACE). -/
def State.noStopPlace (s : State) (n : NodeRef) : Bool :=
  let l := s.line n.line
  decide (32 ≤ l.queued.length) && l.normal.isEmpty && !l.urgent.any (stopItem n).rivals

def cancelTravelWork (n : NodeRef) (s : State) : State :=
  endEvent (offer n.line (stopItem n) (onPlan n (fun p => { p with target := none, deferred := false }) s)).1

def cancelTravel : Handler := fun ps s => do
  let n ← nodeRefOf ps
  match s.blind n with
  | none => .error .unknown
  | some e =>
    refuseWhen (s.travelBlocked n e) .state
    refuseWhen (s.noStopPlace n) .space
    pure (cancelTravelWork n s, [])

def execCancelTravel (s : State) : Answer := request 0x54 cancelTravel s

/-! ### Fault sources (R144, R147, R150) -/

def loadFault : Handler := fun ps s => do
  let x ← faultOf ps
  refuseWhen (s.source x.1).inForce .state
  pure (testAssertion x.1 (onSource x.1 (fun y => { y with cfg := x.2 }) s), [])

def execLoadFault (s : State) : Answer := request 0x60 loadFault s

/-- RAISE FAULT, once accepted (R147). -/
def raiseFaultWork (i : SourceId) (s : State) : State :=
  if (s.source i).supervisorFlag then s
  else testAssertion i (onSource i (fun x => { x with supervisorFlag := true }) s)

def raiseFault : Handler := fun ps s => do
  let i ← oneByte 8 ps
  pure (raiseFaultWork i s, [])

def execRaiseFault (s : State) : Answer := request 0x61 raiseFault s

/-- DROP FAULT, once accepted (R147). -/
def dropFaultWork (i : SourceId) (s : State) : State :=
  let x := s.source i
  if x.supervisorFlag || x.classifierFlag then
    testAssertion i (onSource i (fun x => { x with supervisorFlag := false, classifierFlag := false }) s)
  else s

def dropFault : Handler := fun ps s => do
  let i ← oneByte 8 ps
  pure (dropFaultWork i s, [])

def execDropFault (s : State) : Answer := request 0x62 dropFault s

/-- CLEAR FAULT (R150). -/
def clearFault : Handler := fun ps s => do
  let i ← oneByte 8 ps
  refuseWhen (decide ((s.source i).state = .idle ∨ (s.source i).state = .active)) .state
  pure (endSource i s, [])

def execClearFault (s : State) : Answer := request 0x63 clearFault s

end Sys2Proof.Machine
end

