-- ==== Sys2Proof/Machine/NoticeRequests.lean ====
section
/-!
DEFINITION. The requests of the Notice Unit (R177 to R181, R185).
-/

namespace Sys2Proof.Machine

/-! ### The room status record (R178) -/

/-- The number of a room's node table entries that are OFFLINE (R178). -/
def State.offlineNodes (s : State) (r : RoomId) : Nat :=
  ((s.nodesOf r).filter fun n => (s.entry n).any fun e => e.health == .offline).length

/-- Flags of the status record: presence, status pending, in pending list (R16). -/
def State.statusFlags (s : State) (r : RoomId) : Nat :=
  (if (s.room r).presence then 1 else 0) + (if (s.notice r).pending then 2 else 0) +
    (if s.nu.pendingList.contains r then 4 else 0)

/-- The latest CO2 of a record: a present byte and two bytes, 0 when absent (R16). -/
def co2Bytes : Option Half → List Byte
  | some v => 1 :: bytes2 v
  | none => [0, 0, 0]

/-- The governing source of a family, absent where unprotected (R178). -/
def State.sourceByte (s : State) (r : RoomId) (f : Family) : Byte := optByte ((s.pu.governing r f).map Fin.val)

/-- The room status record of 21 bytes (R16, R178). -/
def State.statusRecord (s : State) (r : RoomId) : List Byte :=
  let x := s.room r
  [byteOf r.val, byteOf x.state.code, byteOf x.phase.code] ++
    natBytes2 (((s.time r).cursor.map fun c => c.occ.id).getD 0) ++ natBytes2 x.head ++
    [byteOf (s.statusFlags r)] ++ co2Bytes x.co2 ++ allFamilies.map (s.sourceByte r) ++
    condBytes (s.notice r).conds ++ [byteOf (s.offlineNodes r)] ++ bytes4 (s.notice r).tag

/-! ### COLLECT, SAMPLE and NEXT PENDING (R179 to R181) -/

/-- What COLLECT STATUS clears: only a pending room (R179). -/
def collect (r : RoomId) (s : State) : State :=
  if (s.notice r).pending then unlist r (onNotice r (fun n => { n with conds := 0, pending := false }) s) else s

def collectStatus : Handler := fun ps s => do
  let r ← oneByte 48 ps
  refuseWhen (decide ((s.room r).state = .off)) .state
  pure (collect r s, s.statusRecord r)

def execCollectStatus (s : State) : Answer := request 0x80 collectStatus s

def sampleStatus : Handler := fun ps s => do
  let r ← oneByte 48 ps
  pure (s, s.statusRecord r)

def execSampleStatus (s : State) : Answer := request 0x81 sampleStatus s

/-- The oldest listed room whose class is enabled (R181). -/
def State.nextListed (s : State) : Option RoomId := s.nu.pendingList.find? fun r => s.enabled (s.notice r).cls

def nextPending : Handler := fun ps s => do
  noBytes ps
  match s.nextListed with
  | some r => pure (unlist r s, 1 :: (unlist r s).statusRecord r)
  | none => pure (s, [0])

def execNextPending (s : State) : Answer := request 0x82 nextPending s

/-! ### SET NOTICE MASK (R177) -/

/-- A NOTICE for each listed room whose class the new mask newly enables, in list order, then the mask. -/
def setMaskWork (m : BitVec 4) (s : State) : State :=
  let fresh := s.nu.pendingList.filter fun r => !s.enabled (s.notice r).cls && m.getLsbD (s.notice r).cls.val
  let t := forEach fresh (fun r t => offerTx (t.noticeFrame r) t) s
  { t with nu := { t.nu with mask := m } }

def setNoticeMask : Handler := fun ps s => do
  let m ← maskOf ps
  pure (setMaskWork m s, [])

def execSetNoticeMask (s : State) : Answer := request 0x83 setNoticeMask s

/-! ### READ WING REPORT (R185, R60) -/

/-- The stranger flag of a STRANGER entry's line becomes clear as the entry leaves (R60). -/
def forgetStranger (k : WingKind) (s : State) : State :=
  match k with
  | .stranger l _ => { s with cl := { s.cl with strangers := put s.cl.strangers l false } }
  | _ => s

def readWingReport : Handler := fun ps s => do
  noBytes ps
  match s.nu.wing with
  | [] => pure (s, [0])
  | w :: rest => pure (forgetStranger w.kind { s with nu := { s.nu with wing := rest } }, 1 :: w.bytes)

def execReadWingReport (s : State) : Answer := request 0x84 readWingReport s

end Sys2Proof.Machine
end

