-- ==== Sys2Proof/Machine/LineEvents.lean ====
section
/-!
DEFINITION. The frames and transactions of the room lines (R20, R26 to R31, R138).

A frame is taken while the part takes frames (R196, R197). A REPORT, ARRIVED or ECHO whose operands no valid frame
can carry (node 0, a position above 100) is an invalid frame (R9; log 25).
-/

namespace Sys2Proof.Machine

/-- A line frame reaches the part (log 1). -/
def heard (f : State → State) (s : State) : Answer := .next (if s.hears then f s else s)

/-- An invalid frame is counted and has no other effect (R9, R20). -/
def countInvalid (l : LineId) (s : State) : State :=
  countLine l (fun c => { c with invalidFrames := c.invalidFrames + 1 }) s

/-- INVALID LINE FRAME (R9): the frame fails the test of R9; a frame that passes it is none. -/
def execInvalidLineFrame (l : LineId) (f : RawFrame) (s : State) : Answer :=
  heard (fun s => if (lineMessage f).isNone then countInvalid l s else s) s

/-- A valid frame and its sender's health (R20, R32). -/
def heardFrom (n : NodeRef) (s : State) : State := hearNode n (validFrame n.line n.addr s)

/-- A valid REPORT is taken (R20). -/
def takeReport (n : NodeRef) (code : ReportCode) (value : Half) (s : State) : State :=
  endEvent (classify ⟨n, code, value⟩ (heardFrom n s))

/-- REPORT (R20, R50). -/
def execReport (l : LineId) (a : NodeAddr) (code : ReportCode) (value : Half) (s : State) : Answer :=
  heard (fun s => if a = 0 then countInvalid l s else takeReport ⟨l, a⟩ code value s) s

/-! ### ARRIVED (R138) -/

/-- AP judges an arrival (R138). -/
def judgeArrival (n : NodeRef) (room : RoomId) (p : Plan) (position : Nat) (s : State) : State :=
  if p.travel.isSome then
    if p.judge position then onPlan n (fun p => { p with travel := none, confirmed := true }) s
    else raise .blindStall room (onPlan n (fun p => { p with travel := none, stalled := true, confirmed := false }) s)
  else examine none n (onPlan n (fun p => { p with stalled := false, confirmed := p.judge position }) s)

/-- A valid ARRIVED is taken (R20). -/
def takeArrived (n : NodeRef) (position : Byte) (s : State) : State :=
  let s := heardFrom n s
  match s.blind n, s.plan n with
  | some e, some p => endEvent (judgeArrival n e.room p position.toNat s)
  | _, _ => endEvent s

/-- ARRIVED (R20, R138). -/
def execArrived (l : LineId) (a : NodeAddr) (position : Byte) (s : State) : Answer :=
  heard (fun s =>
    if a = 0 ∨ 100 < position.toNat then countInvalid l s else takeArrived ⟨l, a⟩ position s) s

/-! ### ECHO (R28, R29, R31) -/

/-- The status compare of a delivered item's echo (R29). -/
def compareStatus (n : NodeRef) (e : NodeEntry) (p : Plan) (status : Half) (s : State) : State :=
  if (status ^^^ e.statusRef) &&& e.statusMask = 0 then onPlan n (fun p => { p with alarm := false }) s
  else
    let t := onPlan n (fun p => { p with alarm := true }) s
    if p.alarm then t else raise .driverAlarm e.room t

/-- A late echo is counted; a node with an entry becomes ONLINE (R20, R31). -/
def lateEcho (n : NodeRef) (s : State) : State :=
  hearNode n (countLine n.line (fun c => { c with lateEchoes := c.lateEchoes + 1 }) s)

/-- The plan work of a delivered item: status compare, completion, examination (R29, R135). -/
def deliverPlan (n : NodeRef) (it : Item) (status current : Half) (s : State) : State :=
  match s.entry n, s.plan n with
  | some e, some p =>
    examine none n
      (onPlan n (fun p => p.delivered e.role it current.toNat) (compareStatus n e p status s))
  | _, _ => s

/-- The MIRROR of a PASS item's echo (R14, R15). -/
def mirrorEcho (n : NodeRef) (it : Item) (status current : Half) (s : State) : State :=
  match it.origin, it.passTag with
  | .pass, some tag => offerTx (mirrorFrame tag n 3 (bytes2 status ++ bytes2 current)) s
  | _, _ => s

/-- The echo of the item in flight (R28). -/
def deliverItem (n : NodeRef) (it : Item) (status current : Half) (s : State) : State :=
  let s := countLine n.line (fun c => { c with delivered := c.delivered + 1 }) s
  let s := setHealth n .online false (endInFlight n.line it s)
  mirrorEcho n it status current (deliverPlan n it status current s)

/-- A valid ECHO is taken (R20, R28, R31). -/
def takeEcho (n : NodeRef) (status current : Half) (s : State) : State :=
  let s := validFrame n.line n.addr s
  match (s.line n.line).inFlight with
  | some it =>
    if it.node = n.addr ∧ (s.entry n).isSome then endEvent (deliverItem n it status current s)
    else endEvent (lateEcho n s)
  | none => endEvent (lateEcho n s)

/-- ECHO (R28, R31). -/
def execEcho (l : LineId) (a : NodeAddr) (status current : Half) (s : State) : Answer :=
  heard (fun s => if a = 0 then countInvalid l s else takeEcho ⟨l, a⟩ status current s) s

/-! ### Sending (R26, R27) -/

/-- The queue without the item that is taken: the head of the URGENT band when there is one. -/
def Line.without (x : Line) (it : Item) : Line :=
  match x.urgent with
  | _ :: rest => { x with urgent := rest }
  | [] => { x with normal := x.normal.erase it }

/-- An item is taken for sending (R26, R27). -/
def takeItem (l : LineId) (it : Item) (s : State) : State :=
  endEvent (tellFreed l (onLine l (fun x => { x.without it with inFlight := some it, driving := true }) s))

/-- ITEM TAKEN FOR SENDING (R26). The wire's idle gap is not in State (log 13). -/
def execItemTakenForSending (l : LineId) (s : State) : Answer :=
  whenReady (fun s =>
    if (s.line l).state = .idle then
      match (s.line l).nextItem with
      | some it => takeItem l it s
      | none => s
    else s) s

/-- COMMAND FRAME SENT (R27): the drive is released and the echo timer starts. -/
def execCommandFrameSent (l : LineId) (s : State) : Answer :=
  whenReady (fun s =>
    if (s.line l).inFlight.isSome ∧ (s.line l).driving then
      onLine l (fun x => { x with driving := false, echoTimer := some x.timeoutMs }) s
    else s) s

/-! ### Timeout (R30, R32, R35) -/

/-- A node's health after a timeout of its item (R32). -/
def missNode (n : NodeRef) (s : State) : State :=
  match s.entry n with
  | some e =>
    match e.health with
    | .online => setHealth n .suspect true s
    | .suspect => if e.missed then goOffline n s else setHealth n .suspect true s
    | .offline => s
  | none => s

/-- The item in flight times out (R30). At the eighth timeout in a row the offer that follows the timeout still reaches
the line controller, before the line goes DOWN (log 32). -/
def timeOut (l : LineId) (it : Item) (s : State) : State :=
  let n : NodeRef := ⟨l, it.node⟩
  let s := countLine l (fun c => { c with timedOut := c.timedOut + 1 }) s
  let s := endInFlight l it (onLine l (fun x => { x with timeouts := x.timeouts + 1 }) s)
  let s := examine none n (onPlan n (fun p => { p with confirmed := false }) (missNode n s))
  endEvent (if 8 ≤ (s.line l).timeouts then lineGoesDown l s else s)

/-- The echo timer of a line expires (R30): the item in flight times out. -/
def echoTimerEnds (l : LineId) (s : State) : State :=
  match (s.line l).inFlight with
  | some it => timeOut l it s
  | none => s

/-- ECHO TIMER EXPIRY (R30). -/
def execEchoTimerExpiry (l : LineId) (s : State) : Answer :=
  whenReady (ifExpired (s.line l).echoTimer (echoTimerEnds l)) s

end Sys2Proof.Machine
end

