-- ==== Sys2Proof/Machine/TimerEvents.lean ====
section
/-!
DEFINITION. The timers' expiries, the clock and the fault pins. An expiry is taken when its timer has run its length
(R64, R84).
-/

namespace Sys2Proof.Machine

/-- MOTION HOLD EXPIRY (R66). -/
def execMotionHoldExpiry (r : RoomId) (s : State) : Answer :=
  whenReady (ifExpired (s.room r).motionHold (motionHoldEnds r)) s

/-- STILLNESS EXPIRY (R71). -/
def execStillnessExpiry (r : RoomId) (s : State) : Answer :=
  whenReady (ifExpired (s.room r).stillness (stillnessEnds r)) s

/-- LINGER EXPIRY (R79). -/
def execLingerExpiry (r : RoomId) (s : State) : Answer := whenReady (ifExpired (s.room r).linger (lingerEnds r)) s

/-- SUITE LINGER EXPIRY (R168). -/
def execSuiteLingerExpiry (g : SuiteId) (s : State) : Answer :=
  whenReady (ifExpired ((s.suite g).bind Suite.linger) (suiteLingerEnds g)) s

/-- DUTY TIMER EXPIRY (R126). -/
def execDutyTimerExpiry (r : RoomId) (s : State) : Answer := whenReady (ifExpired (s.air r).timer (dutyEnds r)) s

/-- TRAVEL TIMER EXPIRY (R139). -/
def execTravelTimerExpiry (l : LineId) (a : NodeAddr) (s : State) : Answer :=
  whenReady (ifExpired ((s.plan ⟨l, a⟩).bind Plan.travel) (travelEnds ⟨l, a⟩)) s

/-- HOLD OFF EXPIRY (R149). -/
def execHoldOffExpiry (i : SourceId) (s : State) : Answer := whenReady (ifExpired (s.source i).timer (holdOffEnds i)) s

/-- An event of a clock that is set, whose second admits it: the next second begins and `f` is done. The event that a
clock had due when SET CLOCK replaced it is dropped (R93, R118; log 38). -/
def clockEvent (admits : Nat → Bool) (f : Clock → State → State) (s : State) : State :=
  if s.tu.void then { s with tu := { s.tu with void := false } }
  else
    match s.tu.clock with
    | some c => if admits c.second then f c { s with tu := { s.tu with ms := 0 } } else s
    | none => s

/-- MINUTE BOUNDARY (R90, R91): the second passes 59. -/
def execMinuteBoundary (s : State) : Answer := whenReady (clockEvent (fun n => n == 59) minutePasses) s

/-- FAULT PIN CHANGE (R145). -/
def execFaultPinChange (p : PinId) (low : Bool) (s : State) : Answer := whenReady (pinChanges p low) s

/-- The clock advances a second that is not the minute's last (R90). -/
def secondPasses (c : Clock) (s : State) : State :=
  { s with tu := { s.tu with clock := some { c with second := c.second + 1 } } }

/-- CLOCK SECOND ADVANCE (R90): while the second is below 59; the advance past 59 is the minute boundary. -/
def execClockSecondAdvance (s : State) : Answer := whenReady (clockEvent (fun n => decide (n < 59)) secondPasses) s

end Sys2Proof.Machine
end

