-- ==== Sys2Proof/Machine/Dispatch.lean ====
section
/-!
DEFINITION. One arm per command: a direct call of its meaning.
-/

namespace Sys2Proof.Machine

def exec (i : Instr) (s : State) : Host.Outcome State Fault Refusal :=
  match i with
  | .trunkFrameReceived frame => Sys2Proof.Machine.execTrunkFrameReceived frame s
  | .frameSent => Sys2Proof.Machine.execFrameSent s
  | .unknownRequestCode => Sys2Proof.Machine.execUnknownRequestCode s
  | .pass => Sys2Proof.Machine.execPass s
  | .resetPart => Sys2Proof.Machine.execResetPart s
  | .resetTakesEffect straps => Sys2Proof.Machine.execResetTakesEffect straps s
  | .takesFramesAgain => Sys2Proof.Machine.execTakesFramesAgain s
  | .powerOn straps => Sys2Proof.Machine.execPowerOn straps s
  | .partReady pinsLow => Sys2Proof.Machine.execPartReady pinsLow s
  | .powerLoss => Sys2Proof.Machine.execPowerLoss s
  | .readTrunkCounters => Sys2Proof.Machine.execReadTrunkCounters s
  | .loadNode => Sys2Proof.Machine.execLoadNode s
  | .dropNode => Sys2Proof.Machine.execDropNode s
  | .lineControlSuspend => Sys2Proof.Machine.execLineControlSuspend s
  | .lineControlResume => Sys2Proof.Machine.execLineControlResume s
  | .lineControlRestart => Sys2Proof.Machine.execLineControlRestart s
  | .lineControlSetTimeout => Sys2Proof.Machine.execLineControlSetTimeout s
  | .readLineCounters => Sys2Proof.Machine.execReadLineCounters s
  | .loadRule => Sys2Proof.Machine.execLoadRule s
  | .dropRule => Sys2Proof.Machine.execDropRule s
  | .loadRoom => Sys2Proof.Machine.execLoadRoom s
  | .disableRoom => Sys2Proof.Machine.execDisableRoom s
  | .saveRoom => Sys2Proof.Machine.execSaveRoom s
  | .restoreRoom => Sys2Proof.Machine.execRestoreRoom s
  | .setClock => Sys2Proof.Machine.execSetClock s
  | .readClock => Sys2Proof.Machine.execReadClock s
  | .loadBooking => Sys2Proof.Machine.execLoadBooking s
  | .cancelBooking => Sys2Proof.Machine.execCancelBooking s
  | .listBookings => Sys2Proof.Machine.execListBookings s
  | .roomRelease => Sys2Proof.Machine.execRoomRelease s
  | .loadScene => Sys2Proof.Machine.execLoadScene s
  | .loadWing => Sys2Proof.Machine.execLoadWing s
  | .setAirDuty => Sys2Proof.Machine.execSetAirDuty s
  | .roomScene => Sys2Proof.Machine.execRoomScene s
  | .cancelTravel => Sys2Proof.Machine.execCancelTravel s
  | .loadFault => Sys2Proof.Machine.execLoadFault s
  | .raiseFault => Sys2Proof.Machine.execRaiseFault s
  | .dropFault => Sys2Proof.Machine.execDropFault s
  | .clearFault => Sys2Proof.Machine.execClearFault s
  | .loadSuite => Sys2Proof.Machine.execLoadSuite s
  | .dropSuite => Sys2Proof.Machine.execDropSuite s
  | .collectStatus => Sys2Proof.Machine.execCollectStatus s
  | .sampleStatus => Sys2Proof.Machine.execSampleStatus s
  | .nextPending => Sys2Proof.Machine.execNextPending s
  | .setNoticeMask => Sys2Proof.Machine.execSetNoticeMask s
  | .readWingReport => Sys2Proof.Machine.execReadWingReport s
  | .report line node code value => Sys2Proof.Machine.execReport line node code value s
  | .arrived line node position => Sys2Proof.Machine.execArrived line node position s
  | .echo line node status current => Sys2Proof.Machine.execEcho line node status current s
  | .invalidLineFrame line frame => Sys2Proof.Machine.execInvalidLineFrame line frame s
  | .itemTakenForSending line => Sys2Proof.Machine.execItemTakenForSending line s
  | .commandFrameSent line => Sys2Proof.Machine.execCommandFrameSent line s
  | .echoTimerExpiry line => Sys2Proof.Machine.execEchoTimerExpiry line s
  | .motionHoldExpiry room => Sys2Proof.Machine.execMotionHoldExpiry room s
  | .stillnessExpiry room => Sys2Proof.Machine.execStillnessExpiry room s
  | .lingerExpiry room => Sys2Proof.Machine.execLingerExpiry room s
  | .suiteLingerExpiry suite => Sys2Proof.Machine.execSuiteLingerExpiry suite s
  | .dutyTimerExpiry room => Sys2Proof.Machine.execDutyTimerExpiry room s
  | .travelTimerExpiry line node => Sys2Proof.Machine.execTravelTimerExpiry line node s
  | .holdOffExpiry source => Sys2Proof.Machine.execHoldOffExpiry source s
  | .minuteBoundary => Sys2Proof.Machine.execMinuteBoundary s
  | .faultPinChange pin low => Sys2Proof.Machine.execFaultPinChange pin low s
  | .clockSecondAdvance => Sys2Proof.Machine.execClockSecondAdvance s

end Sys2Proof.Machine
end

