-- ==== Sys2Proof/Machine/Tick.lean ====
section
/-!
DEFINITION. The crystal (R64, R90, R126, R137, R148, R27, R196): one millisecond passes when no command waits (log
3).
-/

namespace Sys2Proof.Machine

/-- A running timer loses a millisecond. At 0 it waits for its expiry to be taken. -/
def Timer.tick (t : Timer) : Timer := Option.map (· - 1) t

/-- Every timer of the part loses a millisecond. -/
def tickTimers (s : State) : State :=
  { s with
    deaf := Timer.tick s.deaf
    lc := { s.lc with lines := s.lc.lines.map fun x => { x with echoTimer := Timer.tick x.echoTimer } }
    re := { rooms := s.re.rooms.map fun x =>
              { x with motionHold := Timer.tick x.motionHold, stillness := Timer.tick x.stillness
                       linger := Timer.tick x.linger }
            suites := s.re.suites.map fun x => x.map fun g => { g with linger := Timer.tick g.linger } }
    ap := { s.ap with
            plans := s.ap.plans.map fun row => row.map fun x => x.map fun p => { p with travel := Timer.tick p.travel }
            air := s.ap.air.map fun x => { x with timer := Timer.tick x.timer } }
    pu := { s.pu with sources := s.pu.sources.map fun x => { x with timer := Timer.tick x.timer } } }

/-- The command of a timer that has run out. -/
def dueCommand (t : Timer) (c : Instr) : List Instr := if t = some 0 then [c] else []

/-- The expiries due, of every timer. -/
def dueCommands (s : State) : List Instr :=
  dueCommand s.deaf .takesFramesAgain ++
  (List.finRange 4).flatMap (fun l => dueCommand (s.line l).echoTimer (.echoTimerExpiry l)) ++
  allRooms.flatMap (fun r =>
    dueCommand (s.room r).motionHold (.motionHoldExpiry r) ++ dueCommand (s.room r).stillness (.stillnessExpiry r) ++
      dueCommand (s.room r).linger (.lingerExpiry r) ++ dueCommand (s.air r).timer (.dutyTimerExpiry r)) ++
  (List.finRange 8).flatMap (fun g => dueCommand ((s.suite g).bind Suite.linger) (.suiteLingerExpiry g)) ++
  allNodes.flatMap (fun n => dueCommand ((s.plan n).bind Plan.travel) (.travelTimerExpiry n.line n.addr)) ++
  allSources.flatMap (fun i => dueCommand (s.source i).timer (.holdOffExpiry i))

/-- The wing clock's millisecond: the state, and the clock's event once the second has passed, due until it is taken
(R90; logs 17 and 38). -/
def tickClock (s : State) : State × List Instr :=
  match s.tu.clock with
  | none => (s, [])
  | some c =>
    if s.tu.ms < 999 then ({ s with tu := { s.tu with ms := s.tu.ms + 1 } }, [])
    else
      ({ s with tu := { s.tu with ms := 1000 } },
        [if c.second < 59 then .clockSecondAdvance else .minuteBoundary])

/-- One millisecond of the crystal while the part is ready. What falls due joins the queue, in a free order (log
4). -/
def tick (s : State) : State :=
  if s.power = .ready then
    let q := tickClock (tickTimers s)
    let due := dueCommands q.1 ++ q.2
    if due = [] then q.1
    else { q.1 with pending := q.1.pending ++ freeOrder q.1.choices due, choices := q.1.choices + 1 }
  else s

end Sys2Proof.Machine
end

