-- ==== Sys2Proof/Safety.lean ====
section
/-!
DEFINITION. What counts as a safe run, and the bounds the manual sets on what the part holds.
-/

namespace Sys2Proof.Machine

/-- A run of `k` steps is safe when no step faults or refuses (log 26). -/
def SafeRun (k : Nat) (s : State) : Prop := ∃ t, core.run k s = .next t

/-- The fixed lengths of the lists the part holds: R4, R6, R22, R74, R95, R183. -/
structure State.Fits (s : State) : Prop where
  rx : s.ti.rx.length ≤ 4
  tx : s.ti.tx.length ≤ 16
  wing : s.nu.wing.length ≤ 16
  store : s.tu.store.length ≤ 512
  queue : ∀ l, (s.line l).queued.length ≤ 32
  windows : ∀ r, (s.room r).windows.length ≤ 8

/-- The ranges of what the part counts and keeps time by: R67, R90; the milliseconds of a second (log 38). -/
structure State.InRange (s : State) : Prop where
  head : ∀ r, (s.room r).head ≤ 999
  ms : s.tu.ms ≤ 1000
  clock : ∀ c, s.tu.clock = some c → 1 ≤ c.week ∧ c.week ≤ 52 ∧ c.minute ≤ 10079 ∧ c.second ≤ 59

/-- A line queue (R21, R22): the bands hold items of their own origins, and never two for one node and kind. -/
structure Line.Queue (x : Line) : Prop where
  urgent : ∀ it ∈ x.urgent, it.origin.band = .urgent
  normal : ∀ it ∈ x.normal, it.origin.band = .normal
  single : x.queued.Pairwise fun a b => a.rivals b = false

/-- The sum of R42: what was accepted has ended, is queued or is in flight. -/
def Line.Balanced (x : Line) : Prop :=
  x.counts.accepted = x.counts.delivered + x.counts.timedOut + x.counts.superseded + x.counts.flushed +
    BitVec.ofNat 32 (x.queued.length + if x.inFlight.isSome then 1 else 0)

/-- The pending list names each room once, and only status pending rooms (R176). -/
structure State.Lists (s : State) : Prop where
  once : s.nu.pendingList.Nodup
  pending : ∀ r ∈ s.nu.pendingList, (s.notice r).pending = true

/-- The booking store keeps list order and its ids are unique (R95, R96). -/
structure State.StoreOrdered (s : State) : Prop where
  order : s.tu.store.Pairwise fun a b => a.before b = true
  ids : (s.tu.store.map Booking.id).Nodup

/-- A room that is OFF holds its OFF values and no cursor (R61, R62, R102). -/
def State.OffIsEmpty (s : State) : Prop :=
  ∀ r, (s.room r).state = .off → s.room r = Room.off ∧ s.time r = RoomTime.empty

/-- The law of one source (R148): ACTIVE is asserted and no other state is; CLEARING is AUTO, HELD is LATCHED; the
hold-off timer runs only in CLEARING. -/
structure Source.Lawful (x : Source) (p : Pu) : Prop where
  asserted : x.state = .active ↔ x.asserted p = true
  auto : x.state = .clearing → x.cfg.mode = .auto
  latched : x.state = .held → x.cfg.mode = .latched
  timer : x.timer.isSome = true ↔ x.state = .clearing

def State.SourcesLawful (s : State) : Prop := ∀ i, (s.source i).Lawful s.pu

/-- The occupancy machine's law (R77): PREPARING has phase PREP, EXPECTED phase ON, VACANT neither; OCCUPIED is presence;
the linger timer runs in LINGER. -/
structure OccLaw (o : OccState) (presence : Bool) (phase : Phase) (linger : Timer) : Prop where
  preparing : o = .preparing → phase = .prep
  expected : o = .expected → phase = .on
  vacant : o = .vacant → phase = .idle ∨ phase = .lag
  occupied : o = .occupied ↔ presence = true
  linger : linger.isSome = true ↔ o = .linger

/-- The law of one room (R62, R70 to R72, R77, R160, R165). -/
structure Room.Lawful (x : Room) : Prop where
  run : ∀ o, x.state = .run o → OccLaw o x.presence x.phase x.linger
  joined : x.state = .joined → x.linger = none ∧ x.overrideScene = none
  stillness : x.stillness.isSome = true → 0 < x.head ∧ x.motionHold = none ∧ x.suspended = false

/-- The law of one suite (R160, R168): 2 or 3 distinct members, each loaded and naming it, JOINED exactly while it has a
state; the machine's law while JOINED, and nothing running while SPLIT. -/
structure State.SuiteLawful (s : State) (g : SuiteId) (x : Suite) : Prop where
  distinct : x.members.Nodup
  size : x.members.length = 2 ∨ x.members.length = 3
  member : ∀ r ∈ x.members,
    (s.room r).suite = some g ∧ (s.room r).state ≠ .off ∧ ((s.room r).state = .joined ↔ x.occ.isSome = true)
  machine : ∀ o, x.occ = some o → OccLaw o (s.suitePresence g) (s.effectivePhase g) x.linger
  split : x.occ = none → x.linger = none ∧ x.seen = false

/-- What holds between the room records and the suite records. -/
structure State.Occupancy (s : State) : Prop where
  rooms : ∀ r, (s.room r).Lawful
  suites : ∀ g x, s.suite g = some x → s.SuiteLawful g x
  membership : ∀ r g, (s.room r).suite = some g → ∃ x, s.suite g = some x ∧ r ∈ x.members
  joined : ∀ r, (s.room r).state = .joined → (s.room r).suite ≠ none

/-- What the queues' traffic leaves of a line: all but the two bands and the counts of what joins and leaves them. -/
def Line.frame (x : Line) : Line :=
  { x with urgent := [], normal := [], counts := { x.counts with accepted := 0, superseded := 0, flushed := 0 } }

/-- What composition and offers leave of a plan entry: last sent value, confirmation, travel and alarm. -/
def Plan.frame (p : Plan) : Plan := { p with target := none, override := none, stalled := false, deferred := false }

/-- What offers leave of a plan entry: all but the deferred flag (R133, R134). -/
def Plan.kept (p : Plan) : Plan := { p with deferred := false }

/-- Every node keeps its node override (R130). -/
def KeepsOverrides (s t : State) : Prop := ∀ n, (t.plan n).map Plan.override = (s.plan n).map Plan.override

/-- The nodes of the rooms that `p` does not name are offered and deferred at most (R132). -/
def KeepsPlansBut (p : RoomId → Prop) (s t : State) : Prop :=
  ∀ n e, s.entry n = some e → ¬ p e.room → (t.plan n).map Plan.kept = (s.plan n).map Plan.kept

/-- What composition leaves of a room's air: all but the state air mode. -/
def RoomAir.frame (a : RoomAir) : RoomAir := { a with mode := none }

/-- AP composes and offers, and the line controllers place and remove queued items; nothing else changes. -/
structure OnlyActuation (s t : State) : Prop where
  rest : { t with lc := s.lc, ap := s.ap } = s
  lines : ∀ l, (t.line l).frame = (s.line l).frame
  plans : ∀ n, (t.plan n).map Plan.frame = (s.plan n).map Plan.frame
  air : ∀ r, (t.air r).frame = (s.air r).frame
  tables : t.ap.scenes = s.ap.scenes ∧ t.ap.rounding = s.ap.rounding ∧
    t.ap.mirrorUnclassified = s.ap.mirrorUnclassified
  fits : ∀ l, (s.line l).queued.length ≤ 32 → (t.line l).queued.length ≤ 32

/-- What NU's conditions leave of a room's notice record. -/
def RoomNotice.frame (n : RoomNotice) : RoomNotice := { n with conds := 0, pending := false }

/-- What offered NOTICE and MIRROR frames leave of TI. -/
def Ti.frame (t : Ti) : Ti := { t with tx := [], counts := { t.counts with noticesDropped := 0, mirrorsDropped := 0 } }

/-- What the room engine's work may change: rooms and suites; AP's plans, air and the queues; conditions and
pending rooms; NOTICE frames. All else is as before: power, TI's buffer and counts of reception, the classifier,
the timetable, the fault sources, node tables and line states, configurations of NU, the wing report queue. -/
structure RoomWork (s t : State) : Prop where
  rest : { t with ti := s.ti, lc := s.lc, re := s.re, ap := s.ap, nu := s.nu } = s
  ti : t.ti.frame = s.ti.frame
  tx : ∀ n, 12 ≤ n → s.ti.tx.length ≤ n → t.ti.tx.length ≤ n
  lines : ∀ l, (t.line l).frame = (s.line l).frame
  fits : ∀ l, (s.line l).queued.length ≤ 32 → (t.line l).queued.length ≤ 32
  plans : ∀ n, (t.plan n).map Plan.frame = (s.plan n).map Plan.frame
  tables : t.ap.scenes = s.ap.scenes ∧ t.ap.rounding = s.ap.rounding ∧
    t.ap.mirrorUnclassified = s.ap.mirrorUnclassified
  notices : ∀ r, (t.notice r).frame = (s.notice r).frame
  queue : t.nu.mask = s.nu.mask ∧ t.nu.wing = s.nu.wing
  lists : s.Lists → t.Lists
  configs : ∀ r, (t.room r).cfg = (s.room r).cfg ∧ (t.room r).suite = (s.room r).suite
  members : ∀ g, t.members g = s.members g

/-- AP composes and offers for a node that is being loaded or dropped: `OnlyActuation`, but for the node's own entry
and plan. -/
structure NodeWork (n : NodeRef) (s t : State) : Prop where
  rest : { t with lc := s.lc, ap := s.ap } = s
  lines : ∀ l, { (t.line l).frame with nodes := (s.line l).nodes } = (s.line l).frame
  entries : ∀ m, m ≠ n → t.entry m = s.entry m
  plans : ∀ m, m ≠ n → (t.plan m).map Plan.kept = (s.plan m).map Plan.kept
  air : t.ap.air = s.ap.air
  tables : t.ap.scenes = s.ap.scenes ∧ t.ap.rounding = s.ap.rounding ∧
    t.ap.mirrorUnclassified = s.ap.mirrorUnclassified

/-- AP has recomposed a room (R125, R132): every actuator node's target is what composition gives in the new state, or the
old one where it gives none, and so is the state air mode. -/
structure Recomposed (s t : State) (r : RoomId) : Prop where
  targets : ∀ n e p, s.entry n = some e → e.room = r → s.plan n = some p →
    ∃ q, t.plan n = some q ∧ q.target = (compose t r e.role { p with override := q.override }).orElse fun _ => p.target
  mode : (t.air r).mode = ((t.view r).bind View.airMode).orElse fun _ => (s.air r).mode

/-- A room has taken a phase report (R76, R102, R106): its phase, the kind of the cursor booking, and the booking scene AP
composes it from until the next report. -/
structure Room.TookReport (x : Room) (report : Phase × Option Booking) : Prop where
  phase : x.phase = report.1
  kind : x.cursorKind = report.2.map Booking.kind
  scene : x.bookingScene = report.2.map Booking.scene

/-- A room holds what the last phase report told of `old` (R106). -/
structure Room.KeepsReport (x old : Room) : Prop where
  phase : x.phase = old.phase
  kind : x.cursorKind = old.cursorKind
  scene : x.bookingScene = old.bookingScene

/-- No actuator node of a room has a node override (R130). -/
def State.NoOverrides (t : State) (r : RoomId) : Prop :=
  ∀ n e q, t.entry n = some e → e.room = r → e.role.family ≠ none → t.plan n = some q → q.override = none

/-- What entry to VACANT leaves of a room (R82). -/
structure State.Vacated (t : State) (r : RoomId) : Prop where
  scene : (t.room r).overrideScene = none
  latch : (t.room r).boost = false
  overrides : t.NoOverrides r

/-- A period of duty `d` has begun (R126). -/
structure RoomAir.Begun (a : RoomAir) (d : Duty) : Prop where
  active : a.active = d
  waiting : a.waiting = none
  steady : d.period = 0 → a.part = none ∧ a.timer = none
  on : 0 < d.period → 0 < d.onTime → a.part = some .on ∧ a.timer = some (d.onTime * 60000)
  off : 0 < d.period → d.onTime = 0 → a.part = some .off ∧ a.timer = some (d.period * 60000)

/-- Standby duty follows a room's state and phase from `s` to `t` (R126): a room that stays in duty, or out of it, keeps part
and timer; one that leaves it has neither, and its pending duty stays pending; one that enters it begins a period. -/
structure DutyFollows (s t : State) (r : RoomId) : Prop where
  stays : s.inDuty r = t.inDuty r → (t.air r).frame = (s.air r).frame
  leaves : s.inDuty r = true → t.inDuty r = false →
    (t.air r).frame = { (s.air r).frame with part := none, timer := none }
  enters : s.inDuty r = false → t.inDuty r = true → (t.air r).Begun ((s.air r).waiting.getD (s.air r).active)

/-- The machine of the suite in place `g`, which held `x`, has taken state `o` (R166 to R168): the lead's linger time on entry
to LINGER; with a change STATE CHANGED for the members, every member recomposed, and on entry to VACANT their node overrides
and boost latches clear (R82). -/
structure SuiteTook (g : SuiteId) (x : Suite) (o : OccState) (seen : Bool) (s t : State) : Prop where
  record : t.suite g = some { x with
    occ := some o, seen := seen
    linger := if x.occ = some o then x.linger
              else if o = .linger then some ((s.room (x.members.headD 0)).cfg.lingerTime * 1000) else none }
  told : x.occ ≠ some o → ∀ r ∈ x.members, (s.room r).state ≠ .off →
    CondSet.holds (t.notice r).conds .stateChanged = true
  cleared : x.occ ≠ some o → o = .vacant → ∀ r ∈ x.members, (t.room r).boost = false ∧ t.NoOverrides r
  spared : x.occ = some o ∨ o ≠ .vacant → KeepsOverrides s t
  recomposed : x.occ ≠ some o → ∀ r ∈ x.members, Recomposed s t r
  others : ∀ k, k ≠ g → t.suite k = s.suite k

/-- What the rooms do when governing sources change between two states (R153 to R158). A family of a room enters
protection when it had no governing source and has one, and leaves it when it had one and has none. A stalled blind keeps
its stall, and is sent nothing, exactly when the protected position was its target's value already (R132, R139, R155; log 36).
A room with no such change is offered and deferred at most. -/
structure ProtectionFollows (s t : State) : Prop where
  entered : ∀ r f, (s.room r).state ≠ .off → s.pu.governing r f = none → t.pu.governing r f ≠ none →
    CondSet.holds (t.notice r).conds .protectionEntered = true
  left : ∀ r f, (s.room r).state ≠ .off → s.pu.governing r f ≠ none → t.pu.governing r f = none →
    CondSet.holds (t.notice r).conds .protectionLeft = true
  removed : ∀ n e f, s.entry n = some e → e.role.family = some f → (s.view e.room).isSome = true →
    s.pu.governing e.room f = none → t.pu.governing e.room f ≠ none →
    ∀ it ∈ (t.line n.line).queued, it.node = n.addr → it.origin ≠ .room ∧ it.origin ≠ .pass
  cleared : ∀ n e f q, s.entry n = some e → e.role.family = some f → (s.room e.room).state ≠ .off →
    s.pu.governing e.room f = none → t.pu.governing e.room f ≠ none → t.plan n = some q → q.override = none
  spared : ∀ n e, s.entry n = some e →
    (∀ f, e.role.family = some f → s.pu.governing e.room f ≠ none ∨ t.pu.governing e.room f = none) →
    (t.plan n).map Plan.override = (s.plan n).map Plan.override
  recomposed : ∀ r, (∃ f, s.pu.governing r f ≠ t.pu.governing r f) → Recomposed s t r
  stalled : ∀ n e p v, s.entry n = some e → e.role.isBlind = true → (s.view e.room).isSome = true → s.plan n = some p →
    p.stalled = true → s.pu.governing e.room .blinds ≠ t.pu.governing e.room .blinds →
    t.protection e.room .blinds = some v →
    ∃ q, t.plan n = some q ∧ (q.stalled = true ↔ p.target.map Target.value = some v) ∧
      (q.stalled = true → ∀ it ∈ (t.line n.line).queued, it.node = n.addr → it ∈ (s.line n.line).queued)
  kept : ∀ r, (s.room r).state = .off ∨ (∀ f, s.pu.governing r f = t.pu.governing r f) → t.notice r = s.notice r ∧
    ∀ n e, s.entry n = some e → e.room = r → (t.plan n).map Plan.kept = (s.plan n).map Plan.kept

/-- What an event of source `i` may change: that source; the queues, plans and conditions of the rooms it governs, as
`ProtectionFollows` says; NOTICE frames; the wing report queue. -/
structure ProtectionWork (i : SourceId) (s t : State) : Prop where
  rest : { t with ti := s.ti, lc := s.lc, ap := s.ap, pu := s.pu, nu := s.nu } = s
  ti : t.ti.frame = s.ti.frame
  lines : ∀ l, (t.line l).frame = (s.line l).frame
  plans : ∀ n, (t.plan n).map Plan.frame = (s.plan n).map Plan.frame
  air : ∀ r, (t.air r).frame = (s.air r).frame
  tables : t.ap.scenes = s.ap.scenes ∧ t.ap.rounding = s.ap.rounding ∧
    t.ap.mirrorUnclassified = s.ap.mirrorUnclassified
  sources : ∀ j, j ≠ i → t.source j = s.source j
  pins : t.pu.pins = s.pu.pins
  notices : ∀ r, (t.notice r).frame = (s.notice r).frame
  mask : t.nu.mask = s.nu.mask
  follows : ProtectionFollows s t

/-- AP's inbox is empty, and no node of the line waits to be retried (R22, R134). -/
structure State.Quiet (s : State) (l : LineId) : Prop where
  handed : s.ap.handed = []
  freed : s.ap.freed = []
  deferred : ∀ a p, s.plan ⟨l, a⟩ = some p → p.deferred = false

/-- What AP does after `u`, the examinations of an event included, ends in `t` (R134, R135; log 9): AP takes its inbox, which
`IdleLineSendsItsNextItem` says in full. -/
structure InboxTaken (u t : State) : Prop where
  lines : t.lc = (settle u).lc
  plans : t.ap = (settle u).ap

/-- An offer of this target cannot displace an item of another node: its line has a place, or it is of the NORMAL band
(R24). -/
def Line.Spares (x : Line) (target : Option Target) : Prop :=
  x.queued.length < 32 ∨ ∀ v, target = some v → v.protect = false

/-- No NOTICE is owed between two events (R175; log 11). -/
abbrev State.Settled (s : State) : Prop := s.nu.due = []

/-! ### What requests answer -/

/-- TI takes next a REQUEST with this code, tag and parameters (R4, R5). -/
abbrev State.Takes (s : State) (code tag : Byte) (params : List Byte) : Prop :=
  s.nextFrame = some { kind := .request, tag := tag, payload := code :: params }

/-- The request is carried out: `u` is the state after its work, and the REPLY DONE with `data` joins the transmit
queue (R186). -/
def AnswersDone (c : Instr) (s : State) (code tag : Byte) (data : List Byte) (u : State) : Prop :=
  exec c s = .next (pushTx { kind := .reply, tag := tag, payload := code :: 0 :: data } u)

/-- A request's row: its command, its code, the parameters the row takes and its owner's judgement (R16, R187). -/
structure RequestRow where
  command : Instr
  code : Byte
  takes : List Byte → Bool
  handler : Handler

/-- A request that takes every parameter list. -/
def plainRow (c : Instr) (code : Byte) (h : Handler) : RequestRow := ⟨c, code, fun _ => true, h⟩

/-- A row of LINE CONTROL, which takes the frames of its action and those refused before it counts (log 7). -/
def lineRow (c : Instr) (a : LineAction) (work : LineId → Byte → State → State) : RequestRow :=
  ⟨c, 0x12, takesAction a, lineControl work⟩

/-- The requests of TI, LC and CL. -/
def lineRows : List RequestRow :=
  [plainRow .resetPart 0x01 resetPart,
   plainRow .readTrunkCounters 0x02 readTrunkCounters,
   plainRow .loadNode 0x10 loadNode,
   plainRow .dropNode 0x11 dropNode,
   lineRow .lineControlSuspend .suspend (fun l _ => suspendLine l),
   lineRow .lineControlResume .resume (fun l _ => resumeLine l),
   lineRow .lineControlRestart .restart (fun l _ => restartLine l),
   lineRow .lineControlSetTimeout .setTimeout setLineTimeout,
   plainRow .readLineCounters 0x13 readLineCounters,
   plainRow .loadRule 0x20 loadRule,
   plainRow .dropRule 0x21 dropRule]

/-- The requests of RE and TU. -/
def roomRows : List RequestRow :=
  [plainRow .loadRoom 0x30 loadRoom,
   plainRow .disableRoom 0x31 disableRoom,
   plainRow .saveRoom 0x32 saveRoom,
   plainRow .restoreRoom 0x33 restoreRoom,
   plainRow .setClock 0x40 setClockRequest,
   plainRow .readClock 0x41 readClock,
   plainRow .loadBooking 0x42 loadBooking,
   plainRow .cancelBooking 0x43 cancelBooking,
   plainRow .listBookings 0x44 listBookings,
   plainRow .roomRelease 0x45 roomRelease]

/-- The requests of AP and PU. -/
def actuationRows : List RequestRow :=
  [plainRow .loadScene 0x50 loadScene,
   plainRow .loadWing 0x51 loadWing,
   plainRow .setAirDuty 0x52 setAirDuty,
   plainRow .roomScene 0x53 roomScene,
   plainRow .cancelTravel 0x54 cancelTravel,
   plainRow .loadFault 0x60 loadFault,
   plainRow .raiseFault 0x61 raiseFault,
   plainRow .dropFault 0x62 dropFault,
   plainRow .clearFault 0x63 clearFault]

/-- The requests of RE's suites and NU. -/
def noticeRows : List RequestRow :=
  [plainRow .loadSuite 0x70 loadSuite,
   plainRow .dropSuite 0x71 dropSuite,
   plainRow .collectStatus 0x80 collectStatus,
   plainRow .sampleStatus 0x81 sampleStatus,
   plainRow .nextPending 0x82 nextPending,
   plainRow .setNoticeMask 0x83 setNoticeMask,
   plainRow .readWingReport 0x84 readWingReport]

/-- Every request. -/
def requestRows : List RequestRow := lineRows ++ roomRows ++ actuationRows ++ noticeRows

/-! ### The table of R197 -/

/-- A line after power-on or RESET PART. -/
structure Line.AtStart (x : Line) : Prop where
  state : x.state = .idle
  queue : x.queued = []
  flight : x.inFlight = none ∧ x.echoTimer = none
  flags : x.suspended = false ∧ x.follow = none ∧ x.timeouts = 0
  timeout : x.timeoutSetting = 0 ∧ x.timeoutMs = 512
  counts : x.counts = ⟨0, 0, 0, 0, 0, 0, 0, 0, 0⟩
  entries : ∀ a, look x.nodes a = none

/-- The state of every block after power-on or RESET PART, but for the trunk address, the fault pins and the cause of
STARTED, which the event gives. -/
structure State.AtStart (s : State) : Prop where
  buffers : s.ti.rx = [] ∧ s.ti.tx = []
  counts : s.ti.counts = ⟨0, 0, 0, 0, 0, 0, 0, 0⟩
  lines : ∀ l, (s.line l).AtStart
  rules : ∀ i, look s.cl.rules i = none
  strangers : ∀ l, look s.cl.strangers l = false
  rooms : ∀ r, s.room r = Room.off
  suites : ∀ g, s.suite g = none
  clock : s.tu.clock = none ∧ s.tu.store = []
  cursors : ∀ r, (s.time r).cursor = none ∧ (s.time r).released = none
  scenes : ∀ n, s.loadedScene n = if n = 0 then some Scene.builtIn else none
  wing : s.ap.rounding = .nearest ∧ s.ap.mirrorUnclassified = false
  plans : ∀ n, s.plan n = none
  air : ∀ r, (s.air r).active = ⟨0, 0⟩ ∧ (s.air r).waiting = none ∧ (s.air r).mode = none ∧ (s.air r).timer = none
  sources : ∀ i, (s.source i).state = .idle ∧ (s.source i).classifierFlag = false ∧
    (s.source i).supervisorFlag = false ∧ (s.source i).timer = none ∧
    (s.source i).cfg = { mode := .latched, holdOff := 0, pin := none, rooms := 0, lights := .hold, blinds := .hold, air := .hold }
  governing : ∀ r f, s.pu.governing r f = none
  notices : ∀ r, s.notice r = { conds := 0, notify := 0, cls := 0, tag := 0, pending := false }
  lists : s.nu.pendingList = [] ∧ ∀ c, s.enabled c = true

end Sys2Proof.Machine
end

