-- ==== Sys2Proof/Certificates/Slice0/Obligations.lean ====
section
/-!
DEFINITION. The statements for the provers, in the order of the manual's chapters.

`dropFrame s` is the state without the frame TI takes; `AnswersDone c s code tag data u` says that the request's work
gives `u` and its REPLY DONE joins the transmit queue. `s.Settled` says that no NOTICE is owed when the event begins,
which every step keeps (`ListsAreKept`).
-/

open Sys2Proof Sys2Proof.Machine

/-! ### The queue of commands, power and reset -/

/-- The block's step takes the oldest waiting command. -/
def Obligations.StepRunsTheFrontCommand : Prop :=
  ∀ (c : Instr) (rest : List Instr) (s : State), s.pending = c :: rest → step s = exec c { s with pending := rest }

/-- No command waits: one millisecond of the crystal passes while the part is ready (R64; log 3). Every running timer loses
it; the second of a clock that is set grows by it, to 1000 (log 38); and each timer that is at 0, and the clock's event at
1000, puts its own command into the queue, once, in an order that is free (log 4). Nothing else changes. A timer expires only
once it has run its length: at any other time its expiry changes nothing, one among them that waited while the timer was
stopped or started again (R64, R84). -/
def Obligations.CrystalRunsTheTimers : Prop :=
  (∀ s : State, s.pending = [] →
    (s.power ≠ .ready → step s = .next s) ∧
    (s.power = .ready →
      let less : Timer → Timer := Option.map (· - 1)
      ∃ t, step s = .next t ∧ t.power = .ready ∧ t.resetStage = s.resetStage ∧ t.deaf = less s.deaf ∧ t.ti = s.ti ∧
        t.cl = s.cl ∧ t.nu = s.nu ∧ t.pu.pins = s.pu.pins ∧
        (∀ l, t.line l = { s.line l with echoTimer := less (s.line l).echoTimer }) ∧
        (∀ r, t.room r = { s.room r with motionHold := less (s.room r).motionHold
                                         stillness := less (s.room r).stillness, linger := less (s.room r).linger }) ∧
        (∀ g, t.suite g = (s.suite g).map fun x => { x with linger := less x.linger }) ∧
        (∀ n, t.plan n = (s.plan n).map fun p => { p with travel := less p.travel }) ∧
        (∀ r, t.air r = { s.air r with timer := less (s.air r).timer }) ∧
        { t.ap with plans := s.ap.plans, air := s.ap.air } = s.ap ∧
        (∀ i, t.source i = { s.source i with timer := less (s.source i).timer }) ∧
        t.tu = { s.tu with ms := if s.tu.clock = none then s.tu.ms else min 1000 (s.tu.ms + 1) } ∧
        t.pending.Nodup ∧ ∀ c, c ∈ t.pending ↔ match c with
          | .takesFramesAgain => t.deaf = some 0
          | .echoTimerExpiry l => (t.line l).echoTimer = some 0
          | .motionHoldExpiry r => (t.room r).motionHold = some 0
          | .stillnessExpiry r => (t.room r).stillness = some 0
          | .lingerExpiry r => (t.room r).linger = some 0
          | .suiteLingerExpiry g => ∃ x, t.suite g = some x ∧ x.linger = some 0
          | .dutyTimerExpiry r => (t.air r).timer = some 0
          | .travelTimerExpiry l a => ∃ p, t.plan ⟨l, a⟩ = some p ∧ p.travel = some 0
          | .holdOffExpiry i => (t.source i).timer = some 0
          | .clockSecondAdvance => t.tu.ms = 1000 ∧ ∃ k, s.tu.clock = some k ∧ k.second < 59
          | .minuteBoundary => t.tu.ms = 1000 ∧ ∃ k, s.tu.clock = some k ∧ 59 ≤ k.second
          | _ => False)) ∧
  (∀ s : State,
    (s.deaf ≠ some 0 → exec .takesFramesAgain s = .next s) ∧
    (∀ l, (s.line l).echoTimer ≠ some 0 → exec (.echoTimerExpiry l) s = .next s) ∧
    (∀ r, ((s.room r).motionHold ≠ some 0 → exec (.motionHoldExpiry r) s = .next s) ∧
      ((s.room r).stillness ≠ some 0 → exec (.stillnessExpiry r) s = .next s) ∧
      ((s.room r).linger ≠ some 0 → exec (.lingerExpiry r) s = .next s) ∧
      ((s.air r).timer ≠ some 0 → exec (.dutyTimerExpiry r) s = .next s)) ∧
    (∀ g, (∀ x, s.suite g = some x → x.linger ≠ some 0) → exec (.suiteLingerExpiry g) s = .next s) ∧
    (∀ l a, (∀ p, s.plan ⟨l, a⟩ = some p → p.travel ≠ some 0) → exec (.travelTimerExpiry l a) s = .next s) ∧
    (∀ i, (s.source i).timer ≠ some 0 → exec (.holdOffExpiry i) s = .next s))

/-- Right after power-on every block has the state of R197's table, the queue of commands is empty, and the laws that
the steps keep hold. That State.reset is the part just after power-on is log 6. -/
def Obligations.ResetStateIsTheStartTable : Prop :=
  State.reset.AtStart ∧ State.reset.pending = [] ∧
    State.reset.nu.wing = [{ kind := .startedPower, stamp := none, overflow := false }] ∧
  State.reset.Fits ∧ State.reset.InRange ∧ State.reset.Lists ∧ State.reset.Settled ∧
    (∀ l, (State.reset.line l).Queue ∧ (State.reset.line l).Balanced) ∧ State.reset.StoreOrdered ∧
    State.reset.OffIsEmpty ∧ State.reset.SourcesLawful ∧ State.reset.Occupancy

/-- RESET TAKES EFFECT, TAKES FRAMES AGAIN, POWER ON, PART READY and POWER LOSS (R196, R197). -/
def Obligations.ResetAndPowerGiveTheStartTable : Prop :=
  (∀ (straps : BitVec 6) (s : State), s.power = .ready → s.resetStage = .replySent →
    ∃ t, exec (.resetTakesEffect straps) s = .next t ∧ t.AtStart ∧ t.ti.address = straps ∧ t.pu.pins = s.pu.pins ∧
      t.nu.wing = [{ kind := .startedRequest, stamp := none, overflow := false }] ∧ t.power = .ready ∧
      t.deaf = some 2 ∧ t.resetStage = .idle ∧ t.pending = s.pending) ∧
  (∀ s : State, s.deaf = some 0 → exec .takesFramesAgain s = .next { s with deaf := none }) ∧
  (∀ (straps : BitVec 6) (s : State), s.power = .off →
    ∃ t, exec (.powerOn straps) s = .next t ∧ t.ti.address = straps ∧ t.power = .starting ∧ t.hears = false ∧
      t.pending = s.pending) ∧
  (∀ (pinsLow : BitVec 4) (s : State), s.power = .starting →
    ∃ t, exec (.partReady pinsLow) s = .next t ∧ t.AtStart ∧ t.ti.address = s.ti.address ∧
      (∀ p, look t.pu.pins p = pinsLow.getLsbD p.val) ∧
      t.nu.wing = [{ kind := .startedPower, stamp := none, overflow := false }] ∧ t.hears = true ∧
      t.pending = s.pending) ∧
  (∀ s : State, s.power ≠ .off →
    ∃ t, exec .powerLoss s = .next t ∧ t.power = .off ∧ t.hears = false ∧ t.AtStart ∧ t.nu.wing = [] ∧
      t.pending = s.pending)

/-! ### Chapter 1: the trunk -/

/-- The four tests of R2, in order, on a complete frame; each counter by itself. A frame that reaches the part while it
takes none leaves it as it was. -/
def Obligations.TrunkFrameIsJudgedInOrder : Prop :=
  ∀ (f : RawFrame) (s : State),
    (s.hears = false → exec (.trunkFrameReceived f) s = .next s) ∧
    (s.hears = true →
      let c := s.ti.counts
      let counted : TrunkCounts → Answer := fun n => .next { s with ti := { s.ti with counts := n } }
      let broken : Prop :=
        f.lowStop = true ∨ f.bytes.length < 6 ∨ f.bytes.length ≠ 6 + (f.bytes.getD 3 0).toNat
      (broken → exec (.trunkFrameReceived f) s = counted { c with malformed := c.malformed + 1 }) ∧
      (¬ broken →
        (crc16 f.bytes ≠ 0 → exec (.trunkFrameReceived f) s = counted { c with checkErrors := c.checkErrors + 1 }) ∧
        (crc16 f.bytes = 0 → ∀ address kind tag length rest, f.bytes = address :: kind :: tag :: length :: rest →
          let mine : Prop := s.ti.address ≠ 0 ∧ s.ti.address ≠ 63 ∧ address = s.ti.address.zeroExtend 8
          let request : Prop := kind = 1 ∧ length.toNat ≤ 240
          let pass : Prop := kind = 3 ∧ length = 6
          (¬ mine → exec (.trunkFrameReceived f) s = counted { c with foreign := c.foreign + 1 }) ∧
          (mine → ¬ request → ¬ pass →
            exec (.trunkFrameReceived f) s = counted { c with malformed := c.malformed + 1 }) ∧
          (mine → request ∨ pass → 4 ≤ s.ti.rx.length →
            exec (.trunkFrameReceived f) s = counted { c with overruns := c.overruns + 1 }) ∧
          (mine → request ∨ pass → s.ti.rx.length < 4 →
            exec (.trunkFrameReceived f) s =
              .next { s with ti := { s.ti with
                rx := s.ti.rx ++ [{ kind := if kind = 1 then .request else .pass, tag := tag
                                    payload := rest.take length.toNat }]
                counts := { c with received := c.received + 1 } } }))))

/-- ENCODING (R2, R8, R9, R16): a frame the part sends carries a check that the receiver's computation takes to zero, in
the lengths R8 fixes; a field node's frame is read as the message it carries, and stands for that message's command. -/
def Obligations.FramesCarryTheirCheck : Prop :=
  ((∀ (address kind tag : Byte) (payload : List Byte),
     crc16 (trunkFrameBytes address kind.toNat tag payload) = 0) ∧
   (∀ it : Item, crc8 it.wireBytes = 0 ∧ it.wireBytes.length = (if it.kind = .setLevel then 7 else 5) ∧
     it.wireBytes.head? = some (byteOf it.node.val))) ∧
  (∀ m : LineMessage,
     (match m with
       | .report n _ _ => n ≠ 0
       | .arrived n p => n ≠ 0 ∧ p.toNat ≤ 100
       | .echo n _ _ => n ≠ 0) →
     lineMessage { lowStop := false, bytes := m.bytes } = some m ∧
     lineMessage { lowStop := true, bytes := m.bytes } = none ∧
     ∀ l : LineId, lineCommand l { lowStop := false, bytes := m.bytes } = (match m with
       | .report n c v => .report l n c v
       | .arrived n p => .arrived l n p
       | .echo n st cu => .echo l n st cu) ∧
       (lineCommand l { lowStop := false, bytes := m.bytes }).wf = true)

/-- FRAME SENT (R6): the oldest frame leaves and is counted; a part without an address sends nothing (R3). The requests TI
answers itself: no bytes, and a code that is not listed (R5); RESET PART (R5, R196), answered DONE at once: from then on TI
takes no frame, and when that REPLY is the oldest and leaves, the reset is about to take effect. -/
def Obligations.TrunkInterfaceSendsAndAnswers : Prop :=
  (∀ (f : TxFrame) (rest : List TxFrame) (s : State), s.power = .ready → s.ti.tx = f :: rest →
    ((s.ti.address = 0 ∨ s.ti.address = 63) → exec .frameSent s = .next s) ∧
    (s.ti.address ≠ 0 → s.ti.address ≠ 63 → s.resetStage = .idle →
      exec .frameSent s =
        .next { s with ti := { s.ti with
          tx := rest, counts := { s.ti.counts with sent := s.ti.counts.sent + 1 } } })) ∧
  (∀ (s : State) (tag : Byte),
    (s.nextFrame = some { kind := .request, tag := tag, payload := [] } →
      exec .unknownRequestCode s =
        .next (pushTx { kind := .reply, tag := tag, payload := [0, 1] } (dropFrame s))) ∧
    (∀ (c : Byte) (ps : List Byte), s.Takes c tag ps → c.toNat ∉ requestCodes →
      exec .unknownRequestCode s =
        .next (pushTx { kind := .reply, tag := tag, payload := [c, 1] } (dropFrame s)))) ∧
  (∀ (s : State) (tag : Byte), s.Takes 0x01 tag [] →
    ∃ u, AnswersDone .resetPart s 0x01 tag [] u ∧ u = { dropFrame s with resetStage := .requested }) ∧
  (∀ s : State, s.resetStage ≠ .idle → s.nextFrame = none) ∧
  (∀ (s : State) (tag : Byte) (rest : List TxFrame), s.power = .ready → s.ti.address ≠ 0 → s.ti.address ≠ 63 →
    s.resetStage = .requested → s.ti.tx = { kind := .reply, tag := tag, payload := [0x01, 0] } :: rest →
    ∃ t, exec .frameSent s = .next t ∧ t.resetStage = .replySent ∧ t.ti.tx = rest)

/-- A refused request changes the trunk's buffers and nothing else (R187), and is answered with its code and the result
alone; an accepted one is answered by exactly one REPLY, after its work (R5, R186). -/
def Obligations.RequestsAreAnsweredByTheirOwner : Prop :=
  (∀ row ∈ requestRows, ∀ (s : State) (tag : Byte) (ps : List Byte) (r : ResultCode),
     s.Takes row.code tag ps → row.takes ps = true → row.handler ps (dropFrame s) = .error r →
     exec row.command s =
       .next { s with ti := { s.ti with
         rx := s.ti.rx.tail
         tx := s.ti.tx ++ [{ kind := .reply, tag := tag, payload := [row.code, byteOf r.code] }] } }) ∧
  (∀ row ∈ requestRows, ∀ (s u : State) (tag : Byte) (ps data : List Byte),
     s.Takes row.code tag ps → row.takes ps = true → row.handler ps (dropFrame s) = .ok (u, data) →
     AnswersDone row.command s row.code tag data u)

/-- A refused PASS draws a REJECT with its tag, the reason and its own line and node bytes, sent with the part's
address, and changes nothing outside TI (R11). The reason is that of the first of R10's seven checks, in its order, that
fails; when none fails the PASS is admitted with what it carries. -/
def Obligations.RefusedPassChangesNothing : Prop :=
  (∀ (s : State) (tag : Byte) (payload : List Byte) (r : RejectReason),
    s.nextFrame = some { kind := .pass, tag := tag, payload := payload } → judgePass s payload = .error r →
    let reject : TxFrame := { kind := .reject, tag := tag, payload := byteOf r.code :: payload.take 2 }
    exec .pass s = .next { s with ti := { s.ti with rx := s.ti.rx.tail, tx := s.ti.tx ++ [reject] } } ∧
      (s.ti.wireBytes reject).take 3 = [s.ti.address.zeroExtend 8, 4, tag]) ∧
  (∀ (s : State) (l n k vh vl ra : Byte),
    let judged := judgePass s [l, n, k, vh, vl, ra]
    let value := 256 * vh.toNat + vl.toNat
    let check1 : Prop := l.toNat ≤ 3 ∧ 1 ≤ n.toNat ∧ n.toNat ≤ 31 ∧
      ((k = 0x11 ∧ value ≤ 1000 ∧ ra.toNat ≤ 60) ∨ ((k = 0x12 ∨ k = 0x13) ∧ value ≤ 100) ∨ k = 0x14 ∨ k = 0x15)
    (¬ check1 → judged = .error .unknown) ∧
    (∀ (line : LineId) (node : NodeAddr), check1 → l.toNat = line.val → n.toNat = node.val →
      (s.entry ⟨line, node⟩ = none → judged = .error .unknown) ∧
      (∀ e, s.entry ⟨line, node⟩ = some e →
        let x := s.line line
        let check3 : Prop := k = 0x15 ∨ (k = 0x14 ∧ e.role.family ≠ none) ∨ (k = 0x11 ∧ e.role.family = some .lights) ∨
          (k = 0x12 ∧ e.role.family = some .blinds) ∨ (k = 0x13 ∧ e.role.family = some .air)
        let check4 : Prop := (s.room e.room).state ≠ .off ∧ (k = 0x13 → (s.room e.room).windows = [])
        let check5 : Prop := ∀ f, e.role.family = some f → s.protection e.room f = none
        let check6 : Prop := x.down = false ∧ e.health ≠ .offline
        let check7 : Prop := x.queued.length < 32 ∨ ∃ it ∈ x.queued, it.node = node ∧ it.kind.code = k.toNat
        (¬ check3 → judged = .error .unknown) ∧
        (check3 → ¬ check4 → judged = .error .state) ∧
        (check3 → check4 → ¬ check5 → judged = .error .guarded) ∧
        (check3 → check4 → check5 → ¬ check6 → judged = .error .offline) ∧
        (check3 → check4 → check5 → check6 → ¬ check7 → judged = .error .lineFull) ∧
        (check3 → check4 → check5 → check6 → check7 →
          ∃ c, judged = .ok c ∧ c.ref = ⟨line, node⟩ ∧ c.kind.code = k.toNat ∧
            (k = 0x11 → c.value = value ∧ c.ramp = ra.toNat) ∧ (k = 0x12 ∨ k = 0x13 → c.value = value)))))

/-- An admitted PASS hands its item to its line, and a value becomes the node's override, unrounded; STOP and QUERY
leave the override (R12). Stated where AP's inbox is empty and no URGENT item for the node and kind waits, so that the
event is this one item's alone. The node is composed, and it alone (R130). -/
def Obligations.AdmittedPassIsPlacedAndHeld : Prop :=
  ∀ (s : State) (tag : Byte) (payload : List Byte) (c : PassCommand),
    s.nextFrame = some { kind := .pass, tag := tag, payload := payload } → judgePass s payload = .ok c →
    s.Settled → s.ap.handed = [] → s.ap.freed = [] →
    let item : Item := { node := c.ref.addr, kind := c.kind, value := c.value, ramp := c.ramp, origin := .pass
                         link := none, passTag := some tag }
    (∀ it ∈ (s.line c.ref.line).urgent, it.rivals item = false) →
    (∀ e, s.entry c.ref = some e → (s.view e.room).isSome = true) →
    ∃ t, exec .pass s = .next t ∧ OnlyActuation (dropFrame s) t ∧
      t.line c.ref.line = ((s.line c.ref.line).offer item).1 ∧ (∀ l, l ≠ c.ref.line → t.line l = s.line l) ∧
      (∀ n, n ≠ c.ref → t.plan n = s.plan n) ∧
      (c.kind = .stop ∨ c.kind = .query → t.plan c.ref = s.plan c.ref) ∧
      (c.kind ≠ .stop → c.kind ≠ .query → ∀ e p, s.entry c.ref = some e → s.plan c.ref = some p →
        ∃ q, t.plan c.ref = some q ∧ q.override = some c.value ∧
          q.target = (compose t e.room e.role q).orElse fun _ => p.target)

/-! ### Chapter 2: node table and room lines -/

/-- LOAD NODE writes the entry and, for an actuator node, a fresh plan entry that is then composed (R18); DROP NODE empties
the place: no entry, no plan entry, no queued item (R19). -/
def Obligations.NodesAreLoadedAndDropped : Prop :=
  (∀ (s : State) (tag : Byte) (ps : List Byte) (x : NodeLoad), s.Takes 0x10 tag ps → nodeLoad ps = .ok x →
     (s.entry x.ref = none ∨ s.busyNode x.ref = false) → s.Settled →
     ∃ u, AnswersDone .loadNode s 0x10 tag [] u ∧ NodeWork x.ref (dropFrame s) u ∧
       u.entry x.ref = some { room := x.room, role := x.role, statusRef := x.statusRef, statusMask := x.statusMask
                              health := if (s.line x.ref.line).down then .offline else .online, missed := false } ∧
       (x.role.family = none → u.plan x.ref = none) ∧
       (x.role.family ≠ none → ∃ p, u.plan x.ref = some p ∧ p.lastSent = none ∧ p.confirmed = false ∧
         p.override = none ∧ p.travel = none ∧ p.stalled = false ∧ p.alarm = false ∧
         p.target = compose u x.room x.role p)) ∧
  (∀ (s : State) (tag : Byte) (ps : List Byte) (n : NodeRef) (e : NodeEntry), s.Takes 0x11 tag ps →
     nodeRefOf ps = .ok n → s.entry n = some e → s.busyNode n = false → s.Settled →
     ∃ u, AnswersDone .dropNode s 0x11 tag [] u ∧ NodeWork n (dropFrame s) u ∧ u.entry n = none ∧ u.plan n = none ∧
       ∀ it ∈ (u.line n.line).queued, it.node ≠ n.addr)

/-- SUSPEND, RESUME and SET TIMEOUT write one field of one line (R38, R39, R41). -/
def Obligations.LineControlSetsItsLine : Prop :=
  ∀ (s : State) (tag : Byte) (ps : List Byte) (l : LineId) (n : Byte), s.Takes 0x12 tag ps →
    (lineControlOf ps = .ok (l, .suspend, n) →
      ∃ u, AnswersDone .lineControlSuspend s 0x12 tag [] u ∧
        u = onLine l (fun x => { x with suspended := true }) (dropFrame s)) ∧
    (lineControlOf ps = .ok (l, .resume, n) →
      ∃ u, AnswersDone .lineControlResume s 0x12 tag [] u ∧
        u = onLine l (fun x => { x with suspended := false }) (dropFrame s)) ∧
    (lineControlOf ps = .ok (l, .setTimeout, n) →
      ∃ u, AnswersDone .lineControlSetTimeout s 0x12 tag [] u ∧
        u = onLine l (fun x => { x with timeoutSetting := n }) (dropFrame s) ∧
        (u.line l).timeoutMs = (if n = 0 then 512 else 2 * n.toNat))

/-- RESTART returns a line to a clean start and keeps its entries, ONLINE, and its timeout setting (R40, R136): nothing
that was queued or in flight is left. What stands in the queue afterwards is AP's fresh offers, one for every node whose
room is not OFF and that has a target, and the accepted count is their number: that they reach the line once its counts are 0
is log 12. AP judges the node of the item in flight before the health changes, so a node that is due then stands first in
its band; the others follow in node-table order (R136). -/
def Obligations.RestartReturnsTheLineToACleanStart : Prop :=
  ∀ (s : State) (tag : Byte) (ps : List Byte) (l : LineId) (n : Byte), s.Takes 0x12 tag ps →
    lineControlOf ps = .ok (l, .restart, n) → s.Settled →
    ∃ u, AnswersDone .lineControlRestart s 0x12 tag [] u ∧ { u with lc := s.lc, ap := s.ap } = dropFrame s ∧
      (u.line l).suspended = false ∧ (u.line l).down = false ∧ (u.line l).follow = none ∧ (u.line l).timeouts = 0 ∧
      (u.line l).inFlight = none ∧
      (u.line l).counts = ⟨BitVec.ofNat 32 (u.line l).queued.length, 0, 0, 0, 0, 0, 0, 0, 0⟩ ∧
      (u.line l).timeoutSetting = (s.line l).timeoutSetting ∧
      ((s.line l).inFlight ≠ none → (u.line l).echoTimer = none ∧ (u.line l).driving = false) ∧
      (∀ a, u.entry ⟨l, a⟩ = (s.entry ⟨l, a⟩).map fun e => { e with health := .online, missed := false }) ∧
      (∀ a p, s.entry ⟨l, a⟩ ≠ none → u.plan ⟨l, a⟩ = some p →
        p.confirmed = false ∧ p.stalled = false ∧ p.travel = none) ∧
      (∀ a p, s.entry ⟨l, a⟩ ≠ none → s.plan ⟨l, a⟩ = some p → (u.plan ⟨l, a⟩).map Plan.kept =
        some { p with confirmed := false, stalled := false, travel := none, deferred := false }) ∧
      (∀ it ∈ (u.line l).queued, ∃ e p v, s.entry ⟨l, it.node⟩ = some e ∧ s.plan ⟨l, it.node⟩ = some p ∧
        (s.room e.room).state ≠ .off ∧ p.target = some v ∧
        it = { node := it.node, kind := e.role.kind, value := v.value, ramp := if e.role.isLight then v.ramp else 0
               origin := if v.protect then .protect else .room, link := none, passTag := none }) ∧
      (∀ a e p, s.entry ⟨l, a⟩ = some e → s.plan ⟨l, a⟩ = some p → p.target ≠ none → (s.room e.room).state ≠ .off →
        ∃ it ∈ (u.line l).queued, it.node = a) ∧
      (let dueBefore : NodeAddr → Prop := fun a => ∃ it e p v, (s.line l).inFlight = some it ∧ it.node = a ∧
         s.entry ⟨l, a⟩ = some e ∧ s.plan ⟨l, a⟩ = some p ∧ p.target = some v ∧ (s.room e.room).state ≠ .off ∧
         e.health ≠ .offline ∧ p.stalled = false ∧
         ¬ (e.role.isBlind = true ∧ p.travel ≠ none ∧ p.lastSent = some v.value) ∧
         (p.lastSent ≠ some v.value ∨ p.confirmed = false)
       ∀ band ∈ [(u.line l).urgent, (u.line l).normal], band.Pairwise fun x y =>
         dueBefore x.node ∨ (¬ dueBefore y.node ∧ x.node < y.node)) ∧
      (∀ k, k ≠ l → (u.line k).frame = (s.line k).frame) ∧
      (∀ m, m.line ≠ l → (u.plan m).map Plan.kept = (s.plan m).map Plan.kept) ∧ u.ap.air = s.ap.air

/-- READ LINE COUNTERS (R43), with the line state as R34 defines it, and READ CLOCK (R94): what each refuses, and what it
answers, changing nothing. -/
def Obligations.LineCountersAndClockAreRead : Prop :=
  (∀ (s : State) (tag : Byte) (ps : List Byte), s.Takes 0x13 tag ps →
    (ps.length ≠ 1 → exec .readLineCounters s =
      .next (pushTx { kind := .reply, tag := tag, payload := [0x13, 1] } (dropFrame s))) ∧
    (∀ b : Byte, ps = [b] → 3 < b.toNat → exec .readLineCounters s =
      .next (pushTx { kind := .reply, tag := tag, payload := [0x13, 2] } (dropFrame s))) ∧
    (∀ (b : Byte) (l : LineId), ps = [b] → b.toNat = l.val →
      let x := s.line l
      let c := x.counts
      AnswersDone .readLineCounters s 0x13 tag
        ([(if x.down then 3 else if x.inFlight.isSome then 1 else if x.suspended then 2 else 0),
          byteOf x.queued.length, if x.inFlight.isSome then 1 else 0] ++
          bytes4 c.accepted ++ bytes4 c.delivered ++ bytes4 c.timedOut ++ bytes4 c.superseded ++ bytes4 c.flushed ++
          bytes4 c.lateEchoes ++ bytes4 c.validFrames ++ bytes4 c.invalidFrames ++ bytes4 c.timesDown)
        (dropFrame s))) ∧
  (∀ (s : State) (tag : Byte) (ps : List Byte), s.Takes 0x41 tag ps →
    (ps ≠ [] → exec .readClock s = .next (pushTx { kind := .reply, tag := tag, payload := [0x41, 1] } (dropFrame s))) ∧
    (ps = [] → s.tu.clock = none → AnswersDone .readClock s 0x41 tag [0, 0, 0, 0, 0] (dropFrame s)) ∧
    (∀ c, ps = [] → s.tu.clock = some c →
      AnswersDone .readClock s 0x41 tag (1 :: byteOf c.week :: natBytes2 c.minute ++ [byteOf c.second]) (dropFrame s)))

/-- Where an offered item goes (R23, R24, R36): the whole line afterwards, what left its queue, and the answer. -/
def Obligations.OfferedItemIsPlacedByItsRivals : Prop :=
  ∀ (x : Line) (it : Item),
    let c := x.counts
    let own := it.origin.band
    let mine := x.band own
    let theirs := x.band own.other
    (x.down = true → x.offer it = (x, [], .down)) ∧
    (x.down = false → (∃ r ∈ mine, it.rivals r = true) →
      x.offer it = ({ x.withBand own (mine.map fun r => if r.node = it.node ∧ r.kind = it.kind then it else r) with
        counts := { c with accepted := c.accepted + 1, superseded := c.superseded + 1 } }, [], .merged)) ∧
    (x.down = false → (∀ r ∈ mine, it.rivals r = false) → (∃ r ∈ theirs, it.rivals r = true) →
      x.offer it =
        ({ (x.withBand own.other (theirs.filter fun r => !it.rivals r)).withBand own (mine ++ [it]) with
          counts := { c with accepted := c.accepted + 1
                             superseded := c.superseded + BitVec.ofNat 32 (theirs.filter it.rivals).length } },
         theirs.filter it.rivals, .placed)) ∧
    (x.down = false → (∀ r ∈ x.queued, it.rivals r = false) → x.queued.length < 32 →
      x.offer it = ({ x.withBand own (mine ++ [it]) with counts := { c with accepted := c.accepted + 1 } }, [], .placed)) ∧
    (x.down = false → (∀ r ∈ x.queued, it.rivals r = false) → 32 ≤ x.queued.length →
      (own = .normal ∨ x.normal = [] → x.offer it = (x, [], .full)) ∧
      (own = .urgent → ∀ older newest, x.normal = older ++ [newest] →
        x.offer it = ({ x with urgent := x.urgent ++ [it], normal := older
                               counts := { c with accepted := c.accepted + 1, superseded := c.superseded + 1 } },
                      [newest], .placed)))

/-- ITEM TAKEN FOR SENDING and COMMAND FRAME SENT (R26, R27, R41): which item an IDLE line takes, and what becomes of
the line. A place has freed, so AP retries the line's deferred nodes in node-table order: it clears each one's deferred flag
and examines the node (R22, R134). A retry can displace items, whose nodes and freed places are then taken in a further round;
after three rounds nothing is left to take (log 9). Stated where AP's inbox is empty. -/
def Obligations.IdleLineSendsItsNextItem : Prop :=
  (∀ (l : LineId) (it : Item) (s : State), s.power = .ready → (s.line l).state = .idle →
    (s.line l).nextItem = some it → s.Settled →
    (∀ x rest, (s.line l).urgent = x :: rest → it = x) ∧
    (∀ m x, (s.line l).urgent = [] → (s.line l).follow = some m →
      (s.line l).normal.find? (fun y => y.link == some m) = some x → it = x) ∧
    ((s.line l).urgent = [] → (∀ m, (s.line l).follow = some m → ∀ y ∈ (s.line l).normal, y.link ≠ some m) →
      (s.line l).normal.head? = some it) ∧
    ∃ t, exec (.itemTakenForSending l) s = .next t ∧ { t with lc := s.lc, ap := s.ap } = s ∧
      (t.line l).state = .awaitEcho ∧
      (t.line l).frame = { (s.line l).frame with inFlight := some it, driving := true } ∧
      (∀ k, k ≠ l → (t.line k).frame = (s.line k).frame) ∧
      (∀ n, (t.plan n).map Plan.kept = (s.plan n).map Plan.kept) ∧ t.ap.air = s.ap.air ∧
      (s.ap.handed = [] → s.ap.freed = [] → (∀ a p, s.plan ⟨l, a⟩ = some p → p.deferred = false) →
        (t.line l).urgent = (s.line l).urgent.tail ∧
        (t.line l).normal = if (s.line l).urgent = [] then (s.line l).normal.erase it else (s.line l).normal) ∧
      (let left := onLine l (fun x => { x with
         urgent := x.urgent.tail, normal := if x.urgent = [] then x.normal.erase it else x.normal
         inFlight := some it, driving := true }) s
       let retry : LineId → State → NodeAddr → State := fun k u a =>
         if (u.plan ⟨k, a⟩).any Plan.deferred then
           examine none ⟨k, a⟩ (onPlan ⟨k, a⟩ (fun p => { p with deferred := false }) u)
         else u
       let retried : State → LineId → State := fun u k => (List.finRange 32).foldl (retry k) u
       let round : State → State := fun u =>
         let v := u.ap.handed.foldl (fun w n => examine none n w) { u with ap := { u.ap with handed := [] } }
         v.ap.freed.foldl retried { v with ap := { v.ap with freed := [] } }
       s.ap.handed = [] → s.ap.freed = [] → t = round (round (retried left l)) ∧
         ((retried left l).ap.handed = [] → (retried left l).ap.freed = [] → t = retried left l))) ∧
  (∀ (l : LineId) (s : State), s.power = .ready → (s.line l).inFlight ≠ none → (s.line l).driving = true →
    exec (.commandFrameSent l) s =
      .next (onLine l (fun x => { x with driving := false
                                         echoTimer := some (if x.timeoutSetting = 0 then 512
                                                            else 2 * x.timeoutSetting.toNat) }) s))

/-- REPORT (R20, R32, R37): the frame is counted, the consecutive timeouts are 0, a DOWN line is UP, and the sender is
ONLINE; no other node changes unless the line came UP, which writes LINE UP before CL takes the report; the timetable, the
rules, the trunk's receive buffer, the configurations and the settings are as they were. CL then takes the report (R50 to
R59): a sender without an entry is noted as a stranger, the actions of the rules the search found are handed on in their
order, each to the block and the place it names, and the report is mirrored last when it is to be. That each action's work is
finished before the next is log 33. -/
def Obligations.ReportIsCountedAndItsNodeHeard : Prop :=
  ∀ (l : LineId) (a : NodeAddr) (code : ReportCode) (v : Half) (s : State), s.hears = true → a ≠ 0 →
    ∃ t, exec (.report l a code v) s = .next t ∧
      (t.line l).counts.validFrames = (s.line l).counts.validFrames + 1 ∧ (t.line l).timeouts = 0 ∧
      (t.line l).down = false ∧ (t.line l).inFlight = (s.line l).inFlight ∧
      (t.line l).suspended = (s.line l).suspended ∧ (t.line l).follow = (s.line l).follow ∧
      t.entry ⟨l, a⟩ = (s.entry ⟨l, a⟩).map (fun e => { e with health := .online, missed := false }) ∧
      (∀ b, b ≠ a → t.entry ⟨l, b⟩ =
        if (s.line l).down then (s.entry ⟨l, b⟩).map fun e => { e with health := .suspect, missed := false }
        else s.entry ⟨l, b⟩) ∧
      (∀ k, k ≠ l → (t.line k).frame = (s.line k).frame) ∧ t.tu = s.tu ∧ t.cl.rules = s.cl.rules ∧
      t.ti.frame = s.ti.frame ∧ t.ap.scenes = s.ap.scenes ∧ t.ap.rounding = s.ap.rounding ∧
      t.ap.mirrorUnclassified = s.ap.mirrorUnclassified ∧ t.pu.pins = s.pu.pins ∧ t.nu.mask = s.nu.mask ∧
      (∀ r, (t.room r).cfg = (s.room r).cfg ∧ (t.room r).suite = (s.room r).suite ∧
        (t.notice r).frame = (s.notice r).frame) ∧
      (∀ i, (t.source i).cfg = (s.source i).cfg) ∧
      (let n : NodeRef := ⟨l, a⟩
       let rep : LineReport := ⟨n, code, v⟩
       let home := (s.entry n).map NodeEntry.room
       let found := search rep s.cl.rules.toList
       let noted := if home = none then noteStranger n (heardFrom n s) else heardFrom n s
       let done := found.foldl (fun u x => deliver rep home x u) noted
       let lineUp : WingReport := { kind := .lineUp l, stamp := s.tu.clock, overflow := false }
       let mirror : TxFrame :=
         { kind := .mirror, tag := 0
           payload := [byteOf l.val, byteOf a.val, 1, 3, byteOf (reportByte code)] ++ bytes2 v }
       t = endEvent (if mirrored found s.ap.mirrorUnclassified then offerTx mirror done else done) ∧
       (heardFrom n s).nu.wing = (if (s.line l).down = false then s.nu.wing
         else if s.nu.wing.length < 16 then s.nu.wing ++ [lineUp] else markNewest s.nu.wing) ∧
       ∀ (x : Rule) (u : State),
         (x.action = .ignore → deliver rep home x u = u) ∧
         (∀ act r, x.action = .room act (.room r) → deliver rep home x u = roomAction act n v r u) ∧
         (∀ act r, x.action = .room act .fromNode → home = some r → deliver rep home x u = roomAction act n v r u) ∧
         (∀ act, x.action = .room act .fromNode → home = none → deliver rep home x u = u) ∧
         (∀ opens g, x.action = .partition opens g → deliver rep home x u = partitionAction opens g u) ∧
         (∀ sets i, x.action = .fault sets i → deliver rep home x u = claimFault i sets u))

/-- An invalid frame is counted and has no other effect (R9): a frame that fails R9's test, and the frame of a node 0 or
of one of the part's own kinds among them (the operands of a REPORT, ARRIVED or ECHO that no valid frame carries count as
one: log 25). A late echo (R31) is counted, its node is ONLINE, and no item, value or comparison follows. -/
def Obligations.OtherLineFramesDeliverNothing : Prop :=
  (∀ (l : LineId) (s : State), s.hears = true →
     let counted : Answer :=
       .next (onLine l (fun x => { x with counts := { x.counts with invalidFrames := x.counts.invalidFrames + 1 } }) s)
     (∀ f, lineMessage f = none → exec (.invalidLineFrame l f) s = counted) ∧
     (∀ f node kind rest, f.bytes = node :: kind :: rest → node = 0 ∨ (kind ≠ 1 ∧ kind ≠ 2 ∧ kind ≠ 3) →
       exec (.invalidLineFrame l f) s = counted) ∧
     (∀ code v, exec (.report l 0 code v) s = counted) ∧ (∀ pos, exec (.arrived l 0 pos) s = counted) ∧
     (∀ a pos, 100 < pos.toNat → exec (.arrived l a pos) s = counted) ∧
     (∀ st cu, exec (.echo l 0 st cu) s = counted)) ∧
  (∀ (l : LineId) (a : NodeAddr) (status current : Half) (s : State), s.hears = true → a ≠ 0 →
     (s.line l).down = false → (∀ it, (s.line l).inFlight = some it → it.node ≠ a ∨ s.entry ⟨l, a⟩ = none) →
     ∃ t, exec (.echo l a status current) s = .next t ∧
       (t.line l).counts.lateEchoes = (s.line l).counts.lateEchoes + 1 ∧
       (t.line l).counts.validFrames = (s.line l).counts.validFrames + 1 ∧ (t.line l).timeouts = 0 ∧
       (t.line l).counts.delivered = (s.line l).counts.delivered ∧
       (t.line l).inFlight = (s.line l).inFlight ∧ (t.line l).echoTimer = (s.line l).echoTimer ∧
       (t.line l).follow = (s.line l).follow ∧
       t.entry ⟨l, a⟩ = (s.entry ⟨l, a⟩).map (fun e => { e with health := .online, missed := false }) ∧
       (∀ m, m ≠ ⟨l, a⟩ → t.entry m = s.entry m) ∧
       (∀ m, (t.plan m).map Plan.kept = (s.plan m).map Plan.kept) ∧
       t.re = s.re ∧ t.tu = s.tu ∧ t.cl = s.cl ∧ t.pu = s.pu)

/-- ARRIVED (R20): the frame is counted, the consecutive timeouts are 0, a DOWN line is UP, with LINE UP, and the sender is
ONLINE with miss count 0. From a stranger, or a node that is no BLIND, it is then discarded: what follows is the examination
of the nodes whose health changed (R32, R37, R136), which sends and defers and changes nothing else. From a BLIND node (R138):
confirmed or stalled against the last sent value, with BLIND STALL when it is judged stalled with the travel timer running. A
sender that was not ONLINE is examined as its health changes (R136); with the travel timer stopped the node is examined once its
plan entry is judged, and with the timer running it is not. Where nothing waits in AP's inbox, what these examinations offer
is all that the line's queue gains. -/
def Obligations.ArrivedJudgesTheBlind : Prop :=
  (∀ (l : LineId) (a : NodeAddr) (pos : Byte) (s : State), s.hears = true → a ≠ 0 → pos.toNat ≤ 100 →
    ∃ t, exec (.arrived l a pos) s = .next t ∧
      { (t.line l).frame with nodes := (s.line l).nodes } = { (s.line l).frame with
        down := false, timeouts := 0
        counts := { (s.line l).frame.counts with validFrames := (s.line l).counts.validFrames + 1 } } ∧
      t.entry ⟨l, a⟩ = (s.entry ⟨l, a⟩).map (fun e => { e with health := .online, missed := false }) ∧
      (∀ b, b ≠ a → t.entry ⟨l, b⟩ =
        if (s.line l).down then (s.entry ⟨l, b⟩).map fun e => { e with health := .suspect, missed := false }
        else s.entry ⟨l, b⟩) ∧
      (∀ k, k ≠ l → (t.line k).frame = (s.line k).frame) ∧
      t.nu.wing = (if (s.line l).down = false then s.nu.wing
        else if s.nu.wing.length < 16 then
          s.nu.wing ++ [{ kind := .lineUp l, stamp := s.tu.clock, overflow := false }]
        else markNewest s.nu.wing) ∧
      t.re = s.re ∧ t.tu = s.tu ∧ t.cl = s.cl ∧ t.pu = s.pu ∧ t.ti.frame = s.ti.frame ∧
      ((∀ e, s.entry ⟨l, a⟩ = some e → e.role.isBlind = false) →
        (∀ m, (t.plan m).map Plan.kept = (s.plan m).map Plan.kept) ∧
        t.ap.air = s.ap.air ∧ (s.Settled → t.ti = s.ti) ∧
        t.nu.rooms = s.nu.rooms ∧ t.nu.pendingList = s.nu.pendingList)) ∧
  (∀ (l : LineId) (a : NodeAddr) (pos : Byte) (s : State) (e : NodeEntry) (p : Plan), s.hears = true → a ≠ 0 →
    pos.toNat ≤ 100 → s.entry ⟨l, a⟩ = some e → e.role.isBlind = true → s.plan ⟨l, a⟩ = some p →
    let near : Prop := ∃ v, p.lastSent = some v ∧ pos.toNat ≤ v + 2 ∧ v ≤ pos.toNat + 2
    ∃ t q, exec (.arrived l a pos) s = .next t ∧ t.plan ⟨l, a⟩ = some q ∧ q.travel = none ∧
      q.lastSent = p.lastSent ∧ q.target = p.target ∧ q.override = p.override ∧ q.alarm = p.alarm ∧
      (q.confirmed = true ↔ near) ∧
      (p.travel ≠ none → near → q.stalled = p.stalled) ∧
      (p.travel ≠ none → ¬ near → q.stalled = true ∧
        ((s.room e.room).state ≠ .off → CondSet.holds (t.notice e.room).conds .blindStall = true)) ∧
      (p.travel = none → q.stalled = false) ∧
      t.re = s.re ∧ t.tu = s.tu ∧ t.cl = s.cl ∧ t.pu = s.pu ∧
      (∀ m, m ≠ ⟨l, a⟩ → (t.plan m).map Plan.kept = (s.plan m).map Plan.kept) ∧
      ((s.line l).down = false →
        let close : Bool := p.lastSent.any fun v => decide (pos.toNat ≤ v + 2 ∧ v ≤ pos.toNat + 2)
        let heard : State := onEntry ⟨l, a⟩ (fun x => { x with health := .online, missed := false })
          (onLine l (fun x => { x with
            timeouts := 0, counts := { x.counts with validFrames := x.counts.validFrames + 1 } }) s)
        let met := if e.health = .online then heard else examine none ⟨l, a⟩ heard
        let judged := onPlan ⟨l, a⟩ (fun x => { x with
          travel := none, confirmed := close, stalled := if p.travel = none then false else x.stalled || !close }) met
        let u := if p.travel = none then examine none ⟨l, a⟩ judged else judged
        InboxTaken u t ∧ (s.Quiet l → (s.line l).Spares p.target → t.line l = u.line l)))

/-- The echo of the item in flight (R28, R29, R135, R137, R140): the transaction ends delivered, and the plan entry takes
the value. AP then examines the node: where nothing waits in AP's inbox, what that offers is all that the line's queue gains
(R133, R135). That the MIRROR of a PASS item stands before the event's NOTICE frames is the model's choice (log 21). -/
def Obligations.EchoDeliversTheItemInFlight : Prop :=
  ∀ (l : LineId) (a : NodeAddr) (status current : Half) (s : State) (it : Item) (e : NodeEntry) (p : Plan),
    s.hears = true → a ≠ 0 → (s.line l).down = false → (s.line l).inFlight = some it → it.node = a →
    s.entry ⟨l, a⟩ = some e → s.plan ⟨l, a⟩ = some p →
    let mismatch : Prop := (status ^^^ e.statusRef) &&& e.statusMask ≠ 0
    let near : Nat → Prop := fun v => current.toNat ≤ v + 2 ∧ v ≤ current.toNat + 2
    ∃ t q, exec (.echo l a status current) s = .next t ∧
      (t.line l).inFlight = none ∧ (t.line l).echoTimer = none ∧ (t.line l).follow = it.link ∧
      (t.line l).timeouts = 0 ∧ (t.line l).counts.delivered = (s.line l).counts.delivered + 1 ∧
      (t.line l).counts.validFrames = (s.line l).counts.validFrames + 1 ∧
      (t.line l).state ≠ .awaitEcho ∧
      t.entry ⟨l, a⟩ = some { e with health := .online, missed := false } ∧
      t.plan ⟨l, a⟩ = some q ∧ q.override = p.override ∧ (q.alarm = true ↔ mismatch) ∧
      (mismatch → p.alarm = false → (s.room e.room).state ≠ .off →
        CondSet.holds (t.notice e.room).conds .driverAlarm = true) ∧
      (it.kind = .setLevel ∨ it.kind = .setFlow →
        q.lastSent = some it.value ∧ q.confirmed = true ∧ q.travel = p.travel ∧ q.target = p.target) ∧
      (∀ tt, e.role = .blind tt → it.kind = .setPosition →
        q.lastSent = some it.value ∧ q.stalled = false ∧ q.target = p.target ∧
        (near it.value → q.confirmed = true ∧ q.travel = none) ∧
        (¬ near it.value → q.confirmed = false ∧ q.travel = some ((tt + 5) * 1000))) ∧
      (e.role.isBlind = true → it.kind = .stop →
        q.lastSent = none ∧ q.confirmed = false ∧ q.travel = none ∧ q.target = none) ∧
      (e.role.isBlind = true → it.kind = .query → p.travel ≠ none →
        q.travel = none ∧ q.lastSent = p.lastSent ∧ (q.confirmed = true ↔ ∃ v, p.lastSent = some v ∧ near v)) ∧
      (it.kind = .query → e.role.isBlind = false ∨ p.travel = none → q.kept = { p.kept with alarm := q.alarm }) ∧
      (e.role.isBlind = false → it.kind = .stop ∨ it.kind = .query →
        q.lastSent = p.lastSent ∧ q.confirmed = p.confirmed ∧ q.target = p.target) ∧
      (e.role.isBlind = false ∨ it.kind ≠ .stop → q.target = p.target) ∧
      (e.role.isBlind = false ∨ it.kind ≠ .setPosition → q.stalled = p.stalled) ∧
      (∀ tag, it.origin = .pass → it.passTag = some tag → s.ti.tx.length ≤ 11 →
        ∃ later, t.ti.tx = s.ti.tx ++
          { kind := .mirror, tag := tag
            payload := [byteOf l.val, byteOf a.val, 3, 4] ++ bytes2 status ++ bytes2 current } :: later) ∧
      t.re = s.re ∧ t.tu = s.tu ∧ t.cl = s.cl ∧ t.pu = s.pu ∧
      (∀ m, m ≠ ⟨l, a⟩ → t.entry m = s.entry m ∧ (t.plan m).map Plan.kept = (s.plan m).map Plan.kept) ∧
      (let delivered := onPlan ⟨l, a⟩ (fun x => { q with deferred := x.deferred })
         (onEntry ⟨l, a⟩ (fun x => { x with health := .online, missed := false })
           (onLine l (fun x => { x with
             inFlight := none, echoTimer := none, driving := false, follow := it.link, timeouts := 0
             counts := { x.counts with delivered := x.counts.delivered + 1
                                       validFrames := x.counts.validFrames + 1 } }) s))
       let u := examine none ⟨l, a⟩ delivered
       InboxTaken u t ∧ (s.Quiet l → (s.line l).Spares q.target → t.line l = u.line l))

/-- ECHO TIMER EXPIRY short of the eighth timeout in a row (R30, R32, R33, R136). AP then examines the node: where nothing
waits in AP's inbox, what that offers is all that the line's queue gains (R133, R135). A node that becomes OFFLINE has no queued
item left, its items counted flushed (R25), and its travel timer is stopped and its deferred flag clear; it is offered nothing. -/
def Obligations.TimeoutMarksTheNode : Prop :=
  ∀ (l : LineId) (s : State) (it : Item), s.power = .ready → (s.line l).echoTimer = some 0 →
    (s.line l).inFlight = some it → (s.line l).timeouts + 1 < 8 →
    ∃ t, exec (.echoTimerExpiry l) s = .next t ∧
      (t.line l).inFlight = none ∧ (t.line l).echoTimer = none ∧ (t.line l).follow = it.link ∧
      (t.line l).timeouts = (s.line l).timeouts + 1 ∧ (t.line l).down = (s.line l).down ∧
      (t.line l).counts.timedOut = (s.line l).counts.timedOut + 1 ∧
      (∀ e, s.entry ⟨l, it.node⟩ = some e →
        (e.health = .online ∨ (e.health = .suspect ∧ e.missed = false) →
          t.entry ⟨l, it.node⟩ = some { e with health := .suspect, missed := true }) ∧
        (e.health = .suspect → e.missed = true →
          t.entry ⟨l, it.node⟩ = some { e with health := .offline, missed := false } ∧
          (∀ x ∈ (t.line l).queued, x.node ≠ it.node) ∧
          (∀ p, s.plan ⟨l, it.node⟩ = some p →
            t.plan ⟨l, it.node⟩ = some { p with confirmed := false, deferred := false, travel := none }) ∧
          (s.Quiet l →
            (t.line l).urgent = (s.line l).urgent.filter (fun x => x.node ≠ it.node) ∧
            (t.line l).normal = (s.line l).normal.filter (fun x => x.node ≠ it.node) ∧
            (t.line l).counts.flushed = (s.line l).counts.flushed +
              BitVec.ofNat 32 ((s.line l).queued.filter fun x => x.node = it.node).length) ∧
          ((s.room e.room).state ≠ .off → CondSet.holds (t.notice e.room).conds .nodeLost = true)) ∧
        (e.health = .offline → t.entry ⟨l, it.node⟩ = some e ∧
          (s.Quiet l → (t.line l).urgent = (s.line l).urgent ∧ (t.line l).normal = (s.line l).normal)) ∧
        (∀ p, s.plan ⟨l, it.node⟩ = some p → e.health = .online ∨ (e.health = .suspect ∧ e.missed = false) →
          let missed := onPlan ⟨l, it.node⟩ (fun x => { x with confirmed := false })
            (onEntry ⟨l, it.node⟩ (fun x => { x with health := .suspect, missed := true })
              (onLine l (fun x => { x with
                inFlight := none, echoTimer := none, driving := false, follow := it.link, timeouts := x.timeouts + 1
                counts := { x.counts with timedOut := x.counts.timedOut + 1 } }) s))
          let u := examine none ⟨l, it.node⟩ missed
          InboxTaken u t ∧ (s.Quiet l → (s.line l).Spares p.target → t.line l = u.line l) ∧
          (t.plan ⟨l, it.node⟩).map Plan.kept = some { p.kept with confirmed := false })) ∧
      (∀ m, m ≠ ⟨l, it.node⟩ → t.entry m = s.entry m ∧ (t.plan m).map Plan.kept = (s.plan m).map Plan.kept) ∧
      (∀ p, s.plan ⟨l, it.node⟩ = some p →
        ∃ q, t.plan ⟨l, it.node⟩ = some q ∧ q.confirmed = false ∧ q.lastSent = p.lastSent ∧ q.target = p.target) ∧
      t.re = s.re ∧ t.tu = s.tu ∧ t.cl = s.cl ∧ t.pu = s.pu ∧ t.nu.wing = s.nu.wing

/-- ECHO TIMER EXPIRY that makes eight timeouts in a row (R35, R32): the line goes DOWN. -/
def Obligations.EighthTimeoutTakesTheLineDown : Prop :=
  ∀ (l : LineId) (s : State) (it : Item), s.power = .ready → (s.line l).echoTimer = some 0 →
    (s.line l).inFlight = some it → 8 ≤ (s.line l).timeouts + 1 →
    ∃ t, exec (.echoTimerExpiry l) s = .next t ∧ (t.line l).state = .down ∧ (t.line l).queued = [] ∧
      (t.line l).inFlight = none ∧ (t.line l).follow = none ∧ (t.line l).timeouts = 0 ∧
      (t.line l).suspended = (s.line l).suspended ∧
      (t.line l).counts.timedOut = (s.line l).counts.timedOut + 1 ∧
      (t.line l).counts.timesDown = (s.line l).counts.timesDown + 1 ∧
      (∀ a e, s.entry ⟨l, a⟩ = some e →
        (∃ f, t.entry ⟨l, a⟩ = some f ∧ f.health = .offline ∧ f.room = e.room) ∧
        (e.health ≠ .offline → (s.room e.room).state ≠ .off →
          CondSet.holds (t.notice e.room).conds .nodeLost = true) ∧
        (∀ p, s.plan ⟨l, a⟩ = some p → e.health ≠ .offline →
          t.plan ⟨l, a⟩ = some { p with confirmed := false, deferred := false, travel := none })) ∧
      (∀ m, m.line ≠ l → t.entry m = s.entry m ∧ (t.plan m).map Plan.kept = (s.plan m).map Plan.kept) ∧
      t.nu.wing = (if s.nu.wing.length < 16 then
        s.nu.wing ++ [{ kind := .lineDown l, stamp := s.tu.clock, overflow := false }] else markNewest s.nu.wing) ∧
      t.re = s.re ∧ t.tu = s.tu ∧ t.cl = s.cl ∧ t.pu = s.pu

/-! ### Chapter 3: report classification -/

/-- LOAD RULE writes one place of the rule table and nothing else (R46). LOAD SCENE and LOAD WING (R120, R121): the table
and the settings, then every room is recomposed, and nothing else changes, no node override among it (R130); the drawing of the
rooms' order is log 4's. -/
def Obligations.TablesAndSettingsAreWritten : Prop :=
  (∀ (s : State) (tag : Byte) (ps : List Byte) (i : Fin 128) (x : Rule), s.Takes 0x20 tag ps →
     ruleLoad ps = .ok (i, x) →
     AnswersDone .loadRule s 0x20 tag []
       { dropFrame s with cl := { s.cl with rules := put s.cl.rules i (some x) } }) ∧
  ((∀ (s : State) (tag : Byte) (ps : List Byte) (n : SceneNum) (x : Scene), s.Takes 0x50 tag ps →
     sceneOf ps = .ok (n, x) → s.Settled →
     ∃ u, AnswersDone .loadScene s 0x50 tag [] u ∧
       OnlyActuation { dropFrame s with ap := { s.ap with scenes := put s.ap.scenes n (some x) }
                                        choices := s.choices + 1 } u ∧
       KeepsOverrides s u ∧ ∀ r, Recomposed s u r) ∧
   (∀ (s : State) (tag : Byte) (ps : List Byte) (rounding : Rounding) (mirror : Bool), s.Takes 0x51 tag ps →
     wingOf ps = .ok (rounding, mirror) → s.Settled →
     let v : State := { dropFrame s with ap := { s.ap with rounding := rounding, mirrorUnclassified := mirror } }
     (rounding = s.ap.rounding → AnswersDone .loadWing s 0x51 tag [] v) ∧
     (rounding ≠ s.ap.rounding →
       ∃ u, AnswersDone .loadWing s 0x51 tag [] u ∧ OnlyActuation { v with choices := s.choices + 1 } u ∧
         KeepsOverrides s u ∧ ∀ r, Recomposed s u r)))

/-- DROP RULE: its three refusals, and the place emptied with everything else as it was (R47). -/
def Obligations.DropRuleEmptiesOnePlace : Prop :=
  ∀ (s : State) (tag : Byte) (ps : List Byte), s.Takes 0x21 tag ps →
    (ps.length ≠ 1 → exec .dropRule s =
      .next (pushTx { kind := .reply, tag := tag, payload := [0x21, 1] } (dropFrame s))) ∧
    (∀ b : Byte, ps = [b] → 127 < b.toNat → exec .dropRule s =
      .next (pushTx { kind := .reply, tag := tag, payload := [0x21, 2] } (dropFrame s))) ∧
    (∀ (b : Byte) (i : Fin 128), ps = [b] → b.toNat = i.val → look s.cl.rules i = none → exec .dropRule s =
      .next (pushTx { kind := .reply, tag := tag, payload := [0x21, 3] } (dropFrame s))) ∧
    (∀ (b : Byte) (i : Fin 128) (x : Rule), ps = [b] → b.toNat = i.val → look s.cl.rules i = some x →
      AnswersDone .dropRule s 0x21 tag []
        { dropFrame s with cl := { s.cl with rules := put s.cl.rules i none } })

/-- When a rule matches a report (R49), its examples among the cases. -/
def Obligations.RuleHitsByItsFourTests : Prop :=
  (∀ (x : Rule) (rep : LineReport),
    let anyBitLeft : Prop := ∃ i, i < 16 ∧ x.mask.getLsbD i = true ∧ rep.value.getLsbD i ≠ x.reference.getLsbD i
    (x.hits rep = true ↔
      (x.line = none ∨ x.line = some rep.ref.line) ∧ (x.node = none ∨ x.node = some rep.ref.addr) ∧
        (x.code = none ∨ x.code = some rep.code) ∧ (x.whenDifferent = true ↔ anyBitLeft)) ∧
    (x.mask = 0 → (x.valueTest rep.value = true ↔ x.whenDifferent = false)) ∧
    (x.mask = 0xFFFF → x.whenDifferent = false → (x.valueTest rep.value = true ↔ rep.value = x.reference)) ∧
    (x.mask = 0xFF80 → x.reference = 0 → x.whenDifferent = true →
      (x.valueTest rep.value = true ↔ 128 ≤ rep.value.toNat))) ∧
  (∀ (rep : LineReport) (rest : List (Option Rule)), search rep (none :: rest) = search rep rest)

/-- The search (R50): the hits in ascending index, up to and with the first whose continue flag is clear; the report is
mirrored by its hits, or by the wing setting when there are none (R57, R58). -/
def Obligations.SearchEndsAtTheFirstFinalHit : Prop :=
  ∀ (rep : LineReport) (table : List (Option Rule)) (unclassified : Bool),
    let hits := (table.filterMap id).filter fun x => x.hits rep
    let found := search rep table
    found <+: hits ∧ (∀ x ∈ found.dropLast, x.goesOn = true) ∧
      (found = hits ∨ ∃ x, found.getLast? = some x ∧ x.goesOn = false) ∧
      (found = [] ↔ hits = []) ∧
      (found = [] → mirrored found unclassified = unclassified) ∧
      (found ≠ [] → (mirrored found unclassified = true ↔ ∃ x ∈ found, x.mirror = true))

/-! ### Chapters 4 and 10: rooms -/

/-- LOAD ROOM (R86, R87, R173). A room that was OFF comes into service with the phase and cursor of catch-up, no
presence, and STATE CHANGED; a loaded room keeps everything but its configuration and the above-capacity flag. The room is
recomposed (R132), and with the lead of a joined suite every member (R169; log 19). Node overrides stay, but for those of an OFF
room's nodes when the room comes into service VACANT: that is an entry to VACANT (R86), which clears them (R82). -/
def Obligations.LoadRoomConfiguresTheRoom : Prop :=
  ∀ (s : State) (tag : Byte) (ps : List Byte) (x : RoomLoad), s.Takes 0x30 tag ps → roomLoad ps = .ok x →
    let found := catchUp s.tu.clock (s.select x.room)
    ∃ u, AnswersDone .loadRoom s 0x30 tag [] u ∧
      (u.notice x.room).notify = x.notify ∧ (u.notice x.room).cls = x.cls ∧ (u.notice x.room).tag = x.tag ∧
      (s.room x.room = Room.off →
        u.room x.room = { Room.off with cfg := x.cfg, state := .run found.2.1.place, phase := found.2.1
                                        cursorKind := found.2.2.map Booking.kind
                                        bookingScene := found.2.2.map Booking.scene } ∧
        (u.time x.room).cursor = found.1 ∧
        CondSet.holds (u.notice x.room).conds .stateChanged = true) ∧
      ((s.room x.room).state ≠ .off →
        u.room x.room = { s.room x.room with cfg := x.cfg, aboveCapacity := decide (x.cfg.capacity < (s.room x.room).head) } ∧
        u.tu = s.tu ∧
        (x.cfg.capacity < (s.room x.room).head → (s.room x.room).aboveCapacity = false →
          CondSet.holds (u.notice x.room).conds .overcrowd = true) ∧
        ((s.room x.room).head ≤ x.cfg.capacity →
          (u.notice x.room).conds = (s.notice x.room).conds ∧ (u.notice x.room).pending = (s.notice x.room).pending)) ∧
      ((s.room x.room).state = .off → Recomposed (onAir x.room (fun _ => RoomAir.initial) s) u x.room) ∧
      ((s.room x.room).state ≠ .off → Recomposed s u x.room ∧
        ∀ g y, (s.room x.room).state = .joined → (s.room x.room).suite = some g → s.suite g = some y →
          y.members.head? = some x.room → ∀ q ∈ y.members, Recomposed s u q) ∧
      ((s.room x.room).state = .off → (u.room x.room).state = .run .vacant → u.NoOverrides x.room) ∧
      ((s.room x.room).state ≠ .off ∨ (u.room x.room).state ≠ .run .vacant → KeepsOverrides s u) ∧
      (∀ n, (∀ e, s.entry n = some e → e.room ≠ x.room) →
        (u.plan n).map Plan.override = (s.plan n).map Plan.override) ∧
      KeepsPlansBut (fun q => q = x.room ∨ ∃ g y, (s.room x.room).suite = some g ∧ s.suite g = some y ∧
        y.members.head? = some x.room ∧ q ∈ y.members) s u ∧
      (∀ q, q ≠ x.room → u.room q = s.room q ∧ u.time q = s.time q ∧ u.notice q = s.notice q) ∧
      u.re.suites = s.re.suites ∧ u.pu = s.pu ∧ u.cl = s.cl ∧ u.tu.store = s.tu.store ∧ u.nu.wing = s.nu.wing ∧
      (∀ l, (u.line l).frame = (s.line l).frame) ∧ (∀ n, (u.plan n).map Plan.frame = (s.plan n).map Plan.frame)

/-- DISABLE ROOM takes a room to OFF in every block (R89, R126, R173). -/
def Obligations.DisableRoomReturnsTheRoomToOff : Prop :=
  ∀ (s : State) (tag : Byte) (ps : List Byte) (r : RoomId), s.Takes 0x31 tag ps → oneByte 48 ps = .ok r →
    (s.room r).state ≠ .off → (s.room r).suite = none → s.Settled →
    ∃ u, AnswersDone .disableRoom s 0x31 tag [] u ∧ u.room r = Room.off ∧ u.time r = RoomTime.empty ∧
      u.air r = RoomAir.initial ∧ u.notice r = RoomNotice.empty ∧ u.nu.pendingList = s.nu.pendingList.filter (· != r) ∧
      (∀ n e, s.entry n = some e → e.room = r →
        u.plan n = e.role.freshPlan ∧ ∀ it ∈ (u.line n.line).queued, it.node ≠ n.addr) ∧
      (∀ q, q ≠ r → u.room q = s.room q ∧ u.time q = s.time q ∧ u.air q = s.air q ∧ u.notice q = s.notice q) ∧
      (∀ n, (∀ e, s.entry n = some e → e.room ≠ r) → (u.plan n).map Plan.kept = (s.plan n).map Plan.kept) ∧
      (∀ l, (u.line l).frame = (s.line l).frame) ∧ u.tu.store = s.tu.store ∧ u.re.suites = s.re.suites ∧
      u.pu = s.pu ∧ u.cl = s.cl ∧ u.ti = (dropFrame s).ti ∧ u.nu.wing = s.nu.wing

/-- RESTORE ROOM puts a context back into a VACANT room (R193, R194): the record, the conditions, the cursor and the node
overrides, and the room is recomposed. No condition is raised. The cursor's marks are armed from the clock: each that is later
than the current minute, CONFIRM at its own minute (R109); in the following week every mark is later (log 30). Standby duty
runs on, stops or begins as the restored state and phase say (R194, step 2). -/
def Obligations.RestoreRoomPutsTheContextBack : Prop :=
  ∀ (s : State) (tag : Byte) (ps : List Byte) (r : RoomId) (c : Context), s.Takes 0x33 tag ps →
    restoreOf ps = .ok (r, c) → (s.room r).state = .run .vacant → s.contextOk r c = true →
    let x := s.room r
    let exam : Prop := c.phase = .on ∧ (s.contextBooking r c).map Booking.kind = some .exam
    ∃ u, AnswersDone .restoreRoom s 0x33 tag [] u ∧
      (u.room r).state = c.state ∧ (u.room r).phase = c.phase ∧
      (u.room r).cursorKind = (s.contextBooking r c).map Booking.kind ∧
      (u.room r).bookingScene = (s.contextBooking r c).map Booking.scene ∧ (u.room r).seen = c.seen ∧
      (u.room r).head = c.head ∧ (u.room r).boost = c.boost ∧ (u.room r).overrideScene = c.overrideScene ∧
      (u.room r).aboveCapacity = decide (x.cfg.capacity < c.head) ∧
      (u.room r).motionHold = c.motionHold.map (· * 1000) ∧ (u.room r).linger = c.linger.map (· * 1000) ∧
      (∀ k, c.stillness = some k → (u.room r).stillness = some (k * 1000)) ∧
      (c.stillness = none → 0 < c.head → c.motionHold = none → ¬ exam →
        (u.room r).stillness = some (x.cfg.countTrust * 60000)) ∧
      (c.stillness = none → c.head = 0 ∨ c.motionHold ≠ none ∨ exam → (u.room r).stillness = none) ∧
      (u.room r).cfg = x.cfg ∧ (u.room r).suite = x.suite ∧ (u.room r).co2 = x.co2 ∧ (u.room r).windows = x.windows ∧
      (u.notice r).conds = c.conds ∧ (u.notice r).pending = (s.notice r).pending ∧
      u.nu.pendingList = s.nu.pendingList ∧
      (u.time r).released = none ∧ (u.time r).cursor.map (fun k => k.occ.id) = c.cursor ∧
      (∀ b k, s.contextBooking r c = some b → s.tu.clock = some k →
        let following := if k.week = 52 then 1 else k.week + 1
        let week := if b.week = none ∨ b.week = some k.week then k.week else following
        let mark : Nat → Mark := fun minute => ⟨minute, decide (week = k.week → k.minute < minute)⟩
        (u.time r).cursor = some
          { occ := ⟨b.id, week⟩
            marks := { prep := mark (b.start - b.lead), start := mark b.start
                       confirm := if 0 < b.confirm then some (mark (b.start + b.confirm)) else none
                       finish := mark b.finish, release := mark (b.finish + b.lag) } }) ∧
      DutyFollows s u r ∧
      (∀ n v p, (n, v) ∈ c.overrides → s.plan n = some p → ∃ q, u.plan n = some q ∧ q.override = some v) ∧
      (∀ n e q, s.entry n = some e → e.room = r → e.role.family ≠ none → n ∉ c.overrides.map Prod.fst →
        u.plan n = some q → q.override = none) ∧ Recomposed s u r ∧ KeepsPlansBut (fun q => q = r) s u ∧
      (∀ q, q ≠ r → u.room q = s.room q ∧ u.time q = s.time q ∧ u.notice q = s.notice q) ∧
      u.tu.store = s.tu.store ∧ u.pu = s.pu ∧ u.cl = s.cl ∧ u.re.suites = s.re.suites ∧
      (∀ l, (u.line l).frame = (s.line l).frame)

/-- SAVE ROOM and READ TRUNK COUNTERS answer and change nothing (R188, R189, R7); a saved timer is its remaining time in
whole seconds, rounded up, at least 1 (R190). -/
def Obligations.SaveRoomAndTrunkCountersAreRead : Prop :=
  (∀ (s : State) (tag : Byte), s.Takes 0x02 tag [] →
    let c := s.ti.counts
    AnswersDone .readTrunkCounters s 0x02 tag
      (bytes4 c.received ++ bytes4 c.checkErrors ++ bytes4 c.foreign ++ bytes4 c.malformed ++ bytes4 c.overruns ++
        bytes4 c.sent ++ bytes4 c.noticesDropped ++ bytes4 c.mirrorsDropped) (dropFrame s)) ∧
  (∀ (s : State) (tag : Byte) (ps : List Byte) (r : RoomId), s.Takes 0x32 tag ps → oneByte 48 ps = .ok r →
    (s.room r).state ≠ .off → (s.room r).state ≠ .joined →
    let x := s.room r
    ∃ c : Context, AnswersDone .saveRoom s 0x32 tag c.bytes (dropFrame s) ∧
      c.state = x.state ∧ c.phase = x.phase ∧ c.cursor = (s.time r).cursor.map (fun k => k.occ.id) ∧
      c.seen = x.seen ∧ c.head = x.head ∧ c.boost = x.boost ∧ c.overrideScene = x.overrideScene ∧
      c.conds = (s.notice r).conds ∧ c.overrides = (s.overridesOf r).take 16 ∧
      (∀ t k, (t, k) ∈ [(x.motionHold, c.motionHold), (x.linger, c.linger), (x.stillness, c.stillness)] →
        (t = none → k = none) ∧
        (∀ ms, t = some ms → ∃ n, k = some n ∧ 1 ≤ n ∧ ms ≤ n * 1000 ∧ (1 < n → (n - 1) * 1000 < ms))))

/-- MOTION HOLD EXPIRY and STILLNESS EXPIRY in a room with its own machine (R66, R70, R71, R78). In a JOINED room they change
the member's own evidence, and its suite goes from OCCUPIED to LINGER when they take the suite's presence away (R166, R168).
SUITE LINGER EXPIRY: the suite leaves LINGER for the state its effective phase gives (R168). The rooms concerned are recomposed (R132). Where a
room action and an expiry reach one timer together (R84), the one taken first decides: behind a MOTION, a rise of presence or a
count that restarts or stops its timer an expiry changes nothing, and behind an expiry the action finds what that left. -/
def Obligations.EvidenceAndSuiteTimersExpire : Prop :=
  ((∀ (r : RoomId) (s : State) (o : OccState), s.power = .ready → (s.room r).state = .run o →
     (s.room r).motionHold = some 0 →
     ∃ t, exec (.motionHoldExpiry r) s = .next t ∧ RoomWork s t ∧ (∀ q, q ≠ r → t.room q = s.room q) ∧
       t.re.suites = s.re.suites ∧ KeepsOverrides s t ∧ KeepsPlansBut (fun q => q = r) s t ∧
       (0 < (s.room r).head → t.room r = { s.room r with
         motionHold := none
         stillness := if (s.room r).suspended = true ∨ (s.room r).stillness ≠ none then (s.room r).stillness
                      else some ((s.room r).cfg.countTrust * 60000) }) ∧
       ((s.room r).head = 0 → o = .occupied →
         t.room r = { s.room r with motionHold := none, state := .run .linger
                                    linger := some ((s.room r).cfg.lingerTime * 1000) } ∧
         CondSet.holds (t.notice r).conds .stateChanged = true ∧ Recomposed s t r)) ∧
   (∀ (r : RoomId) (s : State), s.power = .ready → (s.room r).state = .run .occupied →
     (s.room r).stillness = some 0 → (s.room r).motionHold = none → 0 < (s.room r).head →
     ∃ t, exec (.stillnessExpiry r) s = .next t ∧ RoomWork s t ∧ (∀ q, q ≠ r → t.room q = s.room q) ∧
       t.re.suites = s.re.suites ∧ KeepsOverrides s t ∧ KeepsPlansBut (fun q => q = r) s t ∧
       t.room r = { s.room r with head := 0, stillness := none, aboveCapacity := false, state := .run .linger
                                  linger := some ((s.room r).cfg.lingerTime * 1000) } ∧
       CondSet.holds (t.notice r).conds .countDrift = true ∧ CondSet.holds (t.notice r).conds .stateChanged = true ∧
       Recomposed s t r) ∧
   (∀ (r : RoomId) (g : SuiteId) (x : Suite) (o : OccState) (s : State), s.power = .ready → (s.room r).state = .joined →
     (s.room r).suite = some g → s.suite g = some x → x.occ = some o →
     let y := s.room r
     let after : State → OccState := fun t =>
       if o = .occupied ∧ s.suitePresence g = true ∧ t.suitePresence g = false then .linger else o
     (y.motionHold = some 0 →
       ∃ t, exec (.motionHoldExpiry r) s = .next t ∧ RoomWork s t ∧ (∀ q, q ≠ r → t.room q = s.room q) ∧
         KeepsOverrides s t ∧ KeepsPlansBut (fun q => q = r ∨ q ∈ x.members) s t ∧
         t.room r = { y with
           motionHold := none
           stillness := if 0 < y.head ∧ y.suspended = false ∧ y.stillness = none then some (y.cfg.countTrust * 60000)
                        else y.stillness } ∧
         SuiteTook g x (after t) x.seen s t) ∧
     (y.stillness = some 0 →
       ∃ t, exec (.stillnessExpiry r) s = .next t ∧ RoomWork s t ∧ (∀ q, q ≠ r → t.room q = s.room q) ∧
         KeepsOverrides s t ∧ KeepsPlansBut (fun q => q = r ∨ q ∈ x.members) s t ∧
         t.room r = { y with head := 0, stillness := none, aboveCapacity := false } ∧
         CondSet.holds (t.notice r).conds .countDrift = true ∧ (y.head ≠ 0 → Recomposed s t r) ∧
         SuiteTook g x (after t) x.seen s t))) ∧
  (∀ (g : SuiteId) (x : Suite) (s : State), s.power = .ready → s.suite g = some x →
     x.occ = some .linger → x.linger = some 0 →
     let o := (s.effectivePhase g).place
     ∃ t, exec (.suiteLingerExpiry g) s = .next t ∧ t.suite g = some { x with occ := some o, linger := none } ∧
       (∀ k, k ≠ g → t.suite k = s.suite k) ∧
       (∀ r ∈ x.members, (s.room r).state ≠ .off → CondSet.holds (t.notice r).conds .stateChanged = true) ∧
       (∀ r, t.room r = if o = .vacant ∧ r ∈ x.members then { s.room r with boost := false } else s.room r) ∧
       (o = .vacant → ∀ r ∈ x.members, t.NoOverrides r) ∧ (o ≠ .vacant → KeepsOverrides s t) ∧
       KeepsPlansBut (fun q => q ∈ x.members) s t ∧
       (∀ r ∈ x.members, Recomposed s t r) ∧ RoomWork s t) ∧
  (∀ (r : RoomId) (n : NodeRef) (v : Half) (s : State), (s.room r).state ≠ .off →
     let x := s.room r
     let after : RoomAct → State := fun act => roomAction act n v r s
     (0 < x.cfg.motionHold → exec (.motionHoldExpiry r) (after .motion) = .next (after .motion)) ∧
     (x.state = .run .linger → x.presence = false → ∀ act ∈ [RoomAct.motion, .countIn],
       exec (.lingerExpiry r) (after act) = .next (after act)) ∧
     (0 < x.cfg.countTrust → 0 < x.head → ∀ act ∈ [RoomAct.countIn, .countOut],
       exec (.stillnessExpiry r) (after act) = .next (after act)) ∧
     (s.power = .ready → x.state = .run .occupied → x.motionHold = some 0 → x.head = 0 →
       ∃ t, exec (.motionHoldExpiry r) s = .next t ∧ (t.room r).state = .run .linger ∧
         let u := roomAction .motion n v r t
         (u.room r).state = .run .occupied ∧ (u.room r).linger = none ∧
           CondSet.holds (u.notice r).conds .stateChanged = true) ∧
     (s.power = .ready → x.state = .run .occupied → x.stillness = some 0 → x.motionHold = none → 0 < x.head →
       ∃ t, exec (.stillnessExpiry r) s = .next t ∧ (t.room r).state = .run .linger ∧
         ((roomAction .countIn n v r t).room r).state = .run .occupied ∧
         ((roomAction .countIn n v r t).room r).head = (if v = 0 then 1 else min 50 v.toNat) ∧
         CondSet.holds ((roomAction .countOut n v r t).notice r).conds .countDrift = true))

/-- LINGER EXPIRY (R79): the room leaves LINGER for the state its phase gives, and is recomposed (R132). The change raises
STATE CHANGED, and entry to VACANT clears the override scene, the node overrides and the boost latch (R82), which stay as they
are otherwise; VACANT with phase NONE is standby duty (R126). -/
def Obligations.LingerExpiryFollowsThePhase : Prop :=
  ∀ (r : RoomId) (s : State), s.power = .ready → (s.room r).state = .run .linger → (s.room r).linger = some 0 →
    ∃ t, exec (.lingerExpiry r) s = .next t ∧
      ((s.room r).phase = .prep → (t.room r).state = .run .preparing) ∧
      ((s.room r).phase = .on → (t.room r).state = .run .expected) ∧
      ((s.room r).phase = .lag ∨ (s.room r).phase = .idle → (t.room r).state = .run .vacant) ∧
      (t.room r).linger = none ∧ (t.room r).phase = (s.room r).phase ∧ (t.room r).head = (s.room r).head ∧
      CondSet.holds (t.notice r).conds .stateChanged = true ∧
      ((s.room r).phase = .lag ∨ (s.room r).phase = .idle → t.Vacated r) ∧
      ((s.room r).phase = .prep ∨ (s.room r).phase = .on →
        (t.room r).overrideScene = (s.room r).overrideScene ∧ (t.room r).boost = (s.room r).boost ∧
        KeepsOverrides s t) ∧
      DutyFollows s t r ∧ Recomposed s t r ∧ KeepsPlansBut (fun q => q = r) s t ∧ (∀ q, q ≠ r → t.room q = s.room q) ∧ RoomWork s t

/-- A room that is OFF discards a room action (R63). What the six evidence actions do to the room's evidence, JOINED or not
(R66 to R68, R73 to R75): the CO2 boost latch, the above-capacity flag with OVERCROWD (R69) and the stillness timer at a
count (R70, R71) among it. MOTION in a room without presence makes it OCCUPIED, as any rise of presence does, and a fall in OCCUPIED gives
LINGER (R77, R78, R81). In a JOINED room the suite's machine moves: to OCCUPIED when the suite's presence rises, from OCCUPIED
to LINGER when it falls, and not at all otherwise; the member stays JOINED (R166, R168). A change of state, of the head
estimate, of the latch or of the window set from or to empty has the room recomposed (R132), and a change of its suite's
state every member (R168). -/
def Obligations.RoomActionsChangeTheirEvidence : Prop :=
  (∀ (act : RoomAct) (n : NodeRef) (v : Half) (r : RoomId) (s : State), (s.room r).state = .off →
    roomAction act n v r s = s) ∧
  (∀ (n : NodeRef) (v : Half) (r : RoomId) (s : State), (s.room r).state ≠ .off →
    let x := s.room r
    let after : RoomAct → State := fun act => roomAction act n v r s
    let count := if v = 0 then 1 else min 50 v.toNat
    ((after .motion).room r).motionHold = some (x.cfg.motionHold * 1000) ∧
    ((after .motion).room r).stillness = none ∧ ((after .motion).room r).head = x.head ∧
    ((after .countIn).room r).head = min 999 (x.head + count) ∧
    ((after .countIn).room r).motionHold = x.motionHold ∧
    ((after .countOut).room r).head = x.head - count ∧
    (x.head < count → CondSet.holds ((after .countOut).notice r).conds .countDrift = true) ∧
    ((after .co2).room r).co2 = some v ∧
    (let inUse : Prop := (∃ o, x.state = .run o ∧ (o = .occupied ∨ o = .linger)) ∨
       (x.state = .joined ∧ ∃ g o, x.suite = some g ∧ s.suiteOcc g = some o ∧ (o = .occupied ∨ o = .linger))
     let boost := ((after .co2).room r).boost
     let tested : Prop := inUse ∧ (s.air r).mode = some .comfort
     (tested → x.cfg.co2Threshold ≤ v.toNat → boost = true) ∧
     (tested → v.toNat < x.cfg.co2Threshold → v.toNat ≤ x.cfg.co2Threshold - x.cfg.hysteresis → boost = false) ∧
     (tested → v.toNat < x.cfg.co2Threshold → x.cfg.co2Threshold - x.cfg.hysteresis < v.toNat → boost = x.boost) ∧
     (¬ tested → boost = x.boost)) ∧
    (∀ p ∈ [(after .countIn, min 999 (x.head + count)), (after .countOut, x.head - count)],
      (p.1.room r).aboveCapacity = decide (x.cfg.capacity < p.2) ∧
      (x.cfg.capacity < p.2 → x.aboveCapacity = false → CondSet.holds (p.1.notice r).conds .overcrowd = true) ∧
      (p.2 ≤ x.cfg.capacity ∨ x.aboveCapacity = true →
        CondSet.holds (p.1.notice r).conds .overcrowd = CondSet.holds (s.notice r).conds .overcrowd)) ∧
    (let full := some (x.cfg.countTrust * 60000)
     (x.head = 0 → ((after .countIn).room r).stillness =
       if x.motionHold = none ∧ x.suspended = false ∧ x.stillness = none then full else x.stillness) ∧
     (0 < x.head → ((after .countIn).room r).stillness = x.stillness.bind fun _ => full) ∧
     (x.head = 0 → ((after .countOut).room r).stillness = x.stillness) ∧
     (0 < x.head → x.head ≤ count → ((after .countOut).room r).stillness = none) ∧
     (count < x.head → ((after .countOut).room r).stillness = x.stillness.bind fun _ => full)) ∧
    (n ∉ x.windows → x.windows.length < 8 → ((after .windowOpen).room r).windows = x.windows ++ [n]) ∧
    (n ∈ x.windows ∨ 8 ≤ x.windows.length → ((after .windowOpen).room r).windows = x.windows) ∧
    ((after .windowClosed).room r).windows = x.windows.filter (· != n) ∧
    (∀ act ∈ [RoomAct.motion, .countIn, .countOut, .co2, .windowOpen, .windowClosed],
      RoomWork s (after act) ∧ KeepsOverrides s (after act) ∧
        KeepsPlansBut (fun q => q = r ∨ ∃ g, x.state = .joined ∧ x.suite = some g ∧ q ∈ s.members g) s (after act)) ∧
    (∀ o, x.state = .run o → x.presence = false → o ≠ .occupied →
      ((after .motion).room r).state = .run .occupied ∧ ((after .motion).room r).linger = none ∧
      ((after .motion).room r).seen = true ∧ CondSet.holds ((after .motion).notice r).conds .stateChanged = true) ∧
    (∀ act o, x.state = .run o → ∀ q, q ≠ r → (after act).room q = s.room q) ∧
    (∀ act ∈ [RoomAct.motion, .countIn, .countOut, .co2, .windowOpen, .windowClosed],
      let t := after act
      let y := t.room r
      let rises : Prop := x.presence = false ∧ y.presence = true
      let falls : Prop := x.presence = true ∧ y.presence = false
      (rises → y.seen = true) ∧ (¬ rises → y.seen = x.seen) ∧
      (∀ o, x.state = .run o →
        (rises → o ≠ .occupied →
          y.state = .run .occupied ∧ y.linger = none ∧ CondSet.holds (t.notice r).conds .stateChanged = true) ∧
        (falls → o = .occupied →
          y.state = .run .linger ∧ y.linger = some (x.cfg.lingerTime * 1000) ∧
            CondSet.holds (t.notice r).conds .stateChanged = true) ∧
        (¬ rises → ¬ falls → y.state = x.state ∧ y.linger = x.linger)) ∧
      (∀ g su o, x.state = .joined → x.suite = some g → s.suite g = some su → su.occ = some o →
        let suiteRises : Prop := s.suitePresence g = false ∧ t.suitePresence g = true
        let suiteFalls : Prop := s.suitePresence g = true ∧ t.suitePresence g = false
        y.state = .joined ∧ (∀ q, q ≠ r → t.room q = s.room q) ∧
        (suiteRises → SuiteTook g su .occupied true s t) ∧
        (suiteFalls → SuiteTook g su (if o = .occupied then .linger else o) su.seen s t) ∧
        (¬ suiteRises → ¬ suiteFalls → t.suite g = s.suite g))) ∧
    (∀ act ∈ [RoomAct.motion, .countIn, .countOut, .co2, .windowOpen, .windowClosed],
      let t := after act
      let y := t.room r
      let suiteMoved : Prop := ∃ g, x.state = .joined ∧ x.suite = some g ∧ t.suiteOcc g ≠ s.suiteOcc g
      (y.state ≠ x.state ∨ y.head ≠ x.head ∨ y.boost ≠ x.boost ∨ y.windows.isEmpty ≠ x.windows.isEmpty →
        ¬ suiteMoved → Recomposed s t r) ∧
      (∀ g, x.state = .joined → x.suite = some g → t.suiteOcc g ≠ s.suiteOcc g →
        ∀ q ∈ s.members g, Recomposed s t q)))

/-! ### Chapter 5: the timetable -/

/-- SET CLOCK (R93): the clock, the bookings of earlier weeks, the release records, a fresh selection with catch-up for
every loaded room, and the CLOCK SET report. An event that the old clock has due (its second has passed) is void: see
`WingClockAdvances`. How that is kept is log 38. -/
def Obligations.SetClockReselectsEveryRoom : Prop :=
  ∀ (s : State) (tag : Byte) (ps : List Byte) (c : Clock), s.Takes 0x40 tag ps → clockOf ps = .ok c →
    let store := s.tu.store.filter fun b => match b.week with | some w => decide (c.week ≤ w) | none => true
    let void := s.tu.void || decide (1000 ≤ s.tu.ms)
    let v : State := { dropFrame s with tu := { clock := some c, ms := 0, void := void, store := store
                                                rooms := s.tu.rooms.map fun t => { t with released := none } } }
    ∃ u, AnswersDone .setClock s 0x40 tag [] u ∧ u.tu.clock = some c ∧ u.tu.ms = 0 ∧ u.tu.void = void ∧
      u.tu.store = store ∧
      (∀ r, (u.time r).released = none) ∧
      (∀ r, (s.room r).state ≠ .off →
        let found := catchUp (some c) (v.select r)
        (u.time r).cursor = found.1 ∧ (u.room r).TookReport found.2) ∧
      (s.OffIsEmpty → ∀ r, (s.room r).state = .off → u.room r = Room.off ∧ (u.time r).cursor = none) ∧
      u.nu.wing = (if s.nu.wing.length < 16 then
        s.nu.wing ++ [{ kind := .clockSet, stamp := some c, overflow := false }] else markNewest s.nu.wing) ∧
      u.pu = s.pu ∧ u.cl = s.cl ∧ (∀ l, (u.line l).frame = (s.line l).frame) ∧
      (∀ r, (u.room r).cfg = (s.room r).cfg ∧ (u.room r).motionHold = (s.room r).motionHold ∧
        (u.room r).head = (s.room r).head)

/-- CLOCK SECOND ADVANCE and MINUTE BOUNDARY (R90 to R92): how the clock counts, and that an UNSET clock does not; the
event a replaced clock had due is dropped (R93, R118; log 38). The model's own choices in it: an event taken begins the
second anew, its milliseconds 0 (log 17); MINUTE BOUNDARY below second 59 and CLOCK SECOND ADVANCE at 59 stand for nothing
(logs 1 and 2), whatever is left of the second. At a minute boundary the week boundary work comes first when
the minute is 0: one-off bookings of the week just ended and release records go, and a loaded room without a cursor selects
afresh, each as an event of its own (log 42). Then the marks of every loaded room are compared with the new minute (`MarksMoveThePhase`), in a free order of the
rooms (logs 4 and 35); PREP and START reached by themselves give their phase and are spent. -/
def Obligations.WingClockAdvances : Prop :=
  ∀ s : State, s.power = .ready →
    (s.tu.void = true → ∀ i ∈ [Instr.clockSecondAdvance, .minuteBoundary],
      exec i s = .next { s with tu := { s.tu with void := false } }) ∧
    (s.tu.void = false →
      (s.tu.clock = none → exec .clockSecondAdvance s = .next s ∧ exec .minuteBoundary s = .next s) ∧
      (∀ c, s.tu.clock = some c → c.second < 59 → exec .minuteBoundary s = .next s ∧
        exec .clockSecondAdvance s =
          .next { s with tu := { s.tu with clock := some { c with second := c.second + 1 }, ms := 0 } }) ∧
      (∀ c, s.tu.clock = some c → c.second = 59 → exec .clockSecondAdvance s = .next s ∧
        let n : Clock :=
          if c.minute = 10079 then { week := if c.week = 52 then 1 else c.week + 1, minute := 0, second := 0 }
          else { week := c.week, minute := c.minute + 1, second := 0 }
        let moved : State := { s with tu := { s.tu with clock := some n, ms := 0 } }
        let begun := if n.minute = 0 then weekBoundary c.week moved else moved
        ∃ t, exec .minuteBoundary s = .next t ∧
          t = forEachFree (allRooms.filter fun r => (begun.room r).loaded)
            (fun r => takeMarks r n.minute n.week allMarks) begun ∧
          (let v := clearReleases (fun _ => true) (removeBookings (fun b => b.week == some c.week) moved)
           let w := weekBoundary c.week moved
           v.tu.store = s.tu.store.filter (fun b => b.week ≠ some c.week) ∧ w.tu.store = v.tu.store ∧
           ∀ r, (w.time r).released = none ∧
             ((s.time r).cursor ≠ none ∨ (s.room r).state = .off ∨ v.select r = none →
               (w.time r).cursor = (s.time r).cursor ∧ (w.room r).phase = (s.room r).phase) ∧
             ((s.time r).cursor = none → (s.room r).state ≠ .off → ∀ f, v.select r = some f →
               (w.time r).cursor = (catchUp (some n) (some f)).1 ∧
               (w.room r).TookReport (catchUp (some n) (some f)).2)) ∧
          (∀ r k, (s.room r).state ≠ .off → (s.time r).cursor = some k → k.occ.week = n.week →
            ∀ x ∈ [(MarkName.prep, Phase.prep), (.start, .on)],
              (∀ y ∈ allMarks, (k.marks.get y).any (fun m => m.armed && m.minute == n.minute) = decide (y = x.1)) →
              (t.room r).phase = x.2 ∧ (t.time r).cursor = some { k with marks := k.marks.spend x.1 }) ∧
          t.tu.clock = some n ∧ t.tu.store.Sublist s.tu.store ∧ (n.minute = 0 → ∀ b ∈ t.tu.store, b.week ≠ some c.week) ∧
          t.pu = s.pu ∧ t.cl = s.cl ∧ t.nu.wing = s.nu.wing ∧ (∀ l, (t.line l).frame = (s.line l).frame) ∧
          (∀ r, (t.room r).cfg = (s.room r).cfg ∧ (t.room r).head = (s.room r).head ∧
            (t.room r).motionHold = (s.room r).motionHold)))

/-- LOAD BOOKING and CANCEL BOOKING (R99, R100, R108): the store, and the occurrence every loaded room concerned then
follows. A room that keeps its occurrence keeps its cursor, phase, kind and booking scene; one that does not is caught up, and
takes the booking scene with that report (R106). -/
def Obligations.BookingsEnterAndLeaveTheStore : Prop :=
  (∀ (s : State) (tag : Byte) (ps : List Byte) (b : Booking), s.Takes 0x42 tag ps → bookingOf ps = .ok b →
    s.noTarget b = false → s.clashes b = false → s.noPlace b = false →
    let store := insertBooking b (s.tu.store.filter fun c => c.id != b.id)
    let v : State := { removeBookings (fun c => c.id == b.id) (dropFrame s) with
      tu := { (removeBookings (fun c => c.id == b.id) (dropFrame s)).tu with store := store } }
    ∃ u, AnswersDone .loadBooking s 0x42 tag [] u ∧ u.tu.store = store ∧ u.tu.clock = s.tu.clock ∧
      (∀ r, (s.room r).state ≠ .off →
        (s.lists r b = true ∨ ∃ old, s.findBooking b.id = some old ∧ s.lists r old = true) →
        (u.time r).cursor.map Cursor.occ = ((v.select r).map fun f => ⟨f.1.id, f.2⟩) ∧
        let kept : Prop := (s.time r).cursor.map Cursor.occ = ((v.select r).map fun f => ⟨f.1.id, f.2⟩) ∧
          ∀ c, (s.time r).cursor = some c → c.occ.id ≠ b.id
        (kept → (u.time r).cursor = (s.time r).cursor ∧ (u.room r).KeepsReport (s.room r)) ∧
        (¬ kept → let found := catchUp s.tu.clock (v.select r)
          (u.time r).cursor = found.1 ∧ (u.room r).TookReport found.2)) ∧
      (∀ r, s.lists r b = false → (∀ old, s.findBooking b.id = some old → s.lists r old = false) →
        (u.time r).cursor = (s.time r).cursor ∧ (u.room r).KeepsReport (s.room r)) ∧
      u.pu = s.pu ∧ u.cl = s.cl ∧ u.nu.wing = s.nu.wing ∧ (∀ l, (u.line l).frame = (s.line l).frame)) ∧
  (∀ (s : State) (tag : Byte) (ps : List Byte) (id : Nat) (b : Booking), s.Takes 0x43 tag ps →
    bookingIdOf ps = .ok id → s.findBooking id = some b →
    let v := removeBookings (fun c => c.id == id) (dropFrame s)
    ∃ u, AnswersDone .cancelBooking s 0x43 tag [] u ∧ u.tu.store = s.tu.store.filter (fun c => c.id != id) ∧
      u.tu.clock = s.tu.clock ∧
      (∀ r, (s.room r).state ≠ .off → s.lists r b = true →
        (u.time r).cursor.map Cursor.occ = ((v.select r).map fun f => ⟨f.1.id, f.2⟩) ∧
        let kept : Prop := (s.time r).cursor.map Cursor.occ = ((v.select r).map fun f => ⟨f.1.id, f.2⟩)
        (kept → (u.time r).cursor = (s.time r).cursor ∧ (u.room r).KeepsReport (s.room r)) ∧
        (¬ kept → let found := catchUp s.tu.clock (v.select r)
          (u.time r).cursor = found.1 ∧ (u.room r).TookReport found.2)) ∧
      (∀ r, s.lists r b = false → (u.time r).cursor = (s.time r).cursor ∧ (u.room r).KeepsReport (s.room r)) ∧
      u.pu = s.pu ∧ u.cl = s.cl ∧ u.nu.wing = s.nu.wing ∧ (∀ l, (u.line l).frame = (s.line l).frame))

/-- LIST BOOKINGS (R101), and SAMPLE STATUS (R180), an OFF room included: what each refuses, and what it answers, changing
nothing. The room status record is that of R178, laid out as in R16. -/
def Obligations.BookingListAndStatusAreRead : Prop :=
  (∀ (s : State) (tag : Byte) (ps : List Byte), s.Takes 0x44 tag ps →
    (ps.length ≠ 3 → exec .listBookings s =
      .next (pushTx { kind := .reply, tag := tag, payload := [0x44, 1] } (dropFrame s))) ∧
    (∀ b h l : Byte, ps = [b, h, l] → 47 < b.toNat → exec .listBookings s =
      .next (pushTx { kind := .reply, tag := tag, payload := [0x44, 2] } (dropFrame s))) ∧
    (∀ (b h l : Byte) (r : RoomId), ps = [b, h, l] → b.toNat = r.val →
      let list := s.tu.store.filter fun k => k.target = .room r ∨ ∃ g, k.target = .suite g ∧ (s.room r).suite = some g
      let piece := (list.drop (256 * h.toNat + l.toNat)).take 13
      AnswersDone .listBookings s 0x44 tag
        (natBytes2 list.length ++ byteOf piece.length :: piece.flatMap Booking.bytes) (dropFrame s) ∧
      (list.length ≤ 256 * h.toNat + l.toNat → piece = []))) ∧
  (∀ (s : State) (tag : Byte) (ps : List Byte), s.Takes 0x81 tag ps →
    (ps.length ≠ 1 → exec .sampleStatus s =
      .next (pushTx { kind := .reply, tag := tag, payload := [0x81, 1] } (dropFrame s))) ∧
    (∀ b : Byte, ps = [b] → 47 < b.toNat → exec .sampleStatus s =
      .next (pushTx { kind := .reply, tag := tag, payload := [0x81, 2] } (dropFrame s))) ∧
    (∀ (b : Byte) (r : RoomId), ps = [b] → b.toNat = r.val →
      AnswersDone .sampleStatus s 0x81 tag (s.statusRecord r) (dropFrame s) ∧ (s.statusRecord r).length = 21 ∧
      let x := s.room r
      let n := s.notice r
      let state : Byte := match x.state with
        | .off => 0
        | .run .vacant => 1
        | .run .preparing => 2
        | .run .expected => 3
        | .run .occupied => 4
        | .run .linger => 5
        | .joined => 6
      let phase : Byte := match x.phase with
        | .idle => 0
        | .prep => 1
        | .on => 2
        | .lag => 3
      let cursor : Nat := match (s.time r).cursor with
        | some c => c.occ.id
        | none => 0
      let presence : Byte := if x.motionHold ≠ none ∨ 0 < x.head then 1 else 0
      let pending : Byte := if n.pending then 2 else 0
      let listed : Byte := if r ∈ s.nu.pendingList then 4 else 0
      let co2 : List Byte := match x.co2 with
        | some v => 1 :: bytes2 v
        | none => [0, 0, 0]
      let source : Family → Byte := fun f => match s.pu.governing r f with
        | some i => byteOf i.val
        | none => 0xFF
      let offline := (allNodes.filter fun m => (s.entry m).any fun e => e.room == r && e.health == .offline).length
      s.statusRecord r = [b, state, phase] ++ natBytes2 cursor ++ natBytes2 x.head ++ [presence ||| pending ||| listed] ++
        co2 ++ [source .lights, source .blinds, source .air] ++ bytes2 (n.conds.zeroExtend 16) ++ [byteOf offline] ++
        bytes4 n.tag))

/-- The search of a room's list and what follows from it. The follower of an occurrence is the next booking after it in
the list that applies to its week and is not the released occurrence; the occurrence hands over at END exactly when that
booking's PREP is at or before its RELEASE, and its hand-off time is its END then and its RELEASE otherwise (R103, R112).
Selection searches the whole list and advance what stands after a booking: the first booking of the current week whose
hand-off time is ahead and that is not released, or the first of the whole list that applies to the following week (R104).
Catch-up gives cursor, marks, phase and kind from where the clock lies (R105); at or after RELEASE, which no search finds,
is log 23. -/
def Obligations.SearchAndCatchUpFollowTheList : Prop :=
  let first : List Booking → (Booking → Prop) → Booking → Prop := fun list p c =>
    ∃ older newer, list = older ++ c :: newer ∧ p c ∧ ∀ d ∈ older, ¬ p d
  let after : Booking → Booking → Prop := fun b c => b.start < c.start ∨ (b.start = c.start ∧ b.id < c.id)
  let applies : Nat → Booking → Prop := fun week c => c.week = none ∨ c.week = some week
  (∀ (list : List Booking) (released : Option Occurrence) (b : Booking) (week : Nat),
    let next : Booking → Prop := fun c => after b c ∧ applies week c ∧ released ≠ some ⟨c.id, week⟩
    (handsOver list released b week = true ↔ ∃ c, first list next c ∧ c.start - c.lead ≤ b.finish + b.lag) ∧
    handOff list released b week = if handsOver list released b week = true then b.finish else b.finish + b.lag) ∧
  (∀ (s : State) (r : RoomId) (o : Occurrence),
    let list := s.tu.store.filter fun b => b.target = .room r ∨ ∃ g, b.target = .suite g ∧ (s.room r).suite = some g
    s.bookingsOf r = list ∧
    (s.cursorHandsOver r o = true ↔
      ∃ b, s.findBooking o.id = some b ∧ handsOver list (s.time r).released b o.week = true)) ∧
  (∀ (s : State) (r : RoomId) (b : Booking),
    let list := s.bookingsOf r
    let released := (s.time r).released
    (s.tu.clock = none → s.select r = none ∧ s.advance r b = none) ∧
    (∀ k, s.tu.clock = some k →
      let following := if k.week = 52 then 1 else k.week + 1
      let ahead : Booking → Prop := fun c =>
        applies k.week c ∧ k.minute < handOff list released c k.week ∧ released ≠ some ⟨c.id, k.week⟩
      let finds : (Booking → Prop) → Option (Booking × Nat) → Prop := fun p found =>
        (∀ c, first list p c → found = some (c, k.week)) ∧
        ((∀ c ∈ list, ¬ p c) →
          (∀ c, first list (applies following) c → found = some (c, following)) ∧
          ((∀ c ∈ list, ¬ applies following c) → found = none))
      finds ahead (s.select r) ∧ finds (fun c => after b c ∧ ahead c) (s.advance r b))) ∧
  (∀ found : Option (Booking × Nat), catchUp none found = (none, .idle, none)) ∧
  (∀ k : Clock, catchUp (some k) none = (none, .idle, none)) ∧
  (∀ (k : Clock) (b : Booking) (week : Nat),
    let prep := b.start - b.lead
    let release := b.finish + b.lag
    let own : Option Mark := if 0 < b.confirm then some ⟨b.start + b.confirm, true⟩ else none
    let moved := max (b.start + b.confirm) (k.minute + b.confirm)
    let late : Option Mark := if 0 < b.confirm then some ⟨moved, decide (moved < b.finish)⟩ else none
    let all : Marks :=
      { prep := ⟨prep, true⟩, start := ⟨b.start, true⟩, confirm := own, finish := ⟨b.finish, true⟩
        release := ⟨release, true⟩ }
    let given : Phase → Marks → Prop := fun phase marks =>
      catchUp (some k) (some (b, week)) = (some { occ := ⟨b.id, week⟩, marks := marks }, phase, some b)
    (week ≠ k.week → given .idle all) ∧
    (week = k.week →
      (k.minute < prep → given .idle all) ∧
      (prep ≤ k.minute → k.minute < b.start → given .prep { all with prep := ⟨prep, false⟩ }) ∧
      (prep ≤ k.minute → b.start ≤ k.minute → k.minute < b.finish →
        given .on { all with prep := ⟨prep, false⟩, start := ⟨b.start, false⟩, confirm := late }) ∧
      (prep ≤ k.minute → b.start ≤ k.minute → b.finish ≤ k.minute → k.minute < release →
        given .lag { prep := ⟨prep, false⟩, start := ⟨b.start, false⟩
                     confirm := own.map fun m => ⟨m.minute, false⟩, finish := ⟨b.finish, false⟩
                     release := ⟨release, true⟩ })))

/-- ROOM RELEASE (R107, R115, R116): the occurrence is passed early, and the cursor advances with catch-up. A weekly
booking stays, with the release record set; a one-off booking that no other cursor holds leaves the store, and its
release record with it. A room with its own machine is recomposed (R132). What `advance` and `catchUp` give is said in
`SearchAndCatchUpFollowTheList`. -/
def Obligations.RoomReleasePassesTheOccurrence : Prop :=
  ∀ (s : State) (tag : Byte) (ps : List Byte) (r : RoomId) (c : Cursor) (b : Booking), s.Takes 0x45 tag ps →
    oneByte 48 ps = .ok r → (s.room r).state ≠ .off → (s.room r).phase ≠ .idle → (s.time r).cursor = some c →
    s.findBooking c.occ.id = some b →
    let v := onTime r (fun t => { t with released := some c.occ }) (dropFrame s)
    let w := removeBookings (fun k => k.id == b.id) v
    let goes : Prop := b.week ≠ none ∧ s.heldElsewhere r c.occ = false
    ∃ u, AnswersDone .roomRelease s 0x45 tag [] u ∧
      (¬ goes →
        let found := catchUp s.tu.clock (v.advance r b)
        u.tu.store = s.tu.store ∧ (u.time r).released = some c.occ ∧ (u.time r).cursor = found.1 ∧
          (u.room r).TookReport found.2) ∧
      (goes →
        let found := catchUp s.tu.clock (w.advance r b)
        u.tu.store = s.tu.store.filter (fun k => k.id != b.id) ∧ (u.time r).released = none ∧
          (u.time r).cursor = found.1 ∧ (u.room r).TookReport found.2) ∧
      (∀ o, (s.room r).state = .run o → Recomposed s u r ∧ KeepsPlansBut (fun q => q = r) s u) ∧
      (∀ q, q ≠ r → (u.time q).cursor = (s.time q).cursor) ∧ u.tu.clock = s.tu.clock ∧ u.pu = s.pu ∧ u.cl = s.cl ∧
      u.nu.wing = s.nu.wing ∧ (∀ l, (u.line l).frame = (s.line l).frame)

/-- The marks of one room at a boundary (R91, R114): a mark of a cursor that lies in the current week, armed and at the new
minute, is spent and taken, in mark order, until one passes the occurrence. What each does: PREP and START set their phase
(R110); CONFIRM reads the room's seen flag, or its suite's while it is JOINED, and finds a no-show when it is clear (R111,
R170); END without handover sets LAG, END with handover and RELEASE pass the occurrence (R112, R113; when an occurrence hands
over, `SearchAndCatchUpFollowTheList`), which then advances with catch-up, a one-off booking that no other cursor holds
leaving the store (R107, R115). What a phase report does to a room that is not OFF, from a mark or from catch-up: RE stores
phase, kind and scene (R76, R106); ON settles the seen flag (R81); the exam suspension stops the stillness timer when it
begins and applies its start test when it ends (R72); the room's machine moves by R77, entry to VACANT clears what R82 names,
OVERRUN is raised when an OCCUPIED room goes from ON to LAG (R80), standby duty follows (R126) and the room is recomposed
(R132). In a JOINED room the suite takes its effective phase: by the same table, with OVERRUN for every member (R167, R168). -/
def Obligations.MarksMoveThePhase : Prop :=
  (∀ (r : RoomId) (minute week : Nat) (k : MarkName) (rest : List MarkName) (s : State),
    takeMarks r minute week [] s = s ∧
    ((s.time r).cursor = none → takeMarks r minute week (k :: rest) s = s) ∧
    (∀ c, (s.time r).cursor = some c →
      let reached : Prop := c.occ.week = week ∧ ∃ m, c.marks.get k = some m ∧ m.armed = true ∧ m.minute = minute
      let taken := takeMark r c.occ k (onTime r (fun t => { t with cursor := some { c with marks := c.marks.spend k } }) s)
      (¬ reached → takeMarks r minute week (k :: rest) s = takeMarks r minute week rest s) ∧
      (reached → taken.2 = true → takeMarks r minute week (k :: rest) s = endEvent taken.1) ∧
      (reached → taken.2 = false → takeMarks r minute week (k :: rest) s = takeMarks r minute week rest (endEvent taken.1)))) ∧
  (∀ (r : RoomId) (o : Occurrence) (s : State), (s.room r).state ≠ .off →
    let after : MarkName → State := fun k => (takeMark r o k s).1
    (∀ k ∈ [MarkName.prep, .start], (takeMark r o k s).2 = false ∧ (after k).tu = s.tu ∧
      ((after k).room r).TookReport (if k = .prep then .prep else .on, s.cursorBooking r) ∧
      ((s.room r).state ≠ .joined → Recomposed s (after k) r)) ∧
    ((after .prep).room r).phase = .prep ∧ ((after .start).room r).phase = .on ∧
    (s.cursorHandsOver r o = false → ((after .finish).room r).phase = .lag ∧ (after .finish).tu = s.tu ∧
      (takeMark r o .finish s).2 = false) ∧
    (s.cursorHandsOver r o = true → takeMark r o .finish s = (passOccurrence false r s, true)) ∧
    takeMark r o .release s = (passOccurrence false r s, true) ∧
    ((s.room r).state ≠ .joined → s.seenForConfirm r = (s.room r).seen) ∧
    (∀ g x, (s.room r).state = .joined → (s.room r).suite = some g → s.suite g = some x → s.seenForConfirm r = x.seen) ∧
    (s.seenForConfirm r = true → takeMark r o .confirm s = (s, false)) ∧
    (s.seenForConfirm r = false → takeMark r o .confirm s = (passOccurrence true r (raise .noShow r s), true) ∧
      CondSet.holds ((after .confirm).notice r).conds .noShow = true) ∧
    (∀ x, (s.room r).state = .run x → x = .vacant ∨ x = .preparing → ((after .start).room r).state = .run .expected) ∧
    (∀ x, (s.room r).state = .run x → x = .occupied ∨ x = .linger → ((after .start).room r).state = .run x)) ∧
  (∀ (r : RoomId) (p : Phase) (cursor : Option Booking) (s : State),
    let x := s.room r
    let t := phaseReport r p cursor s
    let kind := cursor.map Booking.kind
    let was : Prop := x.phase = .on ∧ x.cursorKind = some .exam
    let is : Prop := p = .on ∧ kind = some .exam
    let starts : Prop := was ∧ ¬ is ∧ 0 < x.head ∧ x.motionHold = none ∧ x.stillness = none
    let stored : Room := { x with
      phase := p, cursorKind := kind, bookingScene := cursor.map Booking.scene
      seen := if p = .on then x.presence else x.seen
      stillness := if starts then some (x.cfg.countTrust * 60000) else if is ∧ ¬ was then none else x.stillness }
    let moves : OccState → Phase → OccState := fun o q => match o, q with
      | .occupied, _ => .occupied
      | .linger, _ => .linger
      | _, .prep => .preparing
      | _, .on => .expected
      | _, _ => .vacant
    let has : State → RoomId → Condition → Bool := fun u q c => CondSet.holds (u.notice q).conds c
    (x.state = .off → t = s) ∧
    (∀ o, x.state = .run o →
      let o' := moves o p
      let overruns : Prop := o = .occupied ∧ x.phase = .on ∧ p = .lag
      t.room r = { stored with
        state := .run o', linger := if o' = o then x.linger else none
        overrideScene := if o' = .vacant ∧ o ≠ .vacant then none else x.overrideScene
        boost := if o' = .vacant ∧ o ≠ .vacant then false else x.boost } ∧
      (o' ≠ o → has t r .stateChanged = true) ∧ (o' = o → has t r .stateChanged = has s r .stateChanged) ∧
      (o' = .vacant → o ≠ .vacant → t.NoOverrides r) ∧
      (o' = o ∨ o' ≠ .vacant → KeepsOverrides s t) ∧ KeepsPlansBut (fun q => q = r) s t ∧
      (overruns → has t r .overrun = true) ∧ (¬ overruns → has t r .overrun = has s r .overrun) ∧
      DutyFollows s t r ∧ Recomposed s t r ∧ (∀ q, q ≠ r → t.room q = s.room q ∧ t.notice q = s.notice q) ∧
      t.re.suites = s.re.suites ∧ RoomWork s t) ∧
    (∀ g su o, x.state = .joined → x.suite = some g → s.suite g = some su → su.occ = some o →
      let o' := moves o (t.effectivePhase g)
      let entered : Prop := o' = .vacant ∧ o ≠ .vacant
      let overruns : Prop := o = .occupied ∧ s.effectivePhase g = .on ∧ t.effectivePhase g = .lag
      t.room r = { stored with boost := if entered ∧ r ∈ su.members then false else x.boost } ∧
      (∀ q, q ≠ r → t.room q = if entered ∧ q ∈ su.members then { s.room q with boost := false } else s.room q) ∧
      SuiteTook g su o' (if p = .on then s.suitePresence g else su.seen) s t ∧
      (∀ q ∈ su.members, (s.room q).state ≠ .off →
        (overruns → has t q .overrun = true) ∧ (¬ overruns → has t q .overrun = has s q .overrun)) ∧
      (∀ q ∈ su.members, Recomposed s t q) ∧ KeepsPlansBut (fun q => q = r ∨ q ∈ su.members) s t ∧ RoomWork s t)) ∧
  (∀ (early : Bool) (r : RoomId) (s : State) (c : Cursor) (b : Booking), (s.room r).state ≠ .off →
    (s.time r).cursor = some c → s.findBooking c.occ.id = some b →
    let v := if early then onTime r (fun t => { t with released := some c.occ }) s else s
    let w := removeBookings (fun x => x.id == b.id) v
    let u := passOccurrence early r s
    let follows : Option (Booking × Nat) → Prop := fun found =>
      (u.time r).cursor = (catchUp s.tu.clock found).1 ∧ (u.room r).TookReport (catchUp s.tu.clock found).2
    (b.week = none ∨ s.heldElsewhere r c.occ = true → follows (v.advance r b) ∧ u.tu.store = s.tu.store ∧
      (u.time r).released = (v.time r).released) ∧
    (b.week ≠ none → s.heldElsewhere r c.occ = false → follows (w.advance r b) ∧
      u.tu.store = s.tu.store.filter (fun x => x.id != b.id) ∧ (u.time r).released = (w.time r).released))

/-! ### Chapter 6: scenes, targets and delivery -/

/-- How a light level is settled (R124): the linger level, then the rounding to the node's step. -/
def Obligations.LightLevelsAreRoundedToTheStep : Prop :=
  ∀ (rounding : Rounding) (step level : Nat), 0 < step → step ≤ 250 → level ≤ 1000 →
    let v := roundLevel rounding step level
    v ≤ 1000 ∧ v % step = 0 ∧ (level = 0 → v = 0) ∧ (step = 1 → v = level) ∧
    (rounding = .down → v ≤ level ∧ level < v + step) ∧
    (rounding = .up → v = (if (level + step - 1) / step * step ≤ 1000 then (level + step - 1) / step * step
                           else 1000 / step * step)) ∧
    (rounding = .nearest → (level / step + 1) * step ≤ 1000 → 2 * (v - level) ≤ step ∧ 2 * (level - v) < step) ∧
    (∀ percent, percent ≤ 100 → scaleLevel percent level * 100 ≤ level * percent ∧
      level * percent < scaleLevel percent level * 100 + 100)

/-- What a node's target is composed from (R122 to R125, R169). A room's view is its own state, phase and scenes, or its
suite's; a booking that leaves the store leaves the view until the room's next phase report (R106; log 40). The first layer
that applies gives the value: protection, the open window, the node override, the override scene,
the table of R123; absent is KEEP, which the pairs outside the table give too (log 16). A recomposition takes the value into
every node of the room (R132): another value, or the first, clears the stall and the same value leaves it (R132, R139). The
state air mode becomes the mode layer 5 gives, when it gives one
(R125). -/
def Obligations.CompositionTakesTheFirstLayer : Prop :=
  (∀ (s : State) (r : RoomId),
    let x := s.room r
    let sceneOf : RoomId → Scene := fun q => match (s.room q).bookingScene with | some n => s.scene n | none => Scene.empty
    (∀ n, n ≠ 0 → look s.ap.scenes n = none → s.scene n = Scene.empty) ∧
    (∀ n y, n ≠ 0 → look s.ap.scenes n = some y → s.scene n = y) ∧
    s.scene 0 = { levels := filled 4 (some 0), ramp := 0, rounding := none, blind := none, air := some .standby } ∧
    (x.state = .off → ∀ role p, compose s r role p = none) ∧
    (∀ o, x.state = .run o → s.view r = some
      { occ := o, phase := x.phase, booking := sceneOf r, adHoc := s.scene x.cfg.adHocScene
        vacant := s.scene x.cfg.vacantScene, lingerLevel := x.cfg.lingerLevel
        dutyFlow := if (s.air r).part = some .off then 0 else x.cfg.standbyFlow }) ∧
    (∀ g y o lead rest before m after, x.state = .joined → x.suite = some g → s.suite g = some y → y.occ = some o →
      y.members = lead :: rest → y.members = before ++ m :: after →
      (∀ q ∈ y.members, (s.room q).phase.rank ≤ (s.room m).phase.rank) →
      (∀ q ∈ before, (s.room q).phase ≠ (s.room m).phase) → s.view r = some
      { occ := o, phase := (s.room m).phase, booking := sceneOf m, adHoc := s.scene y.adHocScene
        vacant := s.scene (s.room lead).cfg.vacantScene, lingerLevel := (s.room lead).cfg.lingerLevel
        dutyFlow := x.cfg.standbyFlow }) ∧
    (∀ gone, (removeBookings gone s).view r = s.view r)) ∧
  (∀ (s : State) (r : RoomId) (role : Role) (p : Plan) (v : View), s.view r = some v →
    let x := s.room r
    let given := compose s r role p
    let plainly : Nat → Option Target := fun n => some { value := n, ramp := 0, protect := false }
    let level : Nat → Nat := fun n => if v.occ = .linger then n * v.lingerLevel / 100 else n
    let flow : AirMode → Nat := fun m => match m with
      | .standby => x.cfg.standbyFlow
      | .comfort => if x.boost then x.cfg.boostFlow else min 100 (x.cfg.comfortBase + x.cfg.perHead * x.head / 10)
      | .purge => 100
      | .shut => 0
    let fromScene : Scene → Option Target := fun y => match role with
      | .light group step => (look y.levels group).map fun n =>
        { value := roundLevel (y.rounding.getD s.ap.rounding) step (level n), ramp := y.ramp, protect := false }
      | .blind _ => y.blind.bind plainly
      | .damper => y.air.bind fun m => plainly (flow m)
      | _ => none
    let dark : Option Target := some { value := 0, ramp := v.booking.ramp, protect := false }
    let unprotected : Prop := ∀ f, role.family = some f → s.protection r f = none
    let shut : Prop := role = .damper ∧ x.windows ≠ []
    let overridden : Prop := ∃ n, x.overrideScene = some n ∧ fromScene (s.scene n) ≠ none
    let table : Prop := role.family ≠ none ∧ unprotected ∧ ¬ shut ∧ p.override = none ∧ ¬ overridden
    (∀ f value, role.family = some f → s.protection r f = some value →
      given = some { value := value, ramp := 0, protect := true }) ∧
    (unprotected → shut → given = plainly 0) ∧
    (unprotected → ¬ shut → ∀ value, p.override = some value → given = plainly value) ∧
    (unprotected → ¬ shut → p.override = none → ∀ n, x.overrideScene = some n → fromScene (s.scene n) ≠ none →
      given = fromScene (s.scene n)) ∧
    (v.airMode = match v.occ, v.phase with
      | .vacant, .idle => some .standby
      | .vacant, .lag => v.booking.air
      | .preparing, .prep => v.booking.air
      | .expected, .on => v.booking.air
      | .occupied, p => if p = .idle then v.adHoc.air else v.booking.air
      | .linger, p => if p = .idle then v.adHoc.air else v.booking.air
      | _, _ => none) ∧
    (table → v.occ = .vacant → v.phase = .idle →
      given = if role = .damper then plainly v.dutyFlow else fromScene v.vacant) ∧
    (table → v.occ = .vacant → v.phase = .lag → given = match role.family with
      | some .lights => dark
      | some .blinds => fromScene v.vacant
      | _ => fromScene v.booking) ∧
    (table → v.occ = .preparing → v.phase = .prep →
      given = if role.family = some .lights then dark else fromScene v.booking) ∧
    (table → v.occ = .expected → v.phase = .on → given = fromScene v.booking) ∧
    (table → v.occ = .occupied ∨ v.occ = .linger →
      given = fromScene (if v.phase = .idle then v.adHoc else v.booking)) ∧
    (table → (v.occ, v.phase) ∈ [(OccState.vacant, Phase.prep), (.vacant, .on), (.preparing, .idle), (.preparing, .on),
      (.preparing, .lag), (.expected, .idle), (.expected, .prep), (.expected, .lag)] → given = none)) ∧
  (∀ (s : State) (r : RoomId) (n : NodeRef) (e : NodeEntry) (p : Plan), (s.room r).state ≠ .off → s.entry n = some e →
    e.room = r → s.plan n = some p →
    ∃ q, (recompose r s).plan n = some q ∧ q.override = p.override ∧
      (compose s r e.role p = none → q.target = p.target ∧ q.stalled = p.stalled) ∧
      (∀ t, compose s r e.role p = some t → q.target = some t ∧
        let same : Prop := p.target.map Target.value = some t.value
        (same → q.stalled = p.stalled) ∧ (¬ same → q.stalled = false))) ∧
  (∀ (s : State) (r : RoomId) (v : View), s.view r = some v →
    ((recompose r s).air r).mode = (if v.airMode = none then (s.air r).mode else v.airMode) ∧
      ∀ q, q ≠ r → (recompose r s).air q = s.air q)

/-- AP examines one node (R133): when it offers nothing, and otherwise the item it offers to the node's line, and what the
answer makes of the deferred flags. That it is so for a protective target behind a queued STOP too is log 39. A
recomposition composes every node of the room (`CompositionTakesTheFirstLayer`) and then examines them with the room's number as
link mark, in node-table order, first those with an item queued or in flight and then the others (R132). -/
def Obligations.ExaminationOffersItsTarget : Prop :=
  (∀ (r : RoomId) (s : State),
    ((s.room r).state = .off → recompose r s = s) ∧
    ((s.room r).state ≠ .off →
      let order := s.nodesOf r
      let busy : NodeRef → Bool := fun n => ((s.line n.line).queued ++ (s.line n.line).inFlight.toList).any (·.node == n.addr)
      let mode := ((s.view r).bind View.airMode).orElse fun _ => (s.air r).mode
      (∀ n, n ∈ order ↔ ∃ e, s.entry n = some e ∧ e.room = r) ∧
      order.Pairwise (fun m n => m.line < n.line ∨ (m.line = n.line ∧ m.addr < n.addr)) ∧
      ∃ composed : State,
        recompose r s = (order.filter busy ++ order.filter fun n => !busy n).foldl (fun u n => examine (some r) n u) composed ∧
        { composed with ap := s.ap } = s ∧ { composed.ap with plans := s.ap.plans, air := s.ap.air } = s.ap ∧
        composed.air r = { s.air r with mode := mode } ∧ (∀ q, q ≠ r → composed.air q = s.air q) ∧
        (∀ n, (∀ e, s.entry n = some e → e.room ≠ r) → composed.plan n = s.plan n) ∧
        (∀ n e p, s.entry n = some e → e.room = r → s.plan n = some p →
          composed.plan n = match compose s r e.role p with
            | none => some p
            | some t => some { p with
                target := some t, stalled := p.stalled && decide (p.target.map Target.value = some t.value) }))) ∧
  (∀ (link : Option RoomId) (s : State) (n : NodeRef) (e : NodeEntry) (p : Plan), s.entry n = some e → s.plan n = some p →
    e.role.family ≠ none →
    (p.target = none → examine link n s = s) ∧
    (∀ t, p.target = some t →
      let x := s.line n.line
      let light : Bool := e.role.family == some .lights
      let kind : CmdKind := match e.role.family with
        | some .lights => .setLevel
        | some .blinds => .setPosition
        | _ => .setFlow
      let item : Item := { node := n.addr, kind := kind, value := t.value, ramp := if light then t.ramp else 0
                           origin := if t.protect then .protect else .room, link := if light then link else none
                           passTag := none }
      let barred : Prop := (s.room e.room).state = .off ∨ e.health = .offline ∨ p.stalled = true ∨
        (e.role.family = some .blinds ∧ p.travel ≠ none ∧ p.lastSent = some t.value)
      let onItsWay : Option Item := match x.queued.find? fun it => it.node == n.addr && it.kind == kind with
        | some it => some it
        | none => x.inFlight.filter fun it => it.node == n.addr && it.kind == kind
      let due : Prop := match onItsWay with
        | some it => it.value ≠ t.value
        | none => p.lastSent ≠ some t.value ∨ p.confirmed = false
      (barred ∨ ¬ due → examine link n s = s) ∧
      (¬ barred → due →
        let u := examine link n s
        let r := x.offer item
        OnlyActuation s u ∧ u.line n.line = r.1 ∧ (∀ k, k ≠ n.line → u.line k = s.line k) ∧
        u.plan n = some { p with deferred := match r.2.2 with
          | .merged => false
          | .placed => false
          | .full => true
          | .down => p.deferred } ∧
        (∀ m q, m ≠ n → s.plan m = some q → u.plan m = some { q with deferred := q.deferred ||
          (m.line == n.line && r.2.1.any fun it => it.node == m.addr && it.origin == .room && !it.rivals item) }))))

/-- SET AIR DUTY and DUTY TIMER EXPIRY (R126, R127). A change of part has the room recomposed (R132). -/
def Obligations.AirDutyStartsAndAlternates : Prop :=
  (∀ (s : State) (tag : Byte) (ps : List Byte) (r : RoomId) (d : Duty), s.Takes 0x52 tag ps → dutyOf ps = .ok (r, d) →
    (s.room r).state ≠ .off → s.Settled →
    let inDuty : Prop := (s.room r).state = .run .vacant ∧ (s.room r).phase = .idle
    let v := onAir r (fun a => { a with waiting := some d }) (dropFrame s)
    (¬ (inDuty ∧ (s.air r).active.period = 0) → AnswersDone .setAirDuty s 0x52 tag [] v) ∧
    (inDuty → (s.air r).active.period = 0 →
      ∃ u, AnswersDone .setAirDuty s 0x52 tag [] u ∧ (u.air r).Begun d ∧ OnlyActuation (onAir r startPeriod v) u ∧
        KeepsOverrides s u ∧ KeepsPlansBut (fun q => q = r) s u ∧
        ((u.air r).part ≠ (s.air r).part → Recomposed s u r))) ∧
  (∀ (r : RoomId) (s : State), s.power = .ready → (s.air r).timer = some 0 → s.Settled →
    let a := s.air r
    ∃ t, exec (.dutyTimerExpiry r) s = .next t ∧
      (a.part = some .on → a.active.onTime ≠ a.active.period →
        (t.air r).part = some .off ∧ (t.air r).timer = some ((a.active.period - a.active.onTime) * 60000) ∧
        (t.air r).active = a.active ∧ (t.air r).waiting = a.waiting) ∧
      (a.part = some .off ∨ (a.part = some .on ∧ a.active.onTime = a.active.period) →
        (t.air r).Begun (a.waiting.getD a.active)) ∧
      OnlyActuation (onAir r RoomAir.expire s) t ∧ KeepsOverrides s t ∧ KeepsPlansBut (fun q => q = r) s t ∧ ((t.air r).part ≠ a.part → Recomposed s t r))

/-- ROOM SCENE and the panel actions (R128, R129): a scene replaces the override scene and clears the room's node
overrides; ROOM SCENE with none clears the override scene and keeps them. PANEL OFF stands for scene 0, and PANEL SCENE for
its fixed scene or the report's value; it is discarded by a JOINED room, for an empty place and for a value above 31. The
room is recomposed (R132). -/
def Obligations.RoomSceneSetsTheOverride : Prop :=
  (∀ (s : State) (tag : Byte) (ps : List Byte) (r : RoomId) (n : Option SceneNum), s.Takes 0x53 tag ps →
    roomSceneOf ps = .ok (r, n) → (∀ k, n = some k → s.loadedScene k ≠ none) → (s.room r).state ≠ .off →
    (s.room r).state ≠ .joined → s.Settled →
    ∃ u, AnswersDone .roomScene s 0x53 tag [] u ∧
      OnlyActuation (onRoom r (fun x => { x with overrideScene := n }) (dropFrame s)) u ∧
      (n ≠ none → ∀ m e q, s.entry m = some e → e.room = r → e.role.family ≠ none → u.plan m = some q →
        q.override = none) ∧
      (n = none → KeepsOverrides s u) ∧ KeepsPlansBut (fun q => q = r) s u ∧ Recomposed s u r) ∧
  (∀ (s : State) (r : RoomId) (node : NodeRef) (v : Half) (act : RoomAct) (n : Option SceneNum), (s.room r).state ≠ .off →
    s.Settled → s.ap.handed = [] → s.ap.freed = [] →
    (act = .panelOff ∧ n = some 0) ∨ (∃ k, act = .panelScene (some k) ∧ n = some k) ∨
      (act = .panelScene none ∧ n.map Fin.val = if v.toNat < 32 then some v.toNat else none) →
    ((s.room r).state = .joined ∨ n = none ∨ (∃ k, n = some k ∧ s.loadedScene k = none) →
      roomAction act node v r s = s) ∧
    (∀ k, n = some k → (s.room r).state ≠ .joined → s.loadedScene k ≠ none →
      OnlyActuation (onRoom r (fun x => { x with overrideScene := some k }) s) (roomAction act node v r s) ∧
      (∀ m e q, s.entry m = some e → e.room = r → e.role.family ≠ none → (roomAction act node v r s).plan m = some q →
        q.override = none) ∧ KeepsPlansBut (fun q => q = r) s (roomAction act node v r s) ∧
      Recomposed s (roomAction act node v r s) r))

/-- CANCEL TRAVEL and TRAVEL TIMER EXPIRY (R141, R139). -/
def Obligations.TravelIsCancelledOrStalls : Prop :=
  (∀ (s : State) (tag : Byte) (ps : List Byte) (n : NodeRef) (e : NodeEntry) (p : Plan), s.Takes 0x54 tag ps →
    nodeRefOf ps = .ok n → s.entry n = some e → e.role.isBlind = true → s.plan n = some p →
    s.travelBlocked n e = false → s.noStopPlace n = false → (s.line n.line).down = false → s.Settled →
    ∃ u q, AnswersDone .cancelTravel s 0x54 tag [] u ∧ OnlyActuation (dropFrame s) u ∧ u.plan n = some q ∧
      q.target = none ∧ q.override = p.override ∧ q.kept = { p.kept with target := none } ∧
      (∀ m, m ≠ n → (u.plan m).map Plan.kept = (s.plan m).map Plan.kept) ∧
      ∃ it ∈ (u.line n.line).urgent, it.node = n.addr ∧ it.kind = .stop ∧ it.origin = .manage ∧ it.passTag = none) ∧
  (∀ (l : LineId) (a : NodeAddr) (s : State) (p : Plan), s.power = .ready → s.plan ⟨l, a⟩ = some p →
    p.travel = some 0 →
    ∃ t q, exec (.travelTimerExpiry l a) s = .next t ∧ t.plan ⟨l, a⟩ = some q ∧ q.travel = none ∧ q.stalled = true ∧
      q.confirmed = false ∧ q.lastSent = p.lastSent ∧ q.target = p.target ∧ q.override = p.override ∧
      (∀ e, s.entry ⟨l, a⟩ = some e → (s.room e.room).state ≠ .off →
        CondSet.holds (t.notice e.room).conds .blindStall = true) ∧
      t.re = s.re ∧ t.tu = s.tu ∧ t.cl = s.cl ∧ t.pu = s.pu ∧ (∀ k, (t.line k).frame = (s.line k).frame) ∧
      (∀ m, m ≠ ⟨l, a⟩ → (t.plan m).map Plan.kept = (s.plan m).map Plan.kept))

/-! ### Chapter 7: protection -/

/-- The governing source of a room and family is the lowest-numbered one that is in force, holds the room and does not
HOLD the family; its response gives the protected value (R152, R122). -/
def Obligations.LowestSourceGoverns : Prop :=
  ∀ (s : State) (r : RoomId) (f : Family),
    let governs : SourceId → Prop := fun i =>
      (s.source i).state ≠ .idle ∧ (s.source i).cfg.rooms.getLsbD r.val = true ∧
        (match f with
          | .lights => (s.source i).cfg.lights
          | .blinds => (s.source i).cfg.blinds
          | .air => (s.source i).cfg.air) ≠ .hold
    (s.pu.governing r f = none ↔ ∀ i, ¬ governs i) ∧
    (∀ i, s.pu.governing r f = some i ↔ governs i ∧ ∀ j, j < i → ¬ governs j) ∧
    (s.pu.governing r f = none → s.protection r f = none) ∧
    (∀ i, s.pu.governing r f = some i → s.protection r f = some (match f with
      | .lights => if (s.source i).cfg.lights = .first then 1000 else 0
      | .blinds => if (s.source i).cfg.blinds = .first then 0 else 100
      | .air => if (s.source i).cfg.air = .first then 100 else 0))

/-- The assertion test moves a source by the table of R148, writes the wing report of R151, and touches no other
source. In the rooms it governs, protection is entered and left as `ProtectionFollows` says (R153 to R158): the
queued ROOM and PASS items and the node overrides of an entering family are gone, the room is recomposed, a stalled blind
keeps its stall, and is sent nothing, exactly when the protected position was its target's value already (R132, R139; the
model's reading of R155, log 36), and PROTECTION ENTERED or LEFT is held. A classifier claim, which `ReportIsCountedAndItsNodeHeard`
hands on from FAULT SET and FAULT CLEAR, sets or clears the source's classifier flag and is followed by that test; one that
finds the flag as it asks does nothing (R146). -/
def Obligations.AssertionTestFollowsTheTable : Prop :=
  (∀ (i : SourceId) (sets : Bool) (s : State),
    ((s.source i).classifierFlag = sets → claimFault i sets s = s) ∧
    ((s.source i).classifierFlag ≠ sets →
      claimFault i sets s = testAssertion i (onSource i (fun x => { x with classifierFlag := sets }) s))) ∧
  (∀ (i : SourceId) (s : State),
    let x := s.source i
    let on := x.asserted s.pu
    let t := testAssertion i s
    let reported : WingKind → Prop := fun k => t.nu.wing =
      if s.nu.wing.length < 16 then s.nu.wing ++ [{ kind := k, stamp := s.tu.clock, overflow := false }]
      else markNewest s.nu.wing
    ProtectionWork i s t ∧
    (x.state = .idle → on = true → t.source i = { x with state := .active } ∧ reported (.faultAsserted i)) ∧
    (x.state = .active → on = false → x.cfg.mode = .latched →
      t.source i = { x with state := .held } ∧ t.nu = s.nu) ∧
    (x.state = .active → on = false → x.cfg.mode = .auto → x.cfg.holdOff ≠ 0 →
      t.source i = { x with state := .clearing, timer := some (x.cfg.holdOff * 1000) } ∧ t.nu = s.nu) ∧
    (x.state = .active → on = false → x.cfg.mode = .auto → x.cfg.holdOff = 0 →
      t.source i = { x with state := .idle, timer := none } ∧ reported (.faultEnded i)) ∧
    (x.state = .clearing → on = true → t.source i = { x with state := .active, timer := none } ∧ t.nu = s.nu) ∧
    (x.state = .held → on = true → t.source i = { x with state := .active } ∧ t.nu = s.nu) ∧
    ((x.state = .active ↔ on = true) → t = s))

/-- LOAD FAULT, RAISE FAULT, DROP FAULT, CLEAR FAULT and HOLD OFF EXPIRY (R144, R147, R149, R150) on a source. -/
def Obligations.FaultCommandsMoveTheirSource : Prop :=
  (∀ (s : State) (tag : Byte) (ps : List Byte) (i : SourceId) (cfg : FaultConfig), s.Takes 0x60 tag ps →
    faultOf ps = .ok (i, cfg) → (s.source i).state = .idle → (s.source i).classifierFlag = false →
    (s.source i).supervisorFlag = false →
    ∃ u, AnswersDone .loadFault s 0x60 tag [] u ∧ ProtectionWork i (dropFrame s) u ∧
      u.source i = { s.source i with cfg := cfg, state := if ∃ p, cfg.pin = some p ∧ look s.pu.pins p = true
                                                          then .active else .idle }) ∧
  (∀ (s : State) (tag : Byte) (ps : List Byte) (i : SourceId), s.Takes 0x61 tag ps → oneByte 8 ps = .ok i →
    ((s.source i).supervisorFlag = true → AnswersDone .raiseFault s 0x61 tag [] (dropFrame s)) ∧
    ((s.source i).supervisorFlag = false →
      ∃ u, AnswersDone .raiseFault s 0x61 tag [] u ∧ ProtectionWork i (dropFrame s) u ∧
        (u.source i).cfg = (s.source i).cfg ∧ (u.source i).supervisorFlag = true ∧ (u.source i).state = .active ∧
        (u.source i).classifierFlag = (s.source i).classifierFlag)) ∧
  (∀ (s : State) (tag : Byte) (ps : List Byte) (i : SourceId), s.Takes 0x62 tag ps → oneByte 8 ps = .ok i →
    let x := s.source i
    (x.supervisorFlag = false → x.classifierFlag = false → AnswersDone .dropFault s 0x62 tag [] (dropFrame s)) ∧
    (x.supervisorFlag = true ∨ x.classifierFlag = true →
      ∃ u, AnswersDone .dropFault s 0x62 tag [] u ∧ ProtectionWork i (dropFrame s) u ∧
        (u.source i).supervisorFlag = false ∧ (u.source i).classifierFlag = false ∧ (u.source i).cfg = x.cfg ∧
        (x.state = .active → (∀ p, x.cfg.pin = some p → look s.pu.pins p = false) →
          (u.source i).state = match x.cfg.mode with
            | .latched => .held
            | .auto => if x.cfg.holdOff = 0 then .idle else .clearing) ∧
        (x.state = .active → (∃ p, x.cfg.pin = some p ∧ look s.pu.pins p = true) → (u.source i).state = .active))) ∧
  (∀ (s : State) (tag : Byte) (ps : List Byte) (i : SourceId), s.Takes 0x63 tag ps → oneByte 8 ps = .ok i →
    (s.source i).state = .clearing ∨ (s.source i).state = .held →
    ∃ u, AnswersDone .clearFault s 0x63 tag [] u ∧ ProtectionWork i (dropFrame s) u ∧
      u.source i = { s.source i with state := .idle, timer := none } ∧
      u.nu.wing = (if s.nu.wing.length < 16 then
        s.nu.wing ++ [{ kind := .faultEnded i, stamp := s.tu.clock, overflow := false }] else markNewest s.nu.wing)) ∧
  (∀ (i : SourceId) (s : State), s.power = .ready → (s.source i).timer = some 0 →
    ∃ t, exec (.holdOffExpiry i) s = .next t ∧ ProtectionWork i s t ∧
      t.source i = { s.source i with state := .idle, timer := none } ∧
      t.nu.wing = (if s.nu.wing.length < 16 then
        s.nu.wing ++ [{ kind := .faultEnded i, stamp := s.tu.clock, overflow := false }] else markNewest s.nu.wing))

/-- FAULT PIN CHANGE (R145, R148): the level is kept, and every source that names the pin follows it, to ACTIVE or to the
state its mode gives; a level that is the one held changes nothing. Where one source names the pin, its rooms enter and
leave protection as `ProtectionFollows` says (R153, R154, R156) and FAULT ASSERTED or FAULT ENDED is written when it goes
into or out of force (R151). The order of several sources is free (log 4). -/
def Obligations.FaultPinDrivesItsSources : Prop :=
  ∀ (p : PinId) (low : Bool) (s : State), s.power = .ready →
    (look s.pu.pins p = low → exec (.faultPinChange p low) s = .next s) ∧
    (look s.pu.pins p ≠ low → s.SourcesLawful →
      ∃ t, exec (.faultPinChange p low) s = .next t ∧ t.pu.pins = put s.pu.pins p low ∧ t.SourcesLawful ∧
        (∀ i, (s.source i).cfg.pin ≠ some p → t.source i = s.source i) ∧
        (∀ i, (s.source i).cfg.pin = some p → low = true → (t.source i).state = .active) ∧
        (∀ i, (t.source i).cfg = (s.source i).cfg ∧ (t.source i).classifierFlag = (s.source i).classifierFlag ∧
          (t.source i).supervisorFlag = (s.source i).supervisorFlag) ∧
        (∀ i, (s.source i).cfg.pin = some p →
          let x := s.source i
          let flagged : Prop := x.classifierFlag = true ∨ x.supervisorFlag = true
          (low = true → t.source i = { x with state := .active, timer := none }) ∧
          (low = false → flagged → t.source i = x) ∧
          (low = false → ¬ flagged → t.source i = match x.cfg.mode with
            | .latched => { x with state := .held }
            | .auto => if x.cfg.holdOff = 0 then { x with state := .idle, timer := none }
                       else { x with state := .clearing, timer := some (x.cfg.holdOff * 1000) })) ∧
        (let moved : State := { s with pu := { s.pu with pins := put s.pu.pins p low }, choices := s.choices + 1 }
         ((∀ j, (s.source j).cfg.pin ≠ some p) → t = moved) ∧
         ∀ i, (∀ j, (s.source j).cfg.pin = some p ↔ j = i) → ProtectionWork i moved t ∧
           let reported : WingKind → List WingReport := fun k =>
             if s.nu.wing.length < 16 then s.nu.wing ++ [{ kind := k, stamp := s.tu.clock, overflow := false }]
             else markNewest s.nu.wing
           t.nu.wing = if (s.source i).state = .idle ∧ low = true then reported (.faultAsserted i)
             else if (t.source i).state = .idle then reported (.faultEnded i) else s.nu.wing) ∧
        t.re = s.re ∧ t.tu = s.tu ∧ t.cl = s.cl ∧ (∀ l, (t.line l).frame = (s.line l).frame))

/-! ### Chapter 8: suites -/

/-- LOAD SUITE and DROP SUITE (R162, R163). DROP SUITE of a JOINED suite splits it first (R171): every member takes the state
of its own presence and phase, with STATE CHANGED, its node overrides cleared. Once the suite's bookings and the memberships
are gone the former members are re-selected (R108): one that keeps its occurrence keeps cursor, phase, kind and booking scene;
another is given cursor and phase by catch-up, and its state follows that report (R80). That the selection decides for a member
on a booking of its own too is log 37. -/
def Obligations.SuitesAreLoadedAndDropped : Prop :=
  (∀ (s : State) (tag : Byte) (ps : List Byte) (g : SuiteId) (members : List RoomId) (scene : SceneNum),
    s.Takes 0x70 tag ps → suiteOf ps = .ok (g, members, scene) → s.suiteBlocked g members = false →
    ∃ u, AnswersDone .loadSuite s 0x70 tag [] u ∧ { u with re := s.re } = dropFrame s ∧
      u.suite g = some { members := members, adHocScene := scene, occ := none, seen := false, linger := none } ∧
      (∀ k, k ≠ g → u.suite k = s.suite k) ∧
      (∀ r, u.room r = { s.room r with
        suite := if r ∈ members then some g else if r ∈ s.members g then none else (s.room r).suite })) ∧
  (∀ (s : State) (tag : Byte) (ps : List Byte) (g : SuiteId) (x : Suite), s.Takes 0x71 tag ps → oneByte 8 ps = .ok g →
    s.suite g = some x →
    ∃ u, AnswersDone .dropSuite s 0x71 tag [] u ∧ u.suite g = none ∧ (∀ k, k ≠ g → u.suite k = s.suite k) ∧
      u.tu.store = s.tu.store.filter (fun b => b.target ≠ .suite g) ∧
      (∀ r, (u.room r).suite = if r ∈ x.members then none else (s.room r).suite) ∧
      (∀ r, r ∉ x.members → u.room r = s.room r ∧ (u.time r).cursor = (s.time r).cursor) ∧
      (let v := setMembership x.members none (removeBookings (fun b => b.target == .suite g) (dropFrame s))
       s.Occupancy → ∀ r ∈ x.members,
         let y := u.room r
         let same : Prop := (s.time r).cursor.map Cursor.occ = ((v.select r).map fun f => ⟨f.1.id, f.2⟩)
         (u.time r).cursor.map Cursor.occ = ((v.select r).map fun f => ⟨f.1.id, f.2⟩) ∧
         (same → (u.time r).cursor = (s.time r).cursor ∧ y.KeepsReport (s.room r)) ∧
         (¬ same → let found := catchUp s.tu.clock (v.select r)
           (u.time r).cursor = found.1 ∧ y.TookReport found.2 ∧
           ∀ n e p t, s.entry n = some e → e.room = r → s.plan n = some p →
             ∃ q, u.plan n = some q ∧ (compose u r e.role q = some t → q.target = some t)) ∧
         (x.occ ≠ none →
           y.state = .run (if y.presence = true then .occupied else y.phase.place) ∧ y.linger = none ∧
           y.overrideScene = none ∧ u.NoOverrides r ∧ (y.state = .run .vacant → y.boost = false) ∧
           CondSet.holds (u.notice r).conds .stateChanged = true ∧ (same → y.seen = (s.room r).seen ∧ Recomposed s u r)) ∧
         (∀ o, (s.room r).state = .run o → x.occ = none →
           (same → y = { s.room r with suite := none }) ∧
           (¬ same → y.state = .run (if o = .occupied ∨ o = .linger then o else y.phase.place) ∧ Recomposed s u r ∧
             (y.state = .run .vacant → o ≠ .vacant → u.Vacated r) ∧
             (y.state ≠ .run o → CondSet.holds (u.notice r).conds .stateChanged = true)))) ∧
      (∀ r, (u.room r).cfg = (s.room r).cfg ∧ (u.room r).head = (s.room r).head ∧
        (u.room r).motionHold = (s.room r).motionHold ∧ (u.room r).windows = (s.room r).windows) ∧
      u.pu = s.pu ∧ u.cl = s.cl ∧ u.nu.wing = s.nu.wing ∧ (∀ l, (u.line l).frame = (s.line l).frame))

/-- A suite joins and splits (R164, R165, R171): the suite's record, the members' states, their node overrides cleared, their
standby duty left at the join and entered at the split (R126), what entry to VACANT clears at the split (R82), every member
recomposed, and nothing of the other rooms. On an empty place a partition action does nothing (R164). -/
def Obligations.PartitionJoinsAndSplits : Prop :=
  (∀ (opens : Bool) (g : SuiteId) (s : State), s.suite g = none → partitionAction opens g s = s) ∧
  (∀ (g : SuiteId) (x : Suite) (s : State), s.suite g = some x → s.Occupancy →
    (x.occ = none → partitionAction false g s = s) ∧
    (x.occ ≠ none → partitionAction true g s = s) ∧
    (x.occ = none →
      let t := partitionAction true g s
      t.suite g = some { x with
        occ := some (reentry (s.suitePresence g) (s.effectivePhase g))
        seen := x.members.any fun r => (s.room r).seen, linger := none } ∧
      (∀ r ∈ x.members, t.room r = { s.room r with state := .joined, linger := none, overrideScene := none } ∧
        CondSet.holds (t.notice r).conds .stateChanged = true ∧ t.NoOverrides r ∧ DutyFollows s t r) ∧
      (∀ r ∈ x.members, Recomposed s t r) ∧ KeepsPlansBut (fun r => r ∈ x.members) s t ∧
      (∀ r, r ∉ x.members → t.room r = s.room r) ∧ (∀ k, k ≠ g → t.suite k = s.suite k) ∧ RoomWork s t) ∧
    (x.occ ≠ none →
      let t := partitionAction false g s
      t.suite g = some { x with occ := none, seen := false, linger := none } ∧
      (∀ r ∈ x.members,
        let o := reentry (s.room r).presence (s.room r).phase
        t.room r = { s.room r with
          state := .run o, linger := none, overrideScene := none
          boost := if o = .vacant then false else (s.room r).boost } ∧
        CondSet.holds (t.notice r).conds .stateChanged = true ∧ t.NoOverrides r ∧ DutyFollows s t r) ∧
      (∀ r ∈ x.members, Recomposed s t r) ∧ KeepsPlansBut (fun r => r ∈ x.members) s t ∧
      (∀ r, r ∉ x.members → t.room r = s.room r) ∧ (∀ k, k ≠ g → t.suite k = s.suite k) ∧ RoomWork s t))

/-! ### Chapter 9: status and notices -/

/-- COLLECT STATUS (R179), NEXT PENDING (R181) and SET NOTICE MASK (R177), with what a NOTICE carries (R175, R16) and what
becomes of an offered NOTICE or MIRROR (R6, R15): it joins the transmit queue while that holds 11 frames or fewer, and is
else dropped and counted. -/
def Obligations.StatusIsCollectedAndListed : Prop :=
  (∀ (s : State) (tag : Byte) (ps : List Byte) (r : RoomId), s.Takes 0x80 tag ps → oneByte 48 ps = .ok r →
    (s.room r).state ≠ .off →
    ((s.notice r).pending = false → AnswersDone .collectStatus s 0x80 tag (s.statusRecord r) (dropFrame s)) ∧
    ((s.notice r).pending = true →
      AnswersDone .collectStatus s 0x80 tag (s.statusRecord r)
        { dropFrame s with nu := { s.nu with
          rooms := put s.nu.rooms r { s.notice r with conds := 0, pending := false }
          pendingList := s.nu.pendingList.filter (· != r) } })) ∧
  (∀ (s : State) (tag : Byte), s.Takes 0x82 tag [] →
    ((∀ r ∈ s.nu.pendingList, s.nu.mask.getLsbD (s.notice r).cls.val = false) →
      AnswersDone .nextPending s 0x82 tag [0] (dropFrame s)) ∧
    (∀ before r after, s.nu.pendingList = before ++ r :: after → r ∉ before → r ∉ after →
      (∀ q ∈ before, s.nu.mask.getLsbD (s.notice q).cls.val = false) →
      s.nu.mask.getLsbD (s.notice r).cls.val = true →
      let u : State := { dropFrame s with nu := { s.nu with pendingList := before ++ after } }
      AnswersDone .nextPending s 0x82 tag (1 :: u.statusRecord r) u)) ∧
  (∀ (s : State) (tag m : Byte), s.Takes 0x83 tag [m] →
    ∃ u, AnswersDone .setNoticeMask s 0x83 tag [] u ∧
      { u with ti := (dropFrame s).ti, nu := s.nu } = dropFrame s ∧ u.nu = { s.nu with mask := m.truncate 4 } ∧
      u.ti.rx = s.ti.rx.tail ∧ u.ti.address = s.ti.address ∧
      (let fresh := s.nu.pendingList.filter fun r =>
        !s.nu.mask.getLsbD (s.notice r).cls.val && m.getLsbD (s.notice r).cls.val
       let places := 12 - s.ti.tx.length
       u.ti.tx = s.ti.tx ++ (fresh.take places).map s.noticeFrame ∧
       u.ti.counts = { s.ti.counts with
         noticesDropped := s.ti.counts.noticesDropped + BitVec.ofNat 32 (fresh.drop places).length })) ∧
  (∀ (s : State) (r : RoomId),
    let n := s.notice r
    s.noticeFrame r = { kind := .notice, tag := 0
                        payload := [byteOf r.val] ++ bytes4 n.tag ++ [byteOf n.cls.val] ++ bytes2 (n.conds.zeroExtend 16) }) ∧
  (∀ (f : TxFrame) (s : State), f.kind = .notice ∨ f.kind = .mirror →
    let c := s.ti.counts
    (s.ti.tx.length ≤ 11 → offerTx f s = { s with ti := { s.ti with tx := s.ti.tx ++ [f] } }) ∧
    (12 ≤ s.ti.tx.length → f.kind = .notice →
      offerTx f s = { s with ti := { s.ti with counts := { c with noticesDropped := c.noticesDropped + 1 } } }) ∧
    (12 ≤ s.ti.tx.length → f.kind = .mirror →
      offerTx f s = { s with ti := { s.ti with counts := { c with mirrorsDropped := c.mirrorsDropped + 1 } } }))

/-- A condition raised against a room (R174). At the end of the event one NOTICE is built for each room that it made
pending, with the conditions as they then stand, and is dropped and counted when the transmit queue holds 12 frames (R175,
R6; what one event is: log 11). READ WING REPORT (R185, R60): the oldest entry leaves and is returned; a
STRANGER entry clears its line's flag. Wing reports and strangers (R184, R59): an entry is written while there is a place; a
full queue keeps its entries and marks the newest; a stranger is written once for its line, and tried again after a loss. -/
def Obligations.ConditionsAndWingReportsAreKept : Prop :=
  (∀ (c : Condition) (r : RoomId) (s : State),
      ((s.room r).state = .off → raise c r s = s) ∧
      ((s.room r).state ≠ .off →
        let n := s.notice r
        let t := raise c r s
        let conds := n.conds ||| (1#10 <<< c.code)
        { t with nu := s.nu } = s ∧ (∀ q, q ≠ r → t.notice q = s.notice q) ∧ t.nu.mask = s.nu.mask ∧
        t.nu.wing = s.nu.wing ∧
        (n.notify.getLsbD c.code = true → n.pending = false →
          t.notice r = { n with conds := conds, pending := true } ∧ t.nu.pendingList = s.nu.pendingList ++ [r] ∧
          t.nu.due = if s.nu.mask.getLsbD n.cls.val then s.nu.due ++ [r] else s.nu.due) ∧
        (n.notify.getLsbD c.code = false ∨ n.pending = true →
          t.notice r = { n with conds := conds } ∧ t.nu.pendingList = s.nu.pendingList ∧ t.nu.due = s.nu.due))) ∧
  (∀ s : State,
    let t := endEvent s
    let places := 12 - s.ti.tx.length
    t.nu = { s.nu with due := [] } ∧ t.ti.tx = s.ti.tx ++ (s.nu.due.take places).map s.noticeFrame ∧
    t.ti.counts = { s.ti.counts with
      noticesDropped := s.ti.counts.noticesDropped + BitVec.ofNat 32 (s.nu.due.drop places).length }) ∧
  (∀ (s : State) (tag : Byte) (ps : List Byte), s.Takes 0x84 tag ps →
     (ps ≠ [] → exec .readWingReport s =
       .next (pushTx { kind := .reply, tag := tag, payload := [0x84, 1] } (dropFrame s))) ∧
     (ps = [] → s.nu.wing = [] → AnswersDone .readWingReport s 0x84 tag [0] (dropFrame s)) ∧
     (∀ w rest, ps = [] → s.nu.wing = w :: rest →
       ∃ u, AnswersDone .readWingReport s 0x84 tag (1 :: w.bytes) u ∧
         { u with nu := s.nu, cl := s.cl } = dropFrame s ∧ u.nu = { s.nu with wing := rest } ∧
         u.cl.rules = s.cl.rules ∧
         (∀ l, look u.cl.strangers l = if ∃ n, w.kind = .stranger l n then false else look s.cl.strangers l))) ∧
  ((∀ (k : WingKind) (s : State),
     let t := writeWing k s
     { t with nu := s.nu } = s ∧ t.nu.rooms = s.nu.rooms ∧ t.nu.pendingList = s.nu.pendingList ∧
     (s.nu.wing.length < 16 → t.nu.wing = s.nu.wing ++ [{ kind := k, stamp := s.tu.clock, overflow := false }]) ∧
     (16 ≤ s.nu.wing.length → ∀ older newest, s.nu.wing = older ++ [newest] →
       t.nu.wing = older ++ [{ newest with overflow := true }])) ∧
   (∀ (n : NodeRef) (s : State),
     (look s.cl.strangers n.line = true → noteStranger n s = s) ∧
     (look s.cl.strangers n.line = false → s.nu.wing.length < 16 →
       (noteStranger n s).nu.wing =
         s.nu.wing ++ [{ kind := .stranger n.line n.addr, stamp := s.tu.clock, overflow := false }] ∧
       (noteStranger n s).cl.strangers = put s.cl.strangers n.line true) ∧
     (look s.cl.strangers n.line = false → 16 ≤ s.nu.wing.length →
       (noteStranger n s).cl = s.cl ∧ (noteStranger n s).nu.wing = markNewest s.nu.wing)))

/-! ### What the part sends reads back -/

/-- ENCODING (R16): a booking record the part returns, and a context record it saves, read back as what they hold. -/
def Obligations.RecordsReadBack : Prop :=
  (∀ b : Booking, b.inRange = true → b.id ≤ 65535 → bookingOf b.bytes = .ok b) ∧
  (∀ (r : RoomId) (c : Context), c.head ≤ 65535 → (∀ id, c.cursor = some id → 1 ≤ id ∧ id ≤ 65535) →
    (∀ t ∈ [c.motionHold, c.linger, c.stillness], ∀ n, t = some n → n < 65535) → c.overrides.length ≤ 16 →
    (∀ o ∈ c.overrides, o.1.addr ≠ 0 ∧ o.2 ≤ 65535) → restoreOf (byteOf r.val :: c.bytes) = .ok (r, c))

/-! ### What every step keeps -/

/-- No buffer, queue, store or set outgrows its places, and the head estimates and the clock stay in their ranges
(R4, R6, R22, R67, R74, R90, R95, R183). -/
def Obligations.BoundsAreKept : Prop :=
  ∀ s t : State, s.Fits → s.InRange → step s = .next t → t.Fits ∧ t.InRange

/-- The pending list names each room once and only pending rooms (R176), no NOTICE is owed between events (R175; log 11),
and the booking store keeps list order and unique ids (R95, R96). -/
def Obligations.ListsAreKept : Prop :=
  (∀ s t : State, s.Lists → s.Settled → step s = .next t → t.Lists ∧ t.Settled) ∧
  (∀ s t : State, s.StoreOrdered → step s = .next t → t.StoreOrdered)

/-- A line queue holds never two items for one node and kind, and each band items of its own origins (R21, R22). On each
line the items accepted equal those ended, queued and in flight (R42), after LINE CONTROL RESTART too (log 12). -/
def Obligations.LineQueuesAndSumsAreKept : Prop :=
  (∀ s t : State, (∀ l, (s.line l).Queue) → step s = .next t → ∀ l, (t.line l).Queue) ∧
  (∀ s t : State, (∀ l, (s.line l).Balanced) → step s = .next t → ∀ l, (t.line l).Balanced)

/-- The law of the fault sources (R148). -/
def Obligations.SourceLawIsKept : Prop :=
  ∀ s t : State, s.SourcesLawful → step s = .next t → t.SourcesLawful

/-- The law of rooms and suites (R62, R77, R160, R165 to R168). -/
def Obligations.OccupancyLawIsKept : Prop :=
  ∀ s t : State, s.Occupancy → s.OffIsEmpty → step s = .next t → t.Occupancy ∧ t.OffIsEmpty
end

