-- ==== Sys2Proof/Laws/State.lean ====
section
/-!
SUPPORT. One lemma per field per update: an update of one block leaves every other block as it was. And the table
lemmas: what a place holds after a write.
-/

namespace Sys2Proof

/-! ### Tables -/

@[simp] theorem look_put_same {n : Nat} {α : Type} (t : Vector α n) (i : Fin n) (x : α) : look (put t i x) i = x := by
  exact Vector.getElem_set_self i.isLt

theorem look_put_ne {n : Nat} {α : Type} (t : Vector α n) {i j : Fin n} (h : j ≠ i) (x : α) :
    look (put t i x) j = look t j := by
  have hij : i.val ≠ j.val := fun e => h (Fin.ext e.symm)
  exact Vector.getElem_set_ne i.isLt j.isLt hij

theorem look_put {n : Nat} {α : Type} (t : Vector α n) (i j : Fin n) (x : α) :
    look (put t i x) j = if j = i then x else look t j := by
  by_cases h : j = i
  · subst h; simp
  · rw [look_put_ne t h, if_neg h]

@[simp] theorem look_filled {n : Nat} {α : Type} (x : α) (i : Fin n) : look (filled n x) i = x := by
  simp [look, filled, Vector.get]

@[simp] theorem look_map {n : Nat} {α β : Type} (t : Vector α n) (f : α → β) (i : Fin n) :
    look (t.map f) i = f (look t i) := by
  simp [look, Vector.get]

@[simp] theorem put_look {n : Nat} {α : Type} (t : Vector α n) (i : Fin n) : put t i (look t i) = t := by
  exact Vector.set_getElem_self i.isLt

end Sys2Proof

namespace Sys2Proof.Machine

/-! ### A block's update leaves the others -/

@[simp] theorem onRoom_power (r : RoomId) (f : Room → Room) (s : State) : (onRoom r f s).power = s.power := rfl
@[simp] theorem onRoom_deaf (r : RoomId) (f : Room → Room) (s : State) : (onRoom r f s).deaf = s.deaf := rfl
@[simp] theorem onRoom_resetStage (r : RoomId) (f : Room → Room) (s : State) : (onRoom r f s).resetStage = s.resetStage := rfl
@[simp] theorem onRoom_ti (r : RoomId) (f : Room → Room) (s : State) : (onRoom r f s).ti = s.ti := rfl
@[simp] theorem onRoom_lc (r : RoomId) (f : Room → Room) (s : State) : (onRoom r f s).lc = s.lc := rfl
@[simp] theorem onRoom_cl (r : RoomId) (f : Room → Room) (s : State) : (onRoom r f s).cl = s.cl := rfl
@[simp] theorem onRoom_tu (r : RoomId) (f : Room → Room) (s : State) : (onRoom r f s).tu = s.tu := rfl
@[simp] theorem onRoom_ap (r : RoomId) (f : Room → Room) (s : State) : (onRoom r f s).ap = s.ap := rfl
@[simp] theorem onRoom_pu (r : RoomId) (f : Room → Room) (s : State) : (onRoom r f s).pu = s.pu := rfl
@[simp] theorem onRoom_nu (r : RoomId) (f : Room → Room) (s : State) : (onRoom r f s).nu = s.nu := rfl
@[simp] theorem onRoom_pending (r : RoomId) (f : Room → Room) (s : State) : (onRoom r f s).pending = s.pending := rfl
@[simp] theorem onRoom_choices (r : RoomId) (f : Room → Room) (s : State) : (onRoom r f s).choices = s.choices := rfl

@[simp] theorem setSuite_power (g : SuiteId) (x : Option Suite) (s : State) : (setSuite g x s).power = s.power := rfl
@[simp] theorem setSuite_deaf (g : SuiteId) (x : Option Suite) (s : State) : (setSuite g x s).deaf = s.deaf := rfl
@[simp] theorem setSuite_resetStage (g : SuiteId) (x : Option Suite) (s : State) : (setSuite g x s).resetStage = s.resetStage := rfl
@[simp] theorem setSuite_ti (g : SuiteId) (x : Option Suite) (s : State) : (setSuite g x s).ti = s.ti := rfl
@[simp] theorem setSuite_lc (g : SuiteId) (x : Option Suite) (s : State) : (setSuite g x s).lc = s.lc := rfl
@[simp] theorem setSuite_cl (g : SuiteId) (x : Option Suite) (s : State) : (setSuite g x s).cl = s.cl := rfl
@[simp] theorem setSuite_tu (g : SuiteId) (x : Option Suite) (s : State) : (setSuite g x s).tu = s.tu := rfl
@[simp] theorem setSuite_ap (g : SuiteId) (x : Option Suite) (s : State) : (setSuite g x s).ap = s.ap := rfl
@[simp] theorem setSuite_pu (g : SuiteId) (x : Option Suite) (s : State) : (setSuite g x s).pu = s.pu := rfl
@[simp] theorem setSuite_nu (g : SuiteId) (x : Option Suite) (s : State) : (setSuite g x s).nu = s.nu := rfl
@[simp] theorem setSuite_pending (g : SuiteId) (x : Option Suite) (s : State) : (setSuite g x s).pending = s.pending := rfl
@[simp] theorem setSuite_choices (g : SuiteId) (x : Option Suite) (s : State) : (setSuite g x s).choices = s.choices := rfl

@[simp] theorem onSuite_power (g : SuiteId) (f : Suite → Suite) (s : State) : (onSuite g f s).power = s.power := rfl
@[simp] theorem onSuite_deaf (g : SuiteId) (f : Suite → Suite) (s : State) : (onSuite g f s).deaf = s.deaf := rfl
@[simp] theorem onSuite_resetStage (g : SuiteId) (f : Suite → Suite) (s : State) : (onSuite g f s).resetStage = s.resetStage := rfl
@[simp] theorem onSuite_ti (g : SuiteId) (f : Suite → Suite) (s : State) : (onSuite g f s).ti = s.ti := rfl
@[simp] theorem onSuite_lc (g : SuiteId) (f : Suite → Suite) (s : State) : (onSuite g f s).lc = s.lc := rfl
@[simp] theorem onSuite_cl (g : SuiteId) (f : Suite → Suite) (s : State) : (onSuite g f s).cl = s.cl := rfl
@[simp] theorem onSuite_tu (g : SuiteId) (f : Suite → Suite) (s : State) : (onSuite g f s).tu = s.tu := rfl
@[simp] theorem onSuite_ap (g : SuiteId) (f : Suite → Suite) (s : State) : (onSuite g f s).ap = s.ap := rfl
@[simp] theorem onSuite_pu (g : SuiteId) (f : Suite → Suite) (s : State) : (onSuite g f s).pu = s.pu := rfl
@[simp] theorem onSuite_nu (g : SuiteId) (f : Suite → Suite) (s : State) : (onSuite g f s).nu = s.nu := rfl
@[simp] theorem onSuite_pending (g : SuiteId) (f : Suite → Suite) (s : State) : (onSuite g f s).pending = s.pending := rfl
@[simp] theorem onSuite_choices (g : SuiteId) (f : Suite → Suite) (s : State) : (onSuite g f s).choices = s.choices := rfl

@[simp] theorem onLine_power (l : LineId) (f : Line → Line) (s : State) : (onLine l f s).power = s.power := rfl
@[simp] theorem onLine_deaf (l : LineId) (f : Line → Line) (s : State) : (onLine l f s).deaf = s.deaf := rfl
@[simp] theorem onLine_resetStage (l : LineId) (f : Line → Line) (s : State) : (onLine l f s).resetStage = s.resetStage := rfl
@[simp] theorem onLine_ti (l : LineId) (f : Line → Line) (s : State) : (onLine l f s).ti = s.ti := rfl
@[simp] theorem onLine_cl (l : LineId) (f : Line → Line) (s : State) : (onLine l f s).cl = s.cl := rfl
@[simp] theorem onLine_re (l : LineId) (f : Line → Line) (s : State) : (onLine l f s).re = s.re := rfl
@[simp] theorem onLine_tu (l : LineId) (f : Line → Line) (s : State) : (onLine l f s).tu = s.tu := rfl
@[simp] theorem onLine_ap (l : LineId) (f : Line → Line) (s : State) : (onLine l f s).ap = s.ap := rfl
@[simp] theorem onLine_pu (l : LineId) (f : Line → Line) (s : State) : (onLine l f s).pu = s.pu := rfl
@[simp] theorem onLine_nu (l : LineId) (f : Line → Line) (s : State) : (onLine l f s).nu = s.nu := rfl
@[simp] theorem onLine_pending (l : LineId) (f : Line → Line) (s : State) : (onLine l f s).pending = s.pending := rfl
@[simp] theorem onLine_choices (l : LineId) (f : Line → Line) (s : State) : (onLine l f s).choices = s.choices := rfl

@[simp] theorem setEntry_power (n : NodeRef) (x : Option NodeEntry) (s : State) : (setEntry n x s).power = s.power := rfl
@[simp] theorem setEntry_deaf (n : NodeRef) (x : Option NodeEntry) (s : State) : (setEntry n x s).deaf = s.deaf := rfl
@[simp] theorem setEntry_resetStage (n : NodeRef) (x : Option NodeEntry) (s : State) : (setEntry n x s).resetStage = s.resetStage := rfl
@[simp] theorem setEntry_ti (n : NodeRef) (x : Option NodeEntry) (s : State) : (setEntry n x s).ti = s.ti := rfl
@[simp] theorem setEntry_cl (n : NodeRef) (x : Option NodeEntry) (s : State) : (setEntry n x s).cl = s.cl := rfl
@[simp] theorem setEntry_re (n : NodeRef) (x : Option NodeEntry) (s : State) : (setEntry n x s).re = s.re := rfl
@[simp] theorem setEntry_tu (n : NodeRef) (x : Option NodeEntry) (s : State) : (setEntry n x s).tu = s.tu := rfl
@[simp] theorem setEntry_ap (n : NodeRef) (x : Option NodeEntry) (s : State) : (setEntry n x s).ap = s.ap := rfl
@[simp] theorem setEntry_pu (n : NodeRef) (x : Option NodeEntry) (s : State) : (setEntry n x s).pu = s.pu := rfl
@[simp] theorem setEntry_nu (n : NodeRef) (x : Option NodeEntry) (s : State) : (setEntry n x s).nu = s.nu := rfl
@[simp] theorem setEntry_pending (n : NodeRef) (x : Option NodeEntry) (s : State) : (setEntry n x s).pending = s.pending := rfl
@[simp] theorem setEntry_choices (n : NodeRef) (x : Option NodeEntry) (s : State) : (setEntry n x s).choices = s.choices := rfl

@[simp] theorem onEntry_power (n : NodeRef) (f : NodeEntry → NodeEntry) (s : State) : (onEntry n f s).power = s.power := rfl
@[simp] theorem onEntry_deaf (n : NodeRef) (f : NodeEntry → NodeEntry) (s : State) : (onEntry n f s).deaf = s.deaf := rfl
@[simp] theorem onEntry_resetStage (n : NodeRef) (f : NodeEntry → NodeEntry) (s : State) : (onEntry n f s).resetStage = s.resetStage := rfl
@[simp] theorem onEntry_ti (n : NodeRef) (f : NodeEntry → NodeEntry) (s : State) : (onEntry n f s).ti = s.ti := rfl
@[simp] theorem onEntry_cl (n : NodeRef) (f : NodeEntry → NodeEntry) (s : State) : (onEntry n f s).cl = s.cl := rfl
@[simp] theorem onEntry_re (n : NodeRef) (f : NodeEntry → NodeEntry) (s : State) : (onEntry n f s).re = s.re := rfl
@[simp] theorem onEntry_tu (n : NodeRef) (f : NodeEntry → NodeEntry) (s : State) : (onEntry n f s).tu = s.tu := rfl
@[simp] theorem onEntry_ap (n : NodeRef) (f : NodeEntry → NodeEntry) (s : State) : (onEntry n f s).ap = s.ap := rfl
@[simp] theorem onEntry_pu (n : NodeRef) (f : NodeEntry → NodeEntry) (s : State) : (onEntry n f s).pu = s.pu := rfl
@[simp] theorem onEntry_nu (n : NodeRef) (f : NodeEntry → NodeEntry) (s : State) : (onEntry n f s).nu = s.nu := rfl
@[simp] theorem onEntry_pending (n : NodeRef) (f : NodeEntry → NodeEntry) (s : State) : (onEntry n f s).pending = s.pending := rfl
@[simp] theorem onEntry_choices (n : NodeRef) (f : NodeEntry → NodeEntry) (s : State) : (onEntry n f s).choices = s.choices := rfl

@[simp] theorem countLine_power (l : LineId) (f : LineCounts → LineCounts) (s : State) : (countLine l f s).power = s.power := rfl
@[simp] theorem countLine_deaf (l : LineId) (f : LineCounts → LineCounts) (s : State) : (countLine l f s).deaf = s.deaf := rfl
@[simp] theorem countLine_resetStage (l : LineId) (f : LineCounts → LineCounts) (s : State) : (countLine l f s).resetStage = s.resetStage := rfl
@[simp] theorem countLine_ti (l : LineId) (f : LineCounts → LineCounts) (s : State) : (countLine l f s).ti = s.ti := rfl
@[simp] theorem countLine_cl (l : LineId) (f : LineCounts → LineCounts) (s : State) : (countLine l f s).cl = s.cl := rfl
@[simp] theorem countLine_re (l : LineId) (f : LineCounts → LineCounts) (s : State) : (countLine l f s).re = s.re := rfl
@[simp] theorem countLine_tu (l : LineId) (f : LineCounts → LineCounts) (s : State) : (countLine l f s).tu = s.tu := rfl
@[simp] theorem countLine_ap (l : LineId) (f : LineCounts → LineCounts) (s : State) : (countLine l f s).ap = s.ap := rfl
@[simp] theorem countLine_pu (l : LineId) (f : LineCounts → LineCounts) (s : State) : (countLine l f s).pu = s.pu := rfl
@[simp] theorem countLine_nu (l : LineId) (f : LineCounts → LineCounts) (s : State) : (countLine l f s).nu = s.nu := rfl
@[simp] theorem countLine_pending (l : LineId) (f : LineCounts → LineCounts) (s : State) : (countLine l f s).pending = s.pending := rfl
@[simp] theorem countLine_choices (l : LineId) (f : LineCounts → LineCounts) (s : State) : (countLine l f s).choices = s.choices := rfl

@[simp] theorem setHealth_power (n : NodeRef) (h : Health) (m : Bool) (s : State) : (setHealth n h m s).power = s.power := rfl
@[simp] theorem setHealth_deaf (n : NodeRef) (h : Health) (m : Bool) (s : State) : (setHealth n h m s).deaf = s.deaf := rfl
@[simp] theorem setHealth_resetStage (n : NodeRef) (h : Health) (m : Bool) (s : State) : (setHealth n h m s).resetStage = s.resetStage := rfl
@[simp] theorem setHealth_ti (n : NodeRef) (h : Health) (m : Bool) (s : State) : (setHealth n h m s).ti = s.ti := rfl
@[simp] theorem setHealth_cl (n : NodeRef) (h : Health) (m : Bool) (s : State) : (setHealth n h m s).cl = s.cl := rfl
@[simp] theorem setHealth_re (n : NodeRef) (h : Health) (m : Bool) (s : State) : (setHealth n h m s).re = s.re := rfl
@[simp] theorem setHealth_tu (n : NodeRef) (h : Health) (m : Bool) (s : State) : (setHealth n h m s).tu = s.tu := rfl
@[simp] theorem setHealth_ap (n : NodeRef) (h : Health) (m : Bool) (s : State) : (setHealth n h m s).ap = s.ap := rfl
@[simp] theorem setHealth_pu (n : NodeRef) (h : Health) (m : Bool) (s : State) : (setHealth n h m s).pu = s.pu := rfl
@[simp] theorem setHealth_nu (n : NodeRef) (h : Health) (m : Bool) (s : State) : (setHealth n h m s).nu = s.nu := rfl
@[simp] theorem setHealth_pending (n : NodeRef) (h : Health) (m : Bool) (s : State) : (setHealth n h m s).pending = s.pending := rfl
@[simp] theorem setHealth_choices (n : NodeRef) (h : Health) (m : Bool) (s : State) : (setHealth n h m s).choices = s.choices := rfl

@[simp] theorem setPlan_power (n : NodeRef) (x : Option Plan) (s : State) : (setPlan n x s).power = s.power := rfl
@[simp] theorem setPlan_deaf (n : NodeRef) (x : Option Plan) (s : State) : (setPlan n x s).deaf = s.deaf := rfl
@[simp] theorem setPlan_resetStage (n : NodeRef) (x : Option Plan) (s : State) : (setPlan n x s).resetStage = s.resetStage := rfl
@[simp] theorem setPlan_ti (n : NodeRef) (x : Option Plan) (s : State) : (setPlan n x s).ti = s.ti := rfl
@[simp] theorem setPlan_lc (n : NodeRef) (x : Option Plan) (s : State) : (setPlan n x s).lc = s.lc := rfl
@[simp] theorem setPlan_cl (n : NodeRef) (x : Option Plan) (s : State) : (setPlan n x s).cl = s.cl := rfl
@[simp] theorem setPlan_re (n : NodeRef) (x : Option Plan) (s : State) : (setPlan n x s).re = s.re := rfl
@[simp] theorem setPlan_tu (n : NodeRef) (x : Option Plan) (s : State) : (setPlan n x s).tu = s.tu := rfl
@[simp] theorem setPlan_pu (n : NodeRef) (x : Option Plan) (s : State) : (setPlan n x s).pu = s.pu := rfl
@[simp] theorem setPlan_nu (n : NodeRef) (x : Option Plan) (s : State) : (setPlan n x s).nu = s.nu := rfl
@[simp] theorem setPlan_pending (n : NodeRef) (x : Option Plan) (s : State) : (setPlan n x s).pending = s.pending := rfl
@[simp] theorem setPlan_choices (n : NodeRef) (x : Option Plan) (s : State) : (setPlan n x s).choices = s.choices := rfl

@[simp] theorem onPlan_power (n : NodeRef) (f : Plan → Plan) (s : State) : (onPlan n f s).power = s.power := rfl
@[simp] theorem onPlan_deaf (n : NodeRef) (f : Plan → Plan) (s : State) : (onPlan n f s).deaf = s.deaf := rfl
@[simp] theorem onPlan_resetStage (n : NodeRef) (f : Plan → Plan) (s : State) : (onPlan n f s).resetStage = s.resetStage := rfl
@[simp] theorem onPlan_ti (n : NodeRef) (f : Plan → Plan) (s : State) : (onPlan n f s).ti = s.ti := rfl
@[simp] theorem onPlan_lc (n : NodeRef) (f : Plan → Plan) (s : State) : (onPlan n f s).lc = s.lc := rfl
@[simp] theorem onPlan_cl (n : NodeRef) (f : Plan → Plan) (s : State) : (onPlan n f s).cl = s.cl := rfl
@[simp] theorem onPlan_re (n : NodeRef) (f : Plan → Plan) (s : State) : (onPlan n f s).re = s.re := rfl
@[simp] theorem onPlan_tu (n : NodeRef) (f : Plan → Plan) (s : State) : (onPlan n f s).tu = s.tu := rfl
@[simp] theorem onPlan_pu (n : NodeRef) (f : Plan → Plan) (s : State) : (onPlan n f s).pu = s.pu := rfl
@[simp] theorem onPlan_nu (n : NodeRef) (f : Plan → Plan) (s : State) : (onPlan n f s).nu = s.nu := rfl
@[simp] theorem onPlan_pending (n : NodeRef) (f : Plan → Plan) (s : State) : (onPlan n f s).pending = s.pending := rfl
@[simp] theorem onPlan_choices (n : NodeRef) (f : Plan → Plan) (s : State) : (onPlan n f s).choices = s.choices := rfl

@[simp] theorem onAir_power (r : RoomId) (f : RoomAir → RoomAir) (s : State) : (onAir r f s).power = s.power := rfl
@[simp] theorem onAir_deaf (r : RoomId) (f : RoomAir → RoomAir) (s : State) : (onAir r f s).deaf = s.deaf := rfl
@[simp] theorem onAir_resetStage (r : RoomId) (f : RoomAir → RoomAir) (s : State) : (onAir r f s).resetStage = s.resetStage := rfl
@[simp] theorem onAir_ti (r : RoomId) (f : RoomAir → RoomAir) (s : State) : (onAir r f s).ti = s.ti := rfl
@[simp] theorem onAir_lc (r : RoomId) (f : RoomAir → RoomAir) (s : State) : (onAir r f s).lc = s.lc := rfl
@[simp] theorem onAir_cl (r : RoomId) (f : RoomAir → RoomAir) (s : State) : (onAir r f s).cl = s.cl := rfl
@[simp] theorem onAir_re (r : RoomId) (f : RoomAir → RoomAir) (s : State) : (onAir r f s).re = s.re := rfl
@[simp] theorem onAir_tu (r : RoomId) (f : RoomAir → RoomAir) (s : State) : (onAir r f s).tu = s.tu := rfl
@[simp] theorem onAir_pu (r : RoomId) (f : RoomAir → RoomAir) (s : State) : (onAir r f s).pu = s.pu := rfl
@[simp] theorem onAir_nu (r : RoomId) (f : RoomAir → RoomAir) (s : State) : (onAir r f s).nu = s.nu := rfl
@[simp] theorem onAir_pending (r : RoomId) (f : RoomAir → RoomAir) (s : State) : (onAir r f s).pending = s.pending := rfl
@[simp] theorem onAir_choices (r : RoomId) (f : RoomAir → RoomAir) (s : State) : (onAir r f s).choices = s.choices := rfl

@[simp] theorem handNodes_power (l : LineId) (its : List Item) (s : State) : (handNodes l its s).power = s.power := rfl
@[simp] theorem handNodes_deaf (l : LineId) (its : List Item) (s : State) : (handNodes l its s).deaf = s.deaf := rfl
@[simp] theorem handNodes_resetStage (l : LineId) (its : List Item) (s : State) : (handNodes l its s).resetStage = s.resetStage := rfl
@[simp] theorem handNodes_ti (l : LineId) (its : List Item) (s : State) : (handNodes l its s).ti = s.ti := rfl
@[simp] theorem handNodes_lc (l : LineId) (its : List Item) (s : State) : (handNodes l its s).lc = s.lc := rfl
@[simp] theorem handNodes_cl (l : LineId) (its : List Item) (s : State) : (handNodes l its s).cl = s.cl := rfl
@[simp] theorem handNodes_re (l : LineId) (its : List Item) (s : State) : (handNodes l its s).re = s.re := rfl
@[simp] theorem handNodes_tu (l : LineId) (its : List Item) (s : State) : (handNodes l its s).tu = s.tu := rfl
@[simp] theorem handNodes_pu (l : LineId) (its : List Item) (s : State) : (handNodes l its s).pu = s.pu := rfl
@[simp] theorem handNodes_nu (l : LineId) (its : List Item) (s : State) : (handNodes l its s).nu = s.nu := rfl
@[simp] theorem handNodes_pending (l : LineId) (its : List Item) (s : State) : (handNodes l its s).pending = s.pending := rfl
@[simp] theorem handNodes_choices (l : LineId) (its : List Item) (s : State) : (handNodes l its s).choices = s.choices := rfl

@[simp] theorem onTime_power (r : RoomId) (f : RoomTime → RoomTime) (s : State) : (onTime r f s).power = s.power := rfl
@[simp] theorem onTime_deaf (r : RoomId) (f : RoomTime → RoomTime) (s : State) : (onTime r f s).deaf = s.deaf := rfl
@[simp] theorem onTime_resetStage (r : RoomId) (f : RoomTime → RoomTime) (s : State) : (onTime r f s).resetStage = s.resetStage := rfl
@[simp] theorem onTime_ti (r : RoomId) (f : RoomTime → RoomTime) (s : State) : (onTime r f s).ti = s.ti := rfl
@[simp] theorem onTime_lc (r : RoomId) (f : RoomTime → RoomTime) (s : State) : (onTime r f s).lc = s.lc := rfl
@[simp] theorem onTime_cl (r : RoomId) (f : RoomTime → RoomTime) (s : State) : (onTime r f s).cl = s.cl := rfl
@[simp] theorem onTime_re (r : RoomId) (f : RoomTime → RoomTime) (s : State) : (onTime r f s).re = s.re := rfl
@[simp] theorem onTime_ap (r : RoomId) (f : RoomTime → RoomTime) (s : State) : (onTime r f s).ap = s.ap := rfl
@[simp] theorem onTime_pu (r : RoomId) (f : RoomTime → RoomTime) (s : State) : (onTime r f s).pu = s.pu := rfl
@[simp] theorem onTime_nu (r : RoomId) (f : RoomTime → RoomTime) (s : State) : (onTime r f s).nu = s.nu := rfl
@[simp] theorem onTime_pending (r : RoomId) (f : RoomTime → RoomTime) (s : State) : (onTime r f s).pending = s.pending := rfl
@[simp] theorem onTime_choices (r : RoomId) (f : RoomTime → RoomTime) (s : State) : (onTime r f s).choices = s.choices := rfl

@[simp] theorem onNotice_power (r : RoomId) (f : RoomNotice → RoomNotice) (s : State) : (onNotice r f s).power = s.power := rfl
@[simp] theorem onNotice_deaf (r : RoomId) (f : RoomNotice → RoomNotice) (s : State) : (onNotice r f s).deaf = s.deaf := rfl
@[simp] theorem onNotice_resetStage (r : RoomId) (f : RoomNotice → RoomNotice) (s : State) : (onNotice r f s).resetStage = s.resetStage := rfl
@[simp] theorem onNotice_ti (r : RoomId) (f : RoomNotice → RoomNotice) (s : State) : (onNotice r f s).ti = s.ti := rfl
@[simp] theorem onNotice_lc (r : RoomId) (f : RoomNotice → RoomNotice) (s : State) : (onNotice r f s).lc = s.lc := rfl
@[simp] theorem onNotice_cl (r : RoomId) (f : RoomNotice → RoomNotice) (s : State) : (onNotice r f s).cl = s.cl := rfl
@[simp] theorem onNotice_re (r : RoomId) (f : RoomNotice → RoomNotice) (s : State) : (onNotice r f s).re = s.re := rfl
@[simp] theorem onNotice_tu (r : RoomId) (f : RoomNotice → RoomNotice) (s : State) : (onNotice r f s).tu = s.tu := rfl
@[simp] theorem onNotice_ap (r : RoomId) (f : RoomNotice → RoomNotice) (s : State) : (onNotice r f s).ap = s.ap := rfl
@[simp] theorem onNotice_pu (r : RoomId) (f : RoomNotice → RoomNotice) (s : State) : (onNotice r f s).pu = s.pu := rfl
@[simp] theorem onNotice_pending (r : RoomId) (f : RoomNotice → RoomNotice) (s : State) : (onNotice r f s).pending = s.pending := rfl
@[simp] theorem onNotice_choices (r : RoomId) (f : RoomNotice → RoomNotice) (s : State) : (onNotice r f s).choices = s.choices := rfl

@[simp] theorem unlist_power (r : RoomId) (s : State) : (unlist r s).power = s.power := rfl
@[simp] theorem unlist_deaf (r : RoomId) (s : State) : (unlist r s).deaf = s.deaf := rfl
@[simp] theorem unlist_resetStage (r : RoomId) (s : State) : (unlist r s).resetStage = s.resetStage := rfl
@[simp] theorem unlist_ti (r : RoomId) (s : State) : (unlist r s).ti = s.ti := rfl
@[simp] theorem unlist_lc (r : RoomId) (s : State) : (unlist r s).lc = s.lc := rfl
@[simp] theorem unlist_cl (r : RoomId) (s : State) : (unlist r s).cl = s.cl := rfl
@[simp] theorem unlist_re (r : RoomId) (s : State) : (unlist r s).re = s.re := rfl
@[simp] theorem unlist_tu (r : RoomId) (s : State) : (unlist r s).tu = s.tu := rfl
@[simp] theorem unlist_ap (r : RoomId) (s : State) : (unlist r s).ap = s.ap := rfl
@[simp] theorem unlist_pu (r : RoomId) (s : State) : (unlist r s).pu = s.pu := rfl
@[simp] theorem unlist_pending (r : RoomId) (s : State) : (unlist r s).pending = s.pending := rfl
@[simp] theorem unlist_choices (r : RoomId) (s : State) : (unlist r s).choices = s.choices := rfl

@[simp] theorem onSource_power (i : SourceId) (f : Source → Source) (s : State) : (onSource i f s).power = s.power := rfl
@[simp] theorem onSource_deaf (i : SourceId) (f : Source → Source) (s : State) : (onSource i f s).deaf = s.deaf := rfl
@[simp] theorem onSource_resetStage (i : SourceId) (f : Source → Source) (s : State) : (onSource i f s).resetStage = s.resetStage := rfl
@[simp] theorem onSource_ti (i : SourceId) (f : Source → Source) (s : State) : (onSource i f s).ti = s.ti := rfl
@[simp] theorem onSource_lc (i : SourceId) (f : Source → Source) (s : State) : (onSource i f s).lc = s.lc := rfl
@[simp] theorem onSource_cl (i : SourceId) (f : Source → Source) (s : State) : (onSource i f s).cl = s.cl := rfl
@[simp] theorem onSource_re (i : SourceId) (f : Source → Source) (s : State) : (onSource i f s).re = s.re := rfl
@[simp] theorem onSource_tu (i : SourceId) (f : Source → Source) (s : State) : (onSource i f s).tu = s.tu := rfl
@[simp] theorem onSource_ap (i : SourceId) (f : Source → Source) (s : State) : (onSource i f s).ap = s.ap := rfl
@[simp] theorem onSource_nu (i : SourceId) (f : Source → Source) (s : State) : (onSource i f s).nu = s.nu := rfl
@[simp] theorem onSource_pending (i : SourceId) (f : Source → Source) (s : State) : (onSource i f s).pending = s.pending := rfl
@[simp] theorem onSource_choices (i : SourceId) (f : Source → Source) (s : State) : (onSource i f s).choices = s.choices := rfl

@[simp] theorem setRule_power (i : Fin 128) (x : Option Rule) (s : State) : (setRule i x s).power = s.power := rfl
@[simp] theorem setRule_deaf (i : Fin 128) (x : Option Rule) (s : State) : (setRule i x s).deaf = s.deaf := rfl
@[simp] theorem setRule_resetStage (i : Fin 128) (x : Option Rule) (s : State) : (setRule i x s).resetStage = s.resetStage := rfl
@[simp] theorem setRule_ti (i : Fin 128) (x : Option Rule) (s : State) : (setRule i x s).ti = s.ti := rfl
@[simp] theorem setRule_lc (i : Fin 128) (x : Option Rule) (s : State) : (setRule i x s).lc = s.lc := rfl
@[simp] theorem setRule_re (i : Fin 128) (x : Option Rule) (s : State) : (setRule i x s).re = s.re := rfl
@[simp] theorem setRule_tu (i : Fin 128) (x : Option Rule) (s : State) : (setRule i x s).tu = s.tu := rfl
@[simp] theorem setRule_ap (i : Fin 128) (x : Option Rule) (s : State) : (setRule i x s).ap = s.ap := rfl
@[simp] theorem setRule_pu (i : Fin 128) (x : Option Rule) (s : State) : (setRule i x s).pu = s.pu := rfl
@[simp] theorem setRule_nu (i : Fin 128) (x : Option Rule) (s : State) : (setRule i x s).nu = s.nu := rfl
@[simp] theorem setRule_pending (i : Fin 128) (x : Option Rule) (s : State) : (setRule i x s).pending = s.pending := rfl
@[simp] theorem setRule_choices (i : Fin 128) (x : Option Rule) (s : State) : (setRule i x s).choices = s.choices := rfl

@[simp] theorem countTrunk_power (f : TrunkCounts → TrunkCounts) (s : State) : (countTrunk f s).power = s.power := rfl
@[simp] theorem countTrunk_deaf (f : TrunkCounts → TrunkCounts) (s : State) : (countTrunk f s).deaf = s.deaf := rfl
@[simp] theorem countTrunk_resetStage (f : TrunkCounts → TrunkCounts) (s : State) : (countTrunk f s).resetStage = s.resetStage := rfl
@[simp] theorem countTrunk_lc (f : TrunkCounts → TrunkCounts) (s : State) : (countTrunk f s).lc = s.lc := rfl
@[simp] theorem countTrunk_cl (f : TrunkCounts → TrunkCounts) (s : State) : (countTrunk f s).cl = s.cl := rfl
@[simp] theorem countTrunk_re (f : TrunkCounts → TrunkCounts) (s : State) : (countTrunk f s).re = s.re := rfl
@[simp] theorem countTrunk_tu (f : TrunkCounts → TrunkCounts) (s : State) : (countTrunk f s).tu = s.tu := rfl
@[simp] theorem countTrunk_ap (f : TrunkCounts → TrunkCounts) (s : State) : (countTrunk f s).ap = s.ap := rfl
@[simp] theorem countTrunk_pu (f : TrunkCounts → TrunkCounts) (s : State) : (countTrunk f s).pu = s.pu := rfl
@[simp] theorem countTrunk_nu (f : TrunkCounts → TrunkCounts) (s : State) : (countTrunk f s).nu = s.nu := rfl
@[simp] theorem countTrunk_pending (f : TrunkCounts → TrunkCounts) (s : State) : (countTrunk f s).pending = s.pending := rfl
@[simp] theorem countTrunk_choices (f : TrunkCounts → TrunkCounts) (s : State) : (countTrunk f s).choices = s.choices := rfl

@[simp] theorem pushTx_power (f : TxFrame) (s : State) : (pushTx f s).power = s.power := rfl
@[simp] theorem pushTx_deaf (f : TxFrame) (s : State) : (pushTx f s).deaf = s.deaf := rfl
@[simp] theorem pushTx_resetStage (f : TxFrame) (s : State) : (pushTx f s).resetStage = s.resetStage := rfl
@[simp] theorem pushTx_lc (f : TxFrame) (s : State) : (pushTx f s).lc = s.lc := rfl
@[simp] theorem pushTx_cl (f : TxFrame) (s : State) : (pushTx f s).cl = s.cl := rfl
@[simp] theorem pushTx_re (f : TxFrame) (s : State) : (pushTx f s).re = s.re := rfl
@[simp] theorem pushTx_tu (f : TxFrame) (s : State) : (pushTx f s).tu = s.tu := rfl
@[simp] theorem pushTx_ap (f : TxFrame) (s : State) : (pushTx f s).ap = s.ap := rfl
@[simp] theorem pushTx_pu (f : TxFrame) (s : State) : (pushTx f s).pu = s.pu := rfl
@[simp] theorem pushTx_nu (f : TxFrame) (s : State) : (pushTx f s).nu = s.nu := rfl
@[simp] theorem pushTx_pending (f : TxFrame) (s : State) : (pushTx f s).pending = s.pending := rfl
@[simp] theorem pushTx_choices (f : TxFrame) (s : State) : (pushTx f s).choices = s.choices := rfl

@[simp] theorem dropFrame_power (s : State) : (dropFrame s).power = s.power := rfl
@[simp] theorem dropFrame_deaf (s : State) : (dropFrame s).deaf = s.deaf := rfl
@[simp] theorem dropFrame_resetStage (s : State) : (dropFrame s).resetStage = s.resetStage := rfl
@[simp] theorem dropFrame_lc (s : State) : (dropFrame s).lc = s.lc := rfl
@[simp] theorem dropFrame_cl (s : State) : (dropFrame s).cl = s.cl := rfl
@[simp] theorem dropFrame_re (s : State) : (dropFrame s).re = s.re := rfl
@[simp] theorem dropFrame_tu (s : State) : (dropFrame s).tu = s.tu := rfl
@[simp] theorem dropFrame_ap (s : State) : (dropFrame s).ap = s.ap := rfl
@[simp] theorem dropFrame_pu (s : State) : (dropFrame s).pu = s.pu := rfl
@[simp] theorem dropFrame_nu (s : State) : (dropFrame s).nu = s.nu := rfl
@[simp] theorem dropFrame_pending (s : State) : (dropFrame s).pending = s.pending := rfl
@[simp] theorem dropFrame_choices (s : State) : (dropFrame s).choices = s.choices := rfl

/-! ### A place after its own update -/

@[simp] theorem room_onRoom (r : RoomId) (f : Room → Room) (s : State) : (onRoom r f s).room r = f (s.room r) := by
  simp [State.room, onRoom]

theorem room_onRoom_ne {q r : RoomId} (h : q ≠ r) (f : Room → Room) (s : State) :
    (onRoom r f s).room q = s.room q := by
  simp [State.room, onRoom, look_put_ne _ h]

@[simp] theorem suite_onRoom (r : RoomId) (f : Room → Room) (g : SuiteId) (s : State) :
    (onRoom r f s).suite g = s.suite g := rfl

@[simp] theorem room_setSuite (g : SuiteId) (x : Option Suite) (r : RoomId) (s : State) :
    (setSuite g x s).room r = s.room r := rfl

@[simp] theorem room_onSuite (g : SuiteId) (f : Suite → Suite) (r : RoomId) (s : State) :
    (onSuite g f s).room r = s.room r := rfl

@[simp] theorem suite_setSuite (g : SuiteId) (x : Option Suite) (s : State) : (setSuite g x s).suite g = x := by
  simp [State.suite, setSuite]

theorem suite_setSuite_ne {h g : SuiteId} (ne : h ≠ g) (x : Option Suite) (s : State) :
    (setSuite g x s).suite h = s.suite h := by
  simp [State.suite, setSuite, look_put_ne _ ne]

@[simp] theorem suite_onSuite (g : SuiteId) (f : Suite → Suite) (s : State) :
    (onSuite g f s).suite g = (s.suite g).map f := by
  simp [onSuite]

@[simp] theorem line_onLine (l : LineId) (f : Line → Line) (s : State) : (onLine l f s).line l = f (s.line l) := by
  simp [State.line, onLine]

theorem line_onLine_ne {k l : LineId} (h : k ≠ l) (f : Line → Line) (s : State) :
    (onLine l f s).line k = s.line k := by
  simp [State.line, onLine, look_put_ne _ h]

@[simp] theorem plan_setPlan (n : NodeRef) (x : Option Plan) (s : State) : (setPlan n x s).plan n = x := by
  simp [State.plan, setPlan]

theorem plan_setPlan_ne {m n : NodeRef} (h : m ≠ n) (x : Option Plan) (s : State) :
    (setPlan n x s).plan m = s.plan m := by
  simp only [State.plan, setPlan]
  by_cases hl : m.line = n.line
  · have ha : m.addr ≠ n.addr := fun e => h (by cases m; cases n; simp_all)
    rw [hl, look_put_same, look_put_ne _ ha]
  · rw [look_put_ne _ hl]

@[simp] theorem plan_onPlan (n : NodeRef) (f : Plan → Plan) (s : State) :
    (onPlan n f s).plan n = (s.plan n).map f := by
  simp [onPlan]

theorem plan_onPlan_ne {m n : NodeRef} (h : m ≠ n) (f : Plan → Plan) (s : State) :
    (onPlan n f s).plan m = s.plan m := plan_setPlan_ne h _ s

@[simp] theorem entry_setEntry (n : NodeRef) (x : Option NodeEntry) (s : State) : (setEntry n x s).entry n = x := by
  simp [State.entry, setEntry]

theorem entry_setEntry_ne {m n : NodeRef} (h : m ≠ n) (x : Option NodeEntry) (s : State) :
    (setEntry n x s).entry m = s.entry m := by
  simp only [State.entry, setEntry]
  by_cases hl : m.line = n.line
  · have ha : m.addr ≠ n.addr := fun e => h (by cases m; cases n; simp_all)
    rw [hl, line_onLine, look_put_ne _ ha]
  · rw [line_onLine_ne hl]

@[simp] theorem air_onAir (r : RoomId) (f : RoomAir → RoomAir) (s : State) : (onAir r f s).air r = f (s.air r) := by
  simp [State.air, onAir]

theorem air_onAir_ne {q r : RoomId} (h : q ≠ r) (f : RoomAir → RoomAir) (s : State) :
    (onAir r f s).air q = s.air q := by
  simp [State.air, onAir, look_put_ne _ h]

@[simp] theorem time_onTime (r : RoomId) (f : RoomTime → RoomTime) (s : State) :
    (onTime r f s).time r = f (s.time r) := by
  simp [State.time, onTime]

theorem time_onTime_ne {q r : RoomId} (h : q ≠ r) (f : RoomTime → RoomTime) (s : State) :
    (onTime r f s).time q = s.time q := by
  simp [State.time, onTime, look_put_ne _ h]

@[simp] theorem notice_onNotice (r : RoomId) (f : RoomNotice → RoomNotice) (s : State) :
    (onNotice r f s).notice r = f (s.notice r) := by
  simp [State.notice, onNotice]

theorem notice_onNotice_ne {q r : RoomId} (h : q ≠ r) (f : RoomNotice → RoomNotice) (s : State) :
    (onNotice r f s).notice q = s.notice q := by
  simp [State.notice, onNotice, look_put_ne _ h]

@[simp] theorem source_onSource (i : SourceId) (f : Source → Source) (s : State) :
    (onSource i f s).source i = f (s.source i) := by
  simp [State.source, onSource]

theorem source_onSource_ne {j i : SourceId} (h : j ≠ i) (f : Source → Source) (s : State) :
    (onSource i f s).source j = s.source j := by
  simp [State.source, onSource, look_put_ne _ h]

end Sys2Proof.Machine
end

