-- ==== Sys2Proof/Laws/Actuation.lean ====
section
/-!
SUPPORT. What AP and the line queues can do, said once: `OnlyActuation` for every operation of Lines, Compose and
Planner that works on queues and plans.
-/

namespace Sys2Proof.Machine

/-! ### Folding over a list of pieces of work -/

/-- What every piece of work keeps, all of them keep. -/
theorem forEach_rel {α : Type} (R : State → State → Prop) (refl : ∀ s, R s s)
    (trans : ∀ {a b c}, R a b → R b c → R a c) {f : α → State → State} (h : ∀ x s, R s (f x s)) (xs : List α)
    (s : State) : R s (forEach xs f s) := by
  induction xs generalizing s with
  | nil => exact refl s
  | cons x xs ih => exact trans (h x s) (ih (f x s))

theorem forEach_keeps {α β : Type} (π : State → β) {f : α → State → State} (h : ∀ x s, π (f x s) = π s)
    (xs : List α) (s : State) : π (forEach xs f s) = π s :=
  forEach_rel (fun s t => π t = π s) (fun _ => rfl) (fun h1 h2 => h2.trans h1) h xs s

/-! ### The relation -/

namespace OnlyActuation

theorem refl (s : State) : OnlyActuation s s := ⟨rfl, fun _ => rfl, fun _ => rfl, fun _ => rfl, ⟨rfl, rfl, rfl⟩, fun _ h => h⟩

theorem trans {a b c : State} (h : OnlyActuation a b) (k : OnlyActuation b c) : OnlyActuation a c where
  rest := by
    have e1 := h.rest; have e2 := k.rest
    rw [← e2] at e1; exact e1
  lines l := (k.lines l).trans (h.lines l)
  plans n := (k.plans n).trans (h.plans n)
  air r := (k.air r).trans (h.air r)
  tables := ⟨k.tables.1.trans h.tables.1, k.tables.2.1.trans h.tables.2.1, k.tables.2.2.trans h.tables.2.2⟩
  fits l e := k.fits l (h.fits l e)

variable {s t : State} (h : OnlyActuation s t)
include h

theorem power : t.power = s.power := have e := congrArg State.power h.rest; e
theorem deaf : t.deaf = s.deaf := have e := congrArg State.deaf h.rest; e
theorem resetStage : t.resetStage = s.resetStage := have e := congrArg State.resetStage h.rest; e
theorem ti : t.ti = s.ti := have e := congrArg State.ti h.rest; e
theorem cl : t.cl = s.cl := have e := congrArg State.cl h.rest; e
theorem re : t.re = s.re := have e := congrArg State.re h.rest; e
theorem tu : t.tu = s.tu := have e := congrArg State.tu h.rest; e
theorem pu : t.pu = s.pu := have e := congrArg State.pu h.rest; e
theorem nu : t.nu = s.nu := have e := congrArg State.nu h.rest; e
theorem pending : t.pending = s.pending := have e := congrArg State.pending h.rest; e
theorem choices : t.choices = s.choices := have e := congrArg State.choices h.rest; e

theorem nodes (l : LineId) : (t.line l).nodes = (s.line l).nodes := have e := congrArg Line.nodes (h.lines l); e
theorem inFlight (l : LineId) : (t.line l).inFlight = (s.line l).inFlight := have e := congrArg Line.inFlight (h.lines l); e
theorem down (l : LineId) : (t.line l).down = (s.line l).down := have e := congrArg Line.down (h.lines l); e
theorem follow (l : LineId) : (t.line l).follow = (s.line l).follow := have e := congrArg Line.follow (h.lines l); e
theorem timeouts (l : LineId) : (t.line l).timeouts = (s.line l).timeouts := have e := congrArg Line.timeouts (h.lines l); e
theorem entry (n : NodeRef) : t.entry n = s.entry n := by simp only [State.entry, h.nodes]
theorem room (r : RoomId) : t.room r = s.room r := by simp only [State.room, h.re]
theorem suite (g : SuiteId) : t.suite g = s.suite g := by simp only [State.suite, h.re]
theorem time (r : RoomId) : t.time r = s.time r := by simp only [State.time, h.tu]
theorem notice (r : RoomId) : t.notice r = s.notice r := by simp only [State.notice, h.nu]
theorem source (i : SourceId) : t.source i = s.source i := by simp only [State.source, h.pu]
theorem nodesOf (r : RoomId) : t.nodesOf r = s.nodesOf r := by simp only [State.nodesOf, h.entry]

end OnlyActuation

theorem forEach_only {α : Type} {f : α → State → State} (h : ∀ x s, OnlyActuation s (f x s)) (xs : List α) (s : State) :
    OnlyActuation s (forEach xs f s) :=
  forEach_rel OnlyActuation OnlyActuation.refl OnlyActuation.trans h xs s

/-- Work on one line that keeps its frame and the length of its queue. -/
theorem onLine_only (l : LineId) (f : Line → Line) (s : State) (h : (f (s.line l)).frame = (s.line l).frame)
    (fits : (s.line l).queued.length ≤ 32 → (f (s.line l)).queued.length ≤ 32) : OnlyActuation s (onLine l f s) where
  rest := rfl
  lines k := by
    by_cases e : k = l
    · subst e; simpa using h
    · rw [line_onLine_ne e]
  plans _ := rfl
  air _ := rfl
  tables := ⟨rfl, rfl, rfl⟩
  fits k q := by
    by_cases e : k = l
    · subst e; simpa using fits q
    · rwa [line_onLine_ne e]

/-- Work on one plan entry that keeps its frame. -/
theorem onPlan_only (n : NodeRef) (f : Plan → Plan) (s : State) (h : ∀ p, s.plan n = some p → (f p).frame = p.frame) :
    OnlyActuation s (onPlan n f s) where
  rest := rfl
  lines _ := rfl
  plans m := by
    by_cases e : m = n
    · subst e
      cases hp : s.plan m with
      | none => simp [hp]
      | some p => simp [hp, h p hp]
    · rw [plan_onPlan_ne e]
  air _ := rfl
  tables := ⟨rfl, rfl, rfl⟩
  fits _ q := q

theorem handNodes_only (l : LineId) (its : List Item) (s : State) : OnlyActuation s (handNodes l its s) :=
  ⟨rfl, fun _ => rfl, fun _ => rfl, fun _ => rfl, ⟨rfl, rfl, rfl⟩, fun _ h => h⟩

theorem tellFreed_only (l : LineId) (s : State) : OnlyActuation s (tellFreed l s) := by
  unfold tellFreed
  split
  · exact .refl s
  · exact ⟨rfl, fun _ => rfl, fun _ => rfl, fun _ => rfl, ⟨rfl, rfl, rfl⟩, fun _ h => h⟩

/-! ### Offers and removals (R23 to R25) -/

theorem mergeInto_length (it : Item) (q : List Item) : (mergeInto it q).length = q.length := by simp [mergeInto]

theorem frame_of (x : Line) (u n : List Item) (a b c : Word) :
    ({ x with urgent := u, normal := n
              counts := { x.counts with accepted := a, superseded := b, flushed := c } } : Line).frame = x.frame := rfl

theorem Line.offer_frame (x : Line) (it : Item) : (x.offer it).1.frame = x.frame := by
  unfold Line.offer
  dsimp only
  split
  · rfl
  split
  · cases it.origin.band <;> rfl
  split
  · cases it.origin.band <;> rfl
  split
  · cases it.origin.band <;> rfl
  split <;> rfl

theorem filter_drop_one {α : Type} {p : α → Bool} {q : List α} (h : q.any p = true) :
    (q.filter fun y => !p y).length + 1 ≤ q.length := by
  obtain ⟨x, hx, hp⟩ := List.any_eq_true.mp h
  have : (q.filter fun y => !p y).length < q.length :=
    List.length_filter_lt_length_iff_exists.mpr ⟨x, hx, by simp [hp]⟩
  omega

theorem Line.offer_fits (x : Line) (it : Item) (h : x.queued.length ≤ 32) : (x.offer it).1.queued.length ≤ 32 := by
  simp only [Line.queued, List.length_append] at h
  unfold Line.offer
  dsimp only
  split
  · simpa [Line.queued] using h
  split
  · cases it.origin.band <;> simpa [Line.queued, Line.withBand, Line.band, mergeInto_length] using h
  split
  · rename_i h3
    have k := filter_drop_one h3
    revert k
    cases it.origin.band <;> simp only [Line.queued, Line.withBand, Line.band, Band.other, List.length_append,
      List.length_singleton] <;> intro k <;> omega
  split
  · rename_i h4
    simp only [Line.queued, List.length_append] at h4
    cases it.origin.band <;> simp [Line.queued, Line.withBand, Line.band] <;> omega
  split
  · rename_i newest _ hn
    have : x.normal ≠ [] := by intro e; simp [e] at hn
    have := List.length_pos_iff.mpr this
    simp [Line.queued]; omega
  · simpa [Line.queued] using h

theorem offer_only (l : LineId) (it : Item) (s : State) : OnlyActuation s (offer l it s).1 := by
  have h1 : OnlyActuation s (onLine l (fun _ => ((s.line l).offer it).1) s) :=
    onLine_only l _ s (Line.offer_frame _ it) (Line.offer_fits _ it)
  unfold offer
  simp only
  split
  · exact h1
  · refine h1.trans (.trans (forEach_only ?_ _ _) (.trans (handNodes_only _ _ _) (tellFreed_only _ _)))
    intro o t
    split_ifs
    · exact onPlan_only _ _ _ fun _ _ => rfl
    · exact .refl t

theorem removeItems_only (l : LineId) (p : Item → Bool) (k : RemovalKind) (s : State) :
    OnlyActuation s (removeItems l p k s) := by
  unfold removeItems
  simp only
  split_ifs
  · exact .refl s
  · refine .trans (onLine_only l _ s ?_ ?_) (.trans (handNodes_only _ _ _) (tellFreed_only _ _))
    · cases k <;> rfl
    · intro h
      simp only [Line.queued, List.length_append] at h ⊢
      have h1 := List.length_filter_le (fun i => !p i) (s.line l).urgent
      have h2 := List.length_filter_le (fun i => !p i) (s.line l).normal
      omega

theorem flushNode_only (n : NodeRef) (s : State) : OnlyActuation s (flushNode n s) := removeItems_only _ _ _ s

/-! ### Composition and examination (R122, R132 to R135) -/

theorem Plan.take_frame (p : Plan) (t : Option Target) : (p.take t).frame = p.frame := by
  cases t <;> rfl

@[simp] theorem Plan.take_none (p : Plan) : p.take none = p := rfl

@[simp] theorem Plan.take_override (p : Plan) (t : Option Target) : (p.take t).override = p.override := by
  cases t <;> rfl

@[simp] theorem Plan.take_target (p : Plan) (t : Option Target) : (p.take t).target = t.orElse fun _ => p.target := by
  cases t <;> rfl

/-- The same value leaves the stall and another clears it (R132, R139). -/
@[simp] theorem Plan.take_stalled (p : Plan) (t : Target) : (p.take (some t)).stalled = (p.stalled && p.sameValue t) := rfl

theorem composeNode_only (n : NodeRef) (s : State) : OnlyActuation s (composeNode n s) := by
  unfold composeNode
  split
  · exact onPlan_only _ _ _ fun p _ => Plan.take_frame p _
  · exact .refl s

theorem noteAnswer_only (n : NodeRef) (a : OfferAnswer) (s : State) : OnlyActuation s (noteAnswer n a s) := by
  cases a
  · exact onPlan_only _ _ _ fun _ _ => rfl
  · exact onPlan_only _ _ _ fun _ _ => rfl
  · exact onPlan_only _ _ _ fun _ _ => rfl
  · exact .refl s

theorem examine_only (link : Option RoomId) (n : NodeRef) (s : State) : OnlyActuation s (examine link n s) := by
  unfold examine
  split
  · split
    · exact (offer_only _ _ s).trans (noteAnswer_only _ _ _)
    · exact .refl s
  · exact .refl s

theorem retryDeferred_only (l : LineId) (s : State) : OnlyActuation s (retryDeferred l s) := by
  unfold retryDeferred
  refine forEach_only (fun a t => ?_) _ s
  split
  · split_ifs
    · exact .trans (onPlan_only ⟨l, a⟩ (fun p => { p with deferred := false }) t fun _ _ => rfl) (examine_only _ _ _)
    · exact .refl t
  · exact .refl t

theorem takeHanded_only (s : State) : OnlyActuation s (takeHanded s) := by
  refine .trans (b := { s with ap := { s.ap with handed := [] } }) ?_ (forEach_only (fun n t => examine_only none n t) _ _)
  exact ⟨rfl, fun _ => rfl, fun _ => rfl, fun _ => rfl, ⟨rfl, rfl, rfl⟩, fun _ h => h⟩

theorem takeFreed_only (s : State) : OnlyActuation s (takeFreed s) := by
  refine .trans (b := { s with ap := { s.ap with freed := [] } }) ?_ (forEach_only (fun l t => retryDeferred_only l t) _ _)
  exact ⟨rfl, fun _ => rfl, fun _ => rfl, fun _ => rfl, ⟨rfl, rfl, rfl⟩, fun _ h => h⟩

theorem settleRound_only (s : State) : OnlyActuation s (settleRound s) := (takeHanded_only s).trans (takeFreed_only _)

theorem settle_only (s : State) : OnlyActuation s (settle s) :=
  (settleRound_only s).trans ((settleRound_only _).trans (settleRound_only _))

/-! ### Examinations only defer (R133, R134): a plan entry keeps all but its deferred flag -/

theorem onPlan_kept (n m : NodeRef) (f : Plan → Plan) (s : State) (h : ∀ p, (f p).kept = p.kept) :
    ((onPlan n f s).plan m).map Plan.kept = (s.plan m).map Plan.kept := by
  by_cases e : m = n
  · subst e; cases hp : s.plan m <;> simp [hp, h]
  · rw [plan_onPlan_ne e]

theorem offer_kept (l : LineId) (it : Item) (m : NodeRef) (s : State) :
    ((offer l it s).1.plan m).map Plan.kept = (s.plan m).map Plan.kept := by
  unfold offer
  simp only
  split
  · rfl
  · have told : ∀ (out : List Item) (u : State), (tellFreed l (handNodes l out u)).plan m = u.plan m := by
      intro out u; unfold tellFreed; split <;> rfl
    simp only [told]
    refine forEach_keeps (fun u => (u.plan m).map Plan.kept) (fun o t => ?_) _ _
    split_ifs
    · exact onPlan_kept _ m _ t fun _ => rfl
    · rfl

theorem noteAnswer_kept (n m : NodeRef) (a : OfferAnswer) (s : State) :
    ((noteAnswer n a s).plan m).map Plan.kept = (s.plan m).map Plan.kept := by
  cases a
  · exact onPlan_kept n m _ s fun _ => rfl
  · exact onPlan_kept n m _ s fun _ => rfl
  · exact onPlan_kept n m _ s fun _ => rfl
  · rfl

theorem examine_kept (link : Option RoomId) (n m : NodeRef) (s : State) :
    ((examine link n s).plan m).map Plan.kept = (s.plan m).map Plan.kept := by
  unfold examine
  split
  · split
    · exact (noteAnswer_kept n m _ _).trans (offer_kept _ _ m s)
    · rfl
  · rfl

theorem retryDeferred_kept (l : LineId) (m : NodeRef) (s : State) :
    ((retryDeferred l s).plan m).map Plan.kept = (s.plan m).map Plan.kept := by
  refine forEach_keeps (fun u => (u.plan m).map Plan.kept) (fun a t => ?_) _ s
  split
  · split_ifs
    · exact (examine_kept none _ m _).trans (onPlan_kept _ m _ t fun _ => rfl)
    · rfl
  · rfl

theorem settleRound_kept (m : NodeRef) (s : State) :
    ((settleRound s).plan m).map Plan.kept = (s.plan m).map Plan.kept :=
  (forEach_keeps (fun u => (u.plan m).map Plan.kept) (fun k t => retryDeferred_kept k m t) _ _).trans
    (forEach_keeps (fun u => (u.plan m).map Plan.kept) (fun n t => examine_kept none n m t) _ _)

theorem settle_kept (m : NodeRef) (s : State) : ((settle s).plan m).map Plan.kept = (s.plan m).map Plan.kept :=
  (settleRound_kept m _).trans ((settleRound_kept m _).trans (settleRound_kept m s))

/-! ### What examinations read: two states with the same lines, plans and rooms are worked on alike -/

structure SameWork (a b : State) : Prop where
  lc : a.lc = b.lc
  ap : a.ap = b.ap
  re : a.re = b.re

namespace SameWork

variable {a b : State} (h : SameWork a b)
include h

theorem line (l : LineId) : a.line l = b.line l := by simp only [State.line, h.lc]
theorem entry (n : NodeRef) : a.entry n = b.entry n := by simp only [State.entry, h.line]
theorem plan (n : NodeRef) : a.plan n = b.plan n := by simp only [State.plan, h.ap]
theorem room (r : RoomId) : a.room r = b.room r := by simp only [State.room, h.re]

theorem forEach {α : Type} {f : α → State → State} (k : ∀ x {c d : State}, SameWork c d → SameWork (f x c) (f x d))
    (xs : List α) : SameWork (Machine.forEach xs f a) (Machine.forEach xs f b) := by
  induction xs generalizing a b with
  | nil => exact h
  | cons x xs ih => exact ih (k x h)

theorem onLine (l : LineId) (f : Line → Line) : SameWork (Machine.onLine l f a) (Machine.onLine l f b) :=
  ⟨by simp only [Machine.onLine, h.line, h.lc], h.ap, h.re⟩

theorem onPlan (n : NodeRef) (f : Plan → Plan) : SameWork (Machine.onPlan n f a) (Machine.onPlan n f b) :=
  ⟨h.lc, by simp only [Machine.onPlan, setPlan, h.plan, h.ap], h.re⟩

theorem offer (l : LineId) (it : Item) :
    SameWork (Machine.offer l it a).1 (Machine.offer l it b).1 ∧ (Machine.offer l it a).2 = (Machine.offer l it b).2 := by
  have k := h.onLine l fun _ => ((b.line l).offer it).1
  unfold Machine.offer
  simp only [h.line l]
  split
  · exact ⟨k, rfl⟩
  · refine ⟨?_, rfl⟩
    have m : ∀ (out : List Item) {c d : State}, SameWork c d →
        SameWork (tellFreed l (handNodes l out c)) (tellFreed l (handNodes l out d)) := by
      intro out c d e
      unfold tellFreed handNodes
      simp only [e.ap]
      split
      · exact ⟨e.lc, rfl, e.re⟩
      · exact ⟨e.lc, rfl, e.re⟩
    refine m _ (k.forEach (fun o c d e => ?_) _)
    split_ifs
    · exact e.onPlan _ _
    · exact e

theorem noteAnswer (n : NodeRef) (x : OfferAnswer) : SameWork (Machine.noteAnswer n x a) (Machine.noteAnswer n x b) := by
  cases x
  · exact h.onPlan n _
  · exact h.onPlan n _
  · exact h.onPlan n _
  · exact h

theorem examined (n : NodeRef) (e : NodeEntry) (p : Plan) : Machine.examined a n e p = Machine.examined b n e p := by
  simp only [Machine.examined, h.room, h.line]

theorem examine (link : Option RoomId) (n : NodeRef) :
    SameWork (Machine.examine link n a) (Machine.examine link n b) := by
  unfold Machine.examine
  rw [h.entry n, h.plan n]
  split
  · rename_i e p _ _
    rw [h.examined n e p]
    split
    · rename_i t _
      have k := h.offer n.line (targetItem n e.role t link)
      simp only [k.2]
      exact k.1.noteAnswer n _
    · exact h
  · exact h

theorem retryDeferred (l : LineId) : SameWork (Machine.retryDeferred l a) (Machine.retryDeferred l b) := by
  refine h.forEach (fun x c d e => ?_) _
  simp only [e.plan ⟨l, x⟩]
  split
  · split_ifs
    · exact (e.onPlan _ _).examine _ _
    · exact e
  · exact e

theorem settleRound : SameWork (Machine.settleRound a) (Machine.settleRound b) := by
  have handed : SameWork (takeHanded a) (takeHanded b) := by
    unfold takeHanded
    rw [h.ap]
    have e : SameWork { a with ap := { b.ap with handed := [] } } { b with ap := { b.ap with handed := [] } } :=
      ⟨h.lc, rfl, h.re⟩
    exact e.forEach (fun n c d k => k.examine none n) _
  unfold Machine.settleRound takeFreed
  rw [handed.ap]
  have e : SameWork { takeHanded a with ap := { (takeHanded b).ap with freed := [] } }
      { takeHanded b with ap := { (takeHanded b).ap with freed := [] } } := ⟨handed.lc, rfl, handed.re⟩
  exact e.forEach (fun l c d k => k.retryDeferred l) _

/-- AP's inbox is taken alike. -/
theorem settle : SameWork (Machine.settle a) (Machine.settle b) := h.settleRound.settleRound.settleRound

end SameWork

/-- A round over an empty inbox does nothing. -/
theorem settleRound_of_empty {s : State} (h : s.ap.handed = []) (k : s.ap.freed = []) : settleRound s = s := by
  have e : takeHanded s = s := by
    simp only [takeHanded, h, forEach, List.foldl_nil]
    rw [← h]
  rw [settleRound, e]
  simp only [takeFreed, k, forEach, List.foldl_nil]
  rw [← k]

theorem settle_of_empty {s : State} (h : s.ap.handed = []) (k : s.ap.freed = []) : settle s = s := by
  simp only [settle, settleRound_of_empty h k]

theorem onAir_only (r : RoomId) (f : RoomAir → RoomAir) (s : State) (h : (f (s.air r)).frame = (s.air r).frame) :
    OnlyActuation s (onAir r f s) where
  rest := rfl
  lines _ := rfl
  plans _ := rfl
  air q := by
    by_cases e : q = r
    · subst e; simpa using h
    · rw [air_onAir_ne e]
  tables := ⟨rfl, rfl, rfl⟩
  fits _ q := q

theorem updateAirMode_only (r : RoomId) (s : State) : OnlyActuation s (updateAirMode r s) := by
  unfold updateAirMode
  split
  · exact onAir_only _ _ _ rfl
  · exact .refl s

theorem composeRoom_only (r : RoomId) (s : State) : OnlyActuation s (composeRoom r s) := by
  unfold composeRoom
  exact (updateAirMode_only r s).trans (forEach_only composeNode_only _ _)

theorem examineRoom_only (r : RoomId) (s : State) : OnlyActuation s (examineRoom r s) := by
  unfold examineRoom
  exact (forEach_only (fun n t => examine_only (some r) n t) _ s).trans
    (forEach_only (fun n t => examine_only (some r) n t) _ _)

theorem recompose_only (r : RoomId) (s : State) : OnlyActuation s (recompose r s) := by
  unfold recompose
  split_ifs
  · exact .refl s
  · exact (composeRoom_only r s).trans (examineRoom_only r _)

theorem recomposeMembers_only (g : SuiteId) (s : State) : OnlyActuation s (recomposeMembers g s) := by
  unfold recomposeMembers
  exact forEach_only recompose_only _ s

theorem clearOverride_only (p : Family → Bool) (n : NodeRef) (s : State) : OnlyActuation s (clearOverride p n s) := by
  unfold clearOverride
  split
  · exact onPlan_only _ _ _ fun _ _ => rfl
  · exact .refl s

theorem clearOverrides_only (p : Family → Bool) (r : RoomId) (s : State) : OnlyActuation s (clearOverrides p r s) :=
  forEach_only (clearOverride_only p) _ s

/-- No override comes about by clearing one. -/
theorem clearOverride_keeps_none (p : Family → Bool) (m n : NodeRef) (s : State)
    (h : ∀ q, s.plan n = some q → q.override = none) : ∀ q, (clearOverride p m s).plan n = some q → q.override = none := by
  unfold clearOverride
  split
  · by_cases e : n = m
    · subst e
      simp only [plan_onPlan, Option.map_eq_some_iff]
      rintro q ⟨_, _, rfl⟩
      rfl
    · rwa [plan_onPlan_ne e]
  · exact h

theorem clearOverride_clears (n : NodeRef) (s : State) {e : NodeEntry} (he : s.entry n = some e) (hf : e.role.family ≠ none) :
    ∀ q, (clearOverride (fun _ => true) n s).plan n = some q → q.override = none := by
  have : ((s.entry n).any fun e => e.role.family.any fun _ => true) = true := by
    cases f : e.role.family <;> simp_all
  simp only [clearOverride, if_pos this, plan_onPlan, Option.map_eq_some_iff]
  rintro q ⟨_, _, rfl⟩
  rfl

theorem mem_allNodes (n : NodeRef) : n ∈ allNodes := by
  simp only [allNodes, List.mem_flatMap, List.mem_map, List.mem_finRange, true_and]
  exact ⟨n.line, n.addr, rfl⟩

/-- Clearing a room's node overrides leaves none (R82, R130). -/
theorem clearOverrides_noOverrides (r : RoomId) (s : State) : (clearOverrides (fun _ => true) r s).NoOverrides r := by
  have key : ∀ (xs : List NodeRef) (n : NodeRef) (e : NodeEntry) (s : State), s.entry n = some e → e.role.family ≠ none →
      n ∈ xs ∨ (∀ q, s.plan n = some q → q.override = none) →
      ∀ q, (forEach xs (clearOverride fun _ => true) s).plan n = some q → q.override = none := by
    intro xs
    induction xs with
    | nil => exact fun n e s _ _ h => h.resolve_left (by simp)
    | cons x xs ih =>
      intro n e s he hf h
      refine ih n e (clearOverride _ x s) (by rw [(clearOverride_only _ x s).entry]; exact he) hf ?_
      rcases h with h | h
      · rcases List.mem_cons.mp h with rfl | h
        · exact .inr (clearOverride_clears n s he hf)
        · exact .inl h
      · exact .inr (clearOverride_keeps_none _ x n s h)
  intro n e q he hr hf hq
  rw [(clearOverrides_only _ r s).entry n] at he
  exact key _ n e s he hf (.inl (by simpa [State.nodesOf, he, hr] using mem_allNodes n)) q hq

theorem setOverrides_only (os : List (NodeRef × Nat)) (s : State) : OnlyActuation s (setOverrides os s) := by
  unfold setOverrides
  exact forEach_only (fun o t => onPlan_only o.1 (fun p => { p with override := some o.2 }) t fun _ _ => rfl) os s

theorem removeFamily_only (p : Family → Bool) (r : RoomId) (s : State) : OnlyActuation s (removeFamily p r s) := by
  unfold removeFamily
  exact forEach_only (fun l t => removeItems_only l _ _ t) _ s

/-! ### Node overrides that stay (R130) -/

namespace KeepsOverrides

theorem refl (s : State) : KeepsOverrides s s := fun _ => rfl

theorem trans {a b c : State} (h : KeepsOverrides a b) (k : KeepsOverrides b c) : KeepsOverrides a c :=
  fun n => (k n).trans (h n)

/-- What keeps each plan entry but for its deferred flag keeps its override. -/
theorem of_kept {s t : State} (h : ∀ n, (t.plan n).map Plan.kept = (s.plan n).map Plan.kept) : KeepsOverrides s t := by
  intro n
  simpa [Option.map_map, Function.comp_def, Plan.kept] using congrArg (Option.map Plan.override) (h n)

end KeepsOverrides

theorem forEach_overrides {α : Type} {f : α → State → State} (h : ∀ x s, KeepsOverrides s (f x s)) (xs : List α) (s : State) :
    KeepsOverrides s (forEach xs f s) :=
  forEach_rel KeepsOverrides KeepsOverrides.refl KeepsOverrides.trans h xs s

theorem composeNode_overrides (n : NodeRef) (s : State) : KeepsOverrides s (composeNode n s) := by
  intro m
  unfold composeNode
  split
  · by_cases e : m = n
    · subst e; simp [Option.map_map, Function.comp_def]
    · rw [plan_onPlan_ne e]
  · rfl

theorem composeRoom_overrides (r : RoomId) (s : State) : KeepsOverrides s (composeRoom r s) := by
  have mode : KeepsOverrides s (updateAirMode r s) := by intro n; unfold updateAirMode; split <;> rfl
  exact mode.trans (forEach_overrides composeNode_overrides _ _)

theorem examineRoom_overrides (r : RoomId) (s : State) : KeepsOverrides s (examineRoom r s) := by
  have each : ∀ (xs : List NodeRef) (t : State), KeepsOverrides t (forEach xs (examine (some r)) t) :=
    forEach_overrides fun n t => .of_kept fun m => examine_kept (some r) n m t
  exact (each _ _).trans (each _ _)

theorem recompose_overrides (r : RoomId) (s : State) : KeepsOverrides s (recompose r s) := by
  unfold recompose
  split_ifs
  · exact .refl s
  · exact (composeRoom_overrides r s).trans (examineRoom_overrides r _)

theorem recomposeMembers_overrides (g : SuiteId) (s : State) : KeepsOverrides s (recomposeMembers g s) :=
  forEach_overrides recompose_overrides _ s

theorem settle_overrides (s : State) : KeepsOverrides s (settle s) := .of_kept fun n => settle_kept n s

/-- Overrides stay absent where an event keeps both them and the node table. -/
theorem State.NoOverrides.keeps {s t : State} {r : RoomId} (h : s.NoOverrides r) (k : KeepsOverrides s t)
    (he : ∀ n, t.entry n = s.entry n) : t.NoOverrides r := by
  intro n e q hn hr hf hq
  have ho := k n
  rw [hq, Option.map_some, eq_comm, Option.map_eq_some_iff] at ho
  obtain ⟨p, hp, e'⟩ := ho
  rw [← e']
  exact h n e p (he n ▸ hn) hr hf hp

theorem clearOverride_ne (p : Family → Bool) {m n : NodeRef} (h : n ≠ m) (s : State) :
    (clearOverride p m s).plan n = s.plan n := by
  unfold clearOverride
  split
  · exact plan_onPlan_ne h ..
  · rfl

/-- Clearing a room's node overrides leaves the plans of all other nodes as they are. -/
theorem clearOverrides_spares (p : Family → Bool) (r : RoomId) (n : NodeRef) (s : State)
    (h : ∀ e, s.entry n = some e → e.room ≠ r) : (clearOverrides p r s).plan n = s.plan n := by
  have out : n ∉ s.nodesOf r := by
    simp only [State.nodesOf, List.mem_filter, not_and]
    intro _
    split
    · rename_i e he; simpa using h e he
    · simp
  have key : ∀ (xs : List NodeRef) (t : State), n ∉ xs → (forEach xs (clearOverride p) t).plan n = t.plan n := by
    intro xs
    induction xs with
    | nil => exact fun _ _ => rfl
    | cons x xs ih =>
      intro t hx
      rw [List.mem_cons, not_or] at hx
      exact (ih _ hx.2).trans (clearOverride_ne p hx.1 t)
  exact key _ s out

end Sys2Proof.Machine
end

