-- ==== Sys2Proof/Laws/Rooms.lean ====
section
/-!
SUPPORT. What conditions, notices and the room engine can do, said once: `RoomWork` for every operation of
Occupancy, and the state of NU after a condition.
-/

namespace Sys2Proof.Machine

namespace RoomWork

theorem refl (s : State) : RoomWork s s :=
  ⟨rfl, rfl, fun _ _ e => e, fun _ => rfl, fun _ h => h, fun _ => rfl, ⟨rfl, rfl, rfl⟩, fun _ => rfl, ⟨rfl, rfl⟩, id,
    fun _ => ⟨rfl, rfl⟩, fun _ => rfl⟩

theorem trans {a b c : State} (h : RoomWork a b) (k : RoomWork b c) : RoomWork a c where
  rest := by
    have e1 := h.rest; have e2 := k.rest
    rw [← e2] at e1; exact e1
  ti := k.ti.trans h.ti
  tx n hn e := k.tx n hn (h.tx n hn e)
  lines l := (k.lines l).trans (h.lines l)
  fits l e := k.fits l (h.fits l e)
  plans n := (k.plans n).trans (h.plans n)
  tables := ⟨k.tables.1.trans h.tables.1, k.tables.2.1.trans h.tables.2.1, k.tables.2.2.trans h.tables.2.2⟩
  notices r := (k.notices r).trans (h.notices r)
  queue := ⟨k.queue.1.trans h.queue.1, k.queue.2.trans h.queue.2⟩
  lists e := k.lists (h.lists e)
  configs r := ⟨(k.configs r).1.trans (h.configs r).1, (k.configs r).2.trans (h.configs r).2⟩
  members g := (k.members g).trans (h.members g)

/-- The same, the later work named first. -/
theorem after {a b c : State} (k : RoomWork b c) (h : RoomWork a b) : RoomWork a c := h.trans k

theorem of_only {s t : State} (h : OnlyActuation s t) : RoomWork s t where
  rest := by
    have e := h.rest
    have e1 := h.ti; have e2 := h.re; have e3 := h.nu
    rw [← e1, ← e2, ← e3]; exact e
  ti := by rw [h.ti]
  tx := by rw [h.ti]; exact fun _ _ e => e
  lines := h.lines
  fits := h.fits
  plans := h.plans
  tables := h.tables
  notices r := by rw [h.notice]
  queue := by rw [h.nu]; exact ⟨rfl, rfl⟩
  lists e := ⟨by rw [h.nu]; exact e.once, by rw [h.nu]; intro r hr; rw [h.notice]; exact e.pending r hr⟩
  configs r := by rw [h.room]; exact ⟨rfl, rfl⟩
  members g := by simp only [State.members, h.suite]

variable {s t : State} (h : RoomWork s t)
include h

theorem power : t.power = s.power := have e := congrArg State.power h.rest; e
theorem deaf : t.deaf = s.deaf := have e := congrArg State.deaf h.rest; e
theorem resetStage : t.resetStage = s.resetStage := have e := congrArg State.resetStage h.rest; e
theorem cl : t.cl = s.cl := have e := congrArg State.cl h.rest; e
theorem tu : t.tu = s.tu := have e := congrArg State.tu h.rest; e
theorem pu : t.pu = s.pu := have e := congrArg State.pu h.rest; e
theorem pending : t.pending = s.pending := have e := congrArg State.pending h.rest; e
theorem choices : t.choices = s.choices := have e := congrArg State.choices h.rest; e
theorem rx : t.ti.rx = s.ti.rx := have e := congrArg Ti.rx h.ti; e
theorem nodes (l : LineId) : (t.line l).nodes = (s.line l).nodes := have e := congrArg Line.nodes (h.lines l); e
theorem entry (n : NodeRef) : t.entry n = s.entry n := by simp only [State.entry, h.nodes]
theorem time (r : RoomId) : t.time r = s.time r := by simp only [State.time, h.tu]
theorem source (i : SourceId) : t.source i = s.source i := by simp only [State.source, h.pu]
theorem nodesOf (r : RoomId) : t.nodesOf r = s.nodesOf r := by simp only [State.nodesOf, h.entry]
theorem bookingsOf (r : RoomId) : t.bookingsOf r = s.bookingsOf r := by
  have e : t.lists r = s.lists r := by funext b; unfold State.lists; rw [(h.configs r).2]
  unfold State.bookingsOf; rw [e, h.tu]

end RoomWork

theorem forEach_work {α : Type} {f : α → State → State} (h : ∀ x s, RoomWork s (f x s)) (xs : List α) (s : State) :
    RoomWork s (forEach xs f s) :=
  forEach_rel RoomWork RoomWork.refl RoomWork.trans h xs s

/-! ### Conditions (R174) -/

theorem raise_work (c : Condition) (r : RoomId) (s : State) : RoomWork s (raise c r s) := by
  unfold raise
  split
  · exact .refl s
  · dsimp only
    split
    · rename_i hp
      refine ⟨rfl, rfl, fun _ _ e => e, fun _ => rfl, fun _ h => h, fun _ => rfl, ⟨rfl, rfl, rfl⟩, fun q => ?_, ⟨rfl, rfl⟩, ?_,
        fun _ => ⟨rfl, rfl⟩, fun _ => rfl⟩
      · by_cases e : q = r
        · subst e; simp [State.notice, onNotice, RoomNotice.frame]
        · simp [State.notice, onNotice, look_put_ne _ e]
      · intro l
        simp only [Bool.and_eq_true, Bool.not_eq_true'] at hp
        refine ⟨?_, ?_⟩
        · show (s.nu.pendingList ++ [r]).Nodup
          refine List.nodup_append.mpr ⟨l.once, List.nodup_singleton r, ?_⟩
          intro a ha b hb e
          rw [List.mem_singleton.mp hb] at e
          have := l.pending a ha
          rw [e, hp.2] at this; exact Bool.noConfusion this
        · intro q hq
          by_cases e : q = r
          · subst e; simp [State.notice, onNotice]
          · have hq' : q ∈ s.nu.pendingList := by
              rcases List.mem_append.mp hq with h | h
              · exact h
              · exact absurd (List.mem_singleton.mp h) e
            have := l.pending q hq'
            simpa [State.notice, onNotice, look_put_ne _ e] using this
    · refine ⟨rfl, rfl, fun _ _ e => e, fun _ => rfl, fun _ h => h, fun _ => rfl, ⟨rfl, rfl, rfl⟩, fun q => ?_, ⟨rfl, rfl⟩, ?_,
        fun _ => ⟨rfl, rfl⟩, fun _ => rfl⟩
      · by_cases e : q = r
        · subst e; simp [State.notice, onNotice, RoomNotice.frame]
        · simp [State.notice, onNotice, look_put_ne _ e]
      · intro l
        refine ⟨l.once, fun q hq => ?_⟩
        by_cases e : q = r
        · subst e; simpa [State.notice, onNotice] using l.pending q hq
        · simpa [State.notice, onNotice, look_put_ne _ e] using l.pending q hq

/-- A condition is NU's alone. -/
theorem raise_rest (c : Condition) (r : RoomId) (s : State) : { raise c r s with nu := s.nu } = s := by
  unfold raise
  split
  · rfl
  · dsimp only
    split <;> rfl

@[simp] theorem raise_re (c : Condition) (r : RoomId) (s : State) : (raise c r s).re = s.re :=
  have e := congrArg State.re (raise_rest c r s); e

@[simp] theorem raise_ap (c : Condition) (r : RoomId) (s : State) : (raise c r s).ap = s.ap :=
  have e := congrArg State.ap (raise_rest c r s); e

@[simp] theorem raise_lc (c : Condition) (r : RoomId) (s : State) : (raise c r s).lc = s.lc :=
  have e := congrArg State.lc (raise_rest c r s); e

@[simp] theorem raise_ti (c : Condition) (r : RoomId) (s : State) : (raise c r s).ti = s.ti :=
  have e := congrArg State.ti (raise_rest c r s); e

@[simp] theorem raise_room (c : Condition) (r q : RoomId) (s : State) : (raise c r s).room q = s.room q := by
  simp only [State.room, raise_re]

@[simp] theorem raise_suite (c : Condition) (r : RoomId) (g : SuiteId) (s : State) :
    (raise c r s).suite g = s.suite g := by
  simp only [State.suite, raise_re]

/-- The accumulated set after a condition (R174). -/
theorem raise_conds (c : Condition) (r : RoomId) (s : State) (h : (s.room r).state ≠ .off) :
    ((raise c r s).notice r).conds = CondSet.add (s.notice r).conds c := by
  unfold raise
  rw [if_neg h]
  dsimp only
  split
  · simp [State.notice, onNotice]
  · simp [State.notice, onNotice]

/-- Another room's notice record is as before. -/
theorem raise_notice_ne (c : Condition) {q r : RoomId} (h : q ≠ r) (s : State) :
    (raise c r s).notice q = s.notice q := by
  unfold raise
  split
  · rfl
  · dsimp only
    split
    · simp [State.notice, onNotice, look_put_ne _ h]
    · simp [State.notice, onNotice, look_put_ne _ h]

/-! ### NOTICE frames (R6, R175) -/

theorem offerTx_work (f : TxFrame) (s : State) : RoomWork s (offerTx f s) := by
  unfold offerTx
  split_ifs with h
  · refine ⟨rfl, rfl, fun _ _ _ => ?_, fun _ => rfl, fun _ h => h, fun _ => rfl, ⟨rfl, rfl, rfl⟩, fun _ => rfl,
      ⟨rfl, rfl⟩, fun l => ⟨l.once, l.pending⟩, fun _ => ⟨rfl, rfl⟩, fun _ => rfl⟩
    simp only [pushTx, List.length_append, List.length_singleton]; omega
  · refine ⟨rfl, ?_, fun _ _ e => e, fun _ => rfl, fun _ h => h, fun _ => rfl, ⟨rfl, rfl, rfl⟩, fun _ => rfl,
      ⟨rfl, rfl⟩, fun l => ⟨l.once, l.pending⟩, fun _ => ⟨rfl, rfl⟩, fun _ => rfl⟩
    simp only [countTrunk, Ti.frame]
    cases f.kind <;> rfl

/-- A NOTICE or MIRROR is TI's alone. -/
theorem offerTx_rest (f : TxFrame) (s : State) : { offerTx f s with ti := s.ti } = s := by
  unfold offerTx
  split_ifs <;> rfl

theorem buildNotices_work (s : State) : RoomWork s (buildNotices s) := by
  unfold buildNotices
  refine .trans (b := { s with nu := { s.nu with due := [] } }) ?_ (forEach_work (fun r t => offerTx_work _ t) _ _)
  exact ⟨rfl, rfl, fun _ _ e => e, fun _ => rfl, fun _ h => h, fun _ => rfl, ⟨rfl, rfl, rfl⟩, fun _ => rfl, ⟨rfl, rfl⟩,
    fun l => ⟨l.once, l.pending⟩, fun _ => ⟨rfl, rfl⟩, fun _ => rfl⟩

/-- Building the NOTICE frames changes TI, and what NU owes. -/
theorem buildNotices_rest (s : State) :
    { buildNotices s with ti := s.ti, nu := s.nu } = s ∧ (buildNotices s).nu = { s.nu with due := [] } := by
  unfold buildNotices
  have key : ∀ (xs : List RoomId) (t : State),
      { forEach xs (fun r t => offerTx (t.noticeFrame r) t) t with ti := t.ti } = t := by
    intro xs t
    refine forEach_rel (fun a b => { b with ti := a.ti } = a) (fun _ => rfl) ?_ (fun r u => offerTx_rest _ u) xs t
    intro a b c h k
    rw [← k] at h; exact h
  have k := key s.nu.due { s with nu := { s.nu with due := [] } }
  constructor
  · have e := congrArg (fun x : State => { x with nu := s.nu }) k
    exact e
  · have e := congrArg State.nu k; exact e

/-- With no NOTICE owed, the end of an event builds none. -/
theorem buildNotices_settled (s : State) (h : s.nu.due = []) : buildNotices s = s := by
  unfold buildNotices
  rw [h]
  have : { s with nu := { s.nu with due := [] } } = s := by rw [← h]
  exact this

theorem endEvent_work (s : State) : RoomWork s (endEvent s) :=
  (RoomWork.of_only (settle_only s)).trans (buildNotices_work _)

@[simp] theorem endEvent_re (s : State) : (endEvent s).re = s.re := by
  have e := congrArg State.re (buildNotices_rest (settle s)).1
  exact e.trans (settle_only s).re

@[simp] theorem endEvent_room (r : RoomId) (s : State) : (endEvent s).room r = s.room r := by
  simp only [State.room, endEvent_re]

@[simp] theorem endEvent_suite (g : SuiteId) (s : State) : (endEvent s).suite g = s.suite g := by
  simp only [State.suite, endEvent_re]

theorem endEvent_due (s : State) : (endEvent s).nu.due = [] := by
  have e := (buildNotices_rest (settle s)).2
  unfold endEvent; rw [e]

theorem endEvent_notice (r : RoomId) (s : State) : (endEvent s).notice r = s.notice r := by
  have e : (endEvent s).nu.rooms = s.nu.rooms := by
    have e1 := congrArg Nu.rooms (buildNotices_rest (settle s)).2
    have e2 := congrArg Nu.rooms (settle_only s).nu
    exact e1.trans e2
  simp only [State.notice, e]

/-! ### Plans and node overrides -/

@[simp] theorem raise_plan (c : Condition) (r : RoomId) (n : NodeRef) (s : State) : (raise c r s).plan n = s.plan n := by
  simp only [State.plan, raise_ap]

@[simp] theorem buildNotices_plan (n : NodeRef) (s : State) : (buildNotices s).plan n = s.plan n := by
  have e : (buildNotices s).ap = s.ap := have e := congrArg State.ap (buildNotices_rest s).1; e
  simp only [State.plan, e]

theorem endEvent_overrides (s : State) : KeepsOverrides s (endEvent s) :=
  (settle_overrides s).trans fun n => by rw [endEvent, buildNotices_plan]

end Sys2Proof.Machine
end

