-- ==== Sys2Proof/Laws/Occupancy.lean ====
section
/-!
SUPPORT. What the room engine's operations can do, said once: `RoomWork` for each, and which rooms they leave alone.
-/

namespace Sys2Proof.Machine

/-! ### Updates of one record -/

theorem onRoom_work (r : RoomId) (f : Room → Room) (s : State)
    (h : ∀ x, (f x).cfg = x.cfg ∧ (f x).suite = x.suite) : RoomWork s (onRoom r f s) := by
  refine ⟨rfl, rfl, fun _ _ e => e, fun _ => rfl, fun _ h => h, fun _ => rfl, ⟨rfl, rfl, rfl⟩, fun _ => rfl, ⟨rfl, rfl⟩,
    fun l => ⟨l.once, l.pending⟩, fun q => ?_, fun _ => rfl⟩
  by_cases e : q = r
  · subst e; rw [room_onRoom]; exact h _
  · rw [room_onRoom_ne e]; exact ⟨rfl, rfl⟩

theorem members_onSuite (g k : SuiteId) (f : Suite → Suite) (h : ∀ x, (f x).members = x.members) (s : State) :
    (onSuite g f s).members k = s.members k := by
  unfold State.members
  by_cases e : k = g
  · subst e; rw [suite_onSuite]; cases s.suite k <;> simp [h]
  · rw [show (onSuite g f s).suite k = s.suite k from suite_setSuite_ne e _ s]

theorem onSuite_work (g : SuiteId) (f : Suite → Suite) (s : State) (h : ∀ x, (f x).members = x.members) :
    RoomWork s (onSuite g f s) :=
  ⟨rfl, rfl, fun _ _ e => e, fun _ => rfl, fun _ h => h, fun _ => rfl, ⟨rfl, rfl, rfl⟩, fun _ => rfl, ⟨rfl, rfl⟩,
    fun l => ⟨l.once, l.pending⟩, fun _ => ⟨rfl, rfl⟩, fun k => members_onSuite g k f h s⟩

theorem onAir_work (r : RoomId) (f : RoomAir → RoomAir) (s : State) : RoomWork s (onAir r f s) :=
  ⟨rfl, rfl, fun _ _ e => e, fun _ => rfl, fun _ h => h, fun _ => rfl, ⟨rfl, rfl, rfl⟩, fun _ => rfl, ⟨rfl, rfl⟩,
    fun l => ⟨l.once, l.pending⟩, fun _ => ⟨rfl, rfl⟩, fun _ => rfl⟩

theorem ite_work {c : Prop} [Decidable c] {s a b : State} (h : RoomWork s a) (k : RoomWork s b) :
    RoomWork s (if c then a else b) := by
  split
  · exact h
  · exact k

/-! ### The machines -/

theorem clearOverrides_work (p : Family → Bool) (r : RoomId) (s : State) : RoomWork s (clearOverrides p r s) :=
  .of_only (clearOverrides_only p r s)

theorem recompose_work (r : RoomId) (s : State) : RoomWork s (recompose r s) := .of_only (recompose_only r s)

theorem recomposeMembers_work (g : SuiteId) (s : State) : RoomWork s (recomposeMembers g s) :=
  .of_only (recomposeMembers_only g s)

theorem enterVacant_work (r : RoomId) (s : State) : RoomWork s (enterVacant r s) :=
  .trans (onRoom_work r (fun x => { x with overrideScene := none, boost := false }) s fun _ => ⟨rfl, rfl⟩)
    (clearOverrides_work _ _ _)

theorem setRoomState_work (r : RoomId) (st : RoomState) (s : State) : RoomWork s (setRoomState r st s) := by
  unfold setRoomState
  split
  · exact .refl s
  · have h := (onRoom_work r (fun x => { x with state := st }) s fun _ => ⟨rfl, rfl⟩).trans (raise_work .stateChanged r _)
    dsimp only
    split
    · exact h.trans (enterVacant_work r _)
    · exact h

theorem moveRoom_work (r : RoomId) (f : OccState → OccState) (s : State) : RoomWork s (moveRoom r f s) := by
  unfold moveRoom
  split
  · split
    · exact .refl s
    · exact .after (setRoomState_work r _ _) (onRoom_work r _ s fun _ => ⟨rfl, rfl⟩)
  · exact .refl s
  · exact .refl s

theorem moveSuite_work (g : SuiteId) (f : OccState → OccState) (s : State) : RoomWork s (moveSuite g f s) := by
  unfold moveSuite
  split
  · split
    · exact .refl s
    · rename_i o _ _
      dsimp only
      have h := onSuite_work g (fun x => { x with occ := some (f o), linger := lingerAfter (f o) (s.room (s.leadOf g)).cfg.lingerTime }) s fun _ => rfl
      revert h
      generalize onSuite g (fun x => { x with occ := some (f o), linger := lingerAfter (f o) (s.room (s.leadOf g)).cfg.lingerTime }) s = u
      intro h
      have k := h.trans (forEach_work (fun m t => raise_work .stateChanged m t) (u.members g) u)
      split
      · refine k.trans (forEach_work (fun m t => ?_) _ _)
        exact .trans (onRoom_work m (fun x => { x with boost := false }) t fun _ => ⟨rfl, rfl⟩) (clearOverrides_work _ _ _)
      · exact k
  · exact .refl s

theorem presenceEdge_work (s0 : State) (r : RoomId) (s : State) : RoomWork s (presenceEdge s0 r s) := by
  unfold presenceEdge
  dsimp only
  have h : RoomWork s (if (s.room r).presence && !(s0.room r).presence then
      onRoom r (fun x => { x with seen := true }) s else s) :=
    ite_work (onRoom_work r (fun x => { x with seen := true }) s fun _ => ⟨rfl, rfl⟩) (.refl s)
  revert h
  generalize (if (s.room r).presence && !(s0.room r).presence then onRoom r (fun x => { x with seen := true }) s else s) = u
  intro h
  refine h.trans ?_
  cases u.joinedSuite r with
  | some g =>
    exact ite_work (.after (moveSuite_work g _ _) (onSuite_work g (fun x => { x with seen := true }) u fun _ => rfl))
      (ite_work (moveSuite_work g _ u) (.refl u))
  | none => exact ite_work (moveRoom_work r _ u) (ite_work (moveRoom_work r _ u) (.refl u))

theorem dutyEdge_work (was : Bool) (r : RoomId) (s : State) : RoomWork s (dutyEdge was r s) := by
  unfold dutyEdge
  split
  · exact ite_work (.refl s) (onAir_work _ _ _)
  · exact ite_work (onAir_work _ _ _) (.refl s)

theorem recomposeAfter_work (s0 : State) (r : RoomId) (s : State) : RoomWork s (recomposeAfter s0 r s) := by
  unfold recomposeAfter
  dsimp only
  split
  · exact ite_work (ite_work (.refl s) (recompose_work r s)) (recomposeMembers_work _ s)
  · exact ite_work (.refl s) (recompose_work r s)

theorem afterRoomEvent_work (s0 : State) (r : RoomId) (s : State) : RoomWork s (afterRoomEvent s0 r s) :=
  (presenceEdge_work s0 r s).trans ((dutyEdge_work _ r _).trans ((recomposeAfter_work s0 r _).trans (endEvent_work _)))

/-! ### Room actions -/

theorem startStillness_keeps (x : Room) : x.startStillness.cfg = x.cfg ∧ x.startStillness.suite = x.suite := by
  unfold Room.startStillness; split <;> exact ⟨rfl, rfl⟩

theorem restartStillness_keeps (x : Room) : x.restartStillness.cfg = x.cfg ∧ x.restartStillness.suite = x.suite := by
  unfold Room.restartStillness; split <;> exact ⟨rfl, rfl⟩

theorem countIn_keeps (v : Half) (x : Room) : (x.countIn v).cfg = x.cfg ∧ (x.countIn v).suite = x.suite := by
  unfold Room.countIn
  dsimp only
  split
  · exact startStillness_keeps _
  · exact restartStillness_keeps _

theorem countOut_keeps (v : Half) (x : Room) : (x.countOut v).cfg = x.cfg ∧ (x.countOut v).suite = x.suite := by
  unfold Room.countOut
  dsimp only
  split
  · exact ⟨rfl, rfl⟩
  · split
    · exact ⟨rfl, rfl⟩
    · exact restartStillness_keeps _

theorem overcrowdTest_work (r : RoomId) (s : State) : RoomWork s (overcrowdTest r s) := by
  unfold overcrowdTest
  dsimp only
  refine ite_work (ite_work (.refl s) ?_) (onRoom_work r _ s fun _ => ⟨rfl, rfl⟩)
  exact .after (raise_work _ _ _) (onRoom_work r _ s fun _ => ⟨rfl, rfl⟩)

theorem setOverrideScene_work (n : SceneNum) (r : RoomId) (s : State) : RoomWork s (setOverrideScene n r s) :=
  .trans (onRoom_work r (fun x => { x with overrideScene := some n }) s fun _ => ⟨rfl, rfl⟩)
    ((clearOverrides_work _ _ _).trans (recompose_work _ _))

theorem panel_work (n : SceneNum) (r : RoomId) (s : State) : RoomWork s (panel n r s) := by
  unfold panel
  split
  · exact .refl s
  · exact setOverrideScene_work n r s

theorem windowOpen_keeps (n : NodeRef) (x : Room) :
    (x.windowOpen n).cfg = x.cfg ∧ (x.windowOpen n).suite = x.suite := by
  unfold Room.windowOpen; split <;> exact ⟨rfl, rfl⟩

theorem takeRoomAct_work (act : RoomAct) (n : NodeRef) (value : Half) (r : RoomId) (s : State) :
    RoomWork s (takeRoomAct act n value r s) := by
  unfold takeRoomAct
  split
  · exact .trans (onRoom_work r Room.motion s fun _ => ⟨rfl, rfl⟩) (afterRoomEvent_work s r _)
  · exact .trans (onRoom_work r _ s (countIn_keeps value)) (.trans (overcrowdTest_work r _) (afterRoomEvent_work s r _))
  · refine .trans (onRoom_work r _ s (countOut_keeps value)) (.trans ?_ (afterRoomEvent_work s r _))
    exact .trans (ite_work (raise_work _ _ _) (.refl _)) (overcrowdTest_work r _)
  · exact .trans (onRoom_work r (Room.co2Action _ value) s fun _ => ⟨rfl, rfl⟩) (afterRoomEvent_work s r _)
  · exact .trans (onRoom_work r _ s (windowOpen_keeps n)) (afterRoomEvent_work s r _)
  · exact .trans (onRoom_work r (Room.windowClosed n) s fun _ => ⟨rfl, rfl⟩) (afterRoomEvent_work s r _)
  · exact .trans (panel_work _ r s) (endEvent_work _)
  · refine .trans ?_ (endEvent_work _)
    split
    · exact panel_work _ r s
    · exact .refl s
  · exact .trans (panel_work _ r s) (endEvent_work _)

theorem roomAction_work (act : RoomAct) (n : NodeRef) (value : Half) (r : RoomId) (s : State) :
    RoomWork s (roomAction act n value r s) := ite_work (.refl s) (takeRoomAct_work act n value r s)

/-! ### Phase reports, partitions, expiries -/

theorem suspendExam_keeps (was : Bool) (x : Room) :
    (x.suspendExam was).cfg = x.cfg ∧ (x.suspendExam was).suite = x.suite := by
  unfold Room.suspendExam
  split
  · split <;> exact ⟨rfl, rfl⟩
  · split
    · exact startStillness_keeps _
    · exact ⟨rfl, rfl⟩

theorem storePhase_keeps (p : Phase) (k : Option Booking) (x : Room) :
    (x.storePhase p k).cfg = x.cfg ∧ (x.storePhase p k).suite = x.suite := suspendExam_keeps _ _

/-- What storing a phase report makes of the room record (R72, R76, R81, R106). -/
theorem storePhase_eq (p : Phase) (k : Option Booking) (x : Room) :
    x.storePhase p k = { x with
      phase := p, cursorKind := k.map Booking.kind, bookingScene := k.map Booking.scene
      seen := if p = .on then x.presence else x.seen
      stillness :=
        if p = .on ∧ k.map Booking.kind = some .exam then if x.suspended then x.stillness else none
        else if x.suspended ∧ 0 < x.head ∧ x.motionHold = none ∧ x.stillness = none then some (x.cfg.countTrust * 60000)
        else x.stillness } := by
  have e : (p == .on && k.map Booking.kind == some .exam) = decide (p = .on ∧ k.map Booking.kind = some .exam) := by
    simp [Bool.decide_and, beq_eq_decide]
  unfold Room.storePhase Room.suspendExam Room.startStillness
  generalize x.suspended = w
  simp only [Room.suspended, e, decide_eq_true_eq, minutes]
  cases w <;> split_ifs <;> simp_all

/-- A stored phase report is held as it was made (R76, R106). -/
theorem storePhase_tookReport (p : Phase) (k : Option Booking) (x : Room) : (x.storePhase p k).TookReport (p, k) := by
  unfold Room.storePhase Room.suspendExam Room.startStillness
  split_ifs <;> exact ⟨rfl, rfl, rfl⟩

theorem suitePhase_work (g : SuiteId) (p before : Phase) (s : State) : RoomWork s (suitePhase g p before s) := by
  unfold suitePhase
  dsimp only
  refine .trans (b := if p = .on then onSuite g (fun x => { x with seen := s.suitePresence g }) s else s)
    (ite_work (onSuite_work g _ s fun _ => rfl) (.refl s)) ?_
  refine .trans (ite_work (forEach_work (fun m t => raise_work .overrun m t) _ _) (.refl _))
    ((moveSuite_work _ _ _).trans (recomposeMembers_work _ _))

theorem phaseReport_work (r : RoomId) (p : Phase) (k : Option Booking) (s : State) :
    RoomWork s (phaseReport r p k s) := by
  have h := onRoom_work r (Room.storePhase p k) s (storePhase_keeps p k)
  unfold phaseReport
  dsimp only
  split
  · exact .refl s
  · exact h.trans (.trans (ite_work (raise_work _ _ _) (.refl _))
      ((moveRoom_work _ _ _).trans ((dutyEdge_work _ _ _).trans (recompose_work _ _))))
  · split
    · exact h.trans (suitePhase_work _ _ _ _)
    · exact h

theorem joinMember_work (r : RoomId) (s : State) : RoomWork s (joinMember r s) := by
  unfold joinMember
  dsimp only
  exact .trans (ite_work (onAir_work _ _ _) (.refl s)) (.trans (setRoomState_work _ _ _)
    (.trans (onRoom_work r (fun x => { x with linger := none, overrideScene := none }) _ fun _ => ⟨rfl, rfl⟩)
      (clearOverrides_work _ _ _)))

theorem joinSuite_work (g : SuiteId) (s : State) : RoomWork s (joinSuite g s) := by
  unfold joinSuite
  dsimp only
  exact .trans (forEach_work joinMember_work _ s) (.after (recomposeMembers_work _ _) (onSuite_work g _ _ fun _ => rfl))

theorem splitMember_work (r : RoomId) (s : State) : RoomWork s (splitMember r s) := by
  unfold splitMember
  dsimp only
  exact .trans (setRoomState_work _ _ _) (.trans (clearOverrides_work _ _ _)
    (.trans (dutyEdge_work _ _ _) (recompose_work _ _)))

theorem splitSuite_work (g : SuiteId) (s : State) : RoomWork s (splitSuite g s) := by
  unfold splitSuite
  exact .trans (onSuite_work g (fun x => { x with occ := none, seen := false, linger := none }) s fun _ => rfl)
    (forEach_work splitMember_work _ _)

theorem partitionAction_work (opens : Bool) (g : SuiteId) (s : State) : RoomWork s (partitionAction opens g s) := by
  unfold partitionAction
  split
  · exact .refl s
  · exact ite_work (.trans (joinSuite_work g s) (endEvent_work _))
      (ite_work (.trans (splitSuite_work g s) (endEvent_work _)) (.refl s))

theorem motionHoldEnds_work (r : RoomId) (s : State) : RoomWork s (motionHoldEnds r s) :=
  .trans (onRoom_work r (fun x => Room.startStillness { x with motionHold := none }) s fun _ => startStillness_keeps _)
    (afterRoomEvent_work s r _)

theorem stillnessEnds_work (r : RoomId) (s : State) : RoomWork s (stillnessEnds r s) := by
  unfold stillnessEnds
  exact .trans (onRoom_work r (fun x => { x with head := 0, stillness := none, aboveCapacity := false }) s
    fun _ => ⟨rfl, rfl⟩) (.trans (raise_work _ _ _) (afterRoomEvent_work s r _))

theorem lingerEnds_work (r : RoomId) (s : State) : RoomWork s (lingerEnds r s) := by
  unfold lingerEnds
  exact .trans (onRoom_work r (fun x => { x with linger := none }) s fun _ => ⟨rfl, rfl⟩)
    (.trans (moveRoom_work _ _ _) (afterRoomEvent_work s r _))

theorem suiteLingerEnds_work (g : SuiteId) (s : State) : RoomWork s (suiteLingerEnds g s) := by
  unfold suiteLingerEnds
  exact .trans (onSuite_work g (fun x => { x with linger := none }) s fun _ => rfl)
    (.trans (moveSuite_work _ _ _) (.trans (recomposeMembers_work _ _) (endEvent_work _)))

theorem recomposePart_work (b : Option DutyPart) (r : RoomId) (s : State) : RoomWork s (recomposePart b r s) :=
  ite_work (.refl s) (.trans (recompose_work r s) (endEvent_work _))

theorem dutyEnds_work (r : RoomId) (s : State) : RoomWork s (dutyEnds r s) :=
  .trans (onAir_work r RoomAir.expire s) (recomposePart_work _ r _)

/-! ### A room's machine: what becomes of the room, and of the others -/

theorem enterVacant_re (r : RoomId) (s : State) :
    (enterVacant r s).re = (onRoom r (fun x => { x with overrideScene := none, boost := false }) s).re :=
  (clearOverrides_only _ _ _).re

/-- The room record after a change of state (R82). -/
theorem setRoomState_room (r : RoomId) (st : RoomState) (s : State) :
    (setRoomState r st s).room r =
      if (s.room r).state = st then s.room r
      else if st = .run .vacant then { s.room r with state := st, overrideScene := none, boost := false }
      else { s.room r with state := st } := by
  unfold setRoomState
  split
  · rfl
  · dsimp only
    split
    · simp [State.room, enterVacant_re, onRoom]
    · simp

theorem setRoomState_room_ne (r : RoomId) (st : RoomState) {q : RoomId} (h : q ≠ r) (s : State) :
    (setRoomState r st s).room q = s.room q := by
  unfold setRoomState
  split
  · rfl
  · dsimp only
    split
    · simp [State.room, enterVacant_re, onRoom, look_put_ne _ h]
    · simp [room_onRoom_ne h]

/-- The room record after its machine moves (R77, R78, R82). -/
theorem moveRoom_room (r : RoomId) (f : OccState → OccState) (s : State) {o : OccState}
    (h : (s.room r).state = .run o) :
    (moveRoom r f s).room r =
      if f o = o then s.room r
      else
        let x := { s.room r with state := .run (f o), linger := lingerAfter (f o) (s.room r).cfg.lingerTime }
        if f o = .vacant then { x with overrideScene := none, boost := false } else x := by
  unfold moveRoom
  rw [h]
  dsimp only
  split
  · rfl
  · rename_i hf
    rw [setRoomState_room, room_onRoom, h]
    have e : ¬ (RoomState.run o = RoomState.run (f o)) := fun e => hf (RoomState.run.inj e).symm
    rw [if_neg e]
    by_cases hv : f o = .vacant
    · rw [if_pos (by rw [hv]), if_pos hv]
    · rw [if_neg (fun e => hv (RoomState.run.inj e)), if_neg hv]

theorem moveRoom_room_ne (r : RoomId) (f : OccState → OccState) {q : RoomId} (h : q ≠ r) (s : State) :
    (moveRoom r f s).room q = s.room q := by
  unfold moveRoom
  split
  · split
    · rfl
    · rw [setRoomState_room_ne _ _ h, room_onRoom_ne h]
  · rfl
  · rfl

@[simp] theorem moveRoom_suite (r : RoomId) (f : OccState → OccState) (g : SuiteId) (s : State) :
    (moveRoom r f s).suite g = s.suite g := by
  have key : ∀ (st : RoomState) (t : State), (setRoomState r st t).suite g = t.suite g := by
    intro st t
    unfold setRoomState
    split
    · rfl
    · dsimp only
      split
      · simp [State.suite, enterVacant_re, onRoom]
      · simp
  unfold moveRoom
  split
  · split
    · rfl
    · rw [key]; rfl
  · rfl
  · rfl

/-- A period start begins a period of the pending duty, or of the active one (R126). -/
theorem startPeriod_begun (a : RoomAir) : (startPeriod a).Begun (a.waiting.getD a.active) := by
  unfold startPeriod
  dsimp only
  split_ifs with h k
  · exact ⟨rfl, rfl, fun _ => ⟨rfl, rfl⟩, fun p => absurd h p.ne', fun p => absurd h p.ne'⟩
  · exact ⟨rfl, rfl, fun z => absurd z h, fun _ _ => ⟨rfl, rfl⟩, fun _ z => absurd z k.ne'⟩
  · exact ⟨rfl, rfl, fun z => absurd z h, fun _ z => absurd z k, fun _ _ => ⟨rfl, rfl⟩⟩

/-- Duty follows an event that left the room's air as it was (R126). -/
theorem dutyEdge_follows (s0 : State) (r : RoomId) (s : State) (h : s.air r = s0.air r) :
    DutyFollows s0 (dutyEdge (s0.inDuty r) r s) r := by
  have i : (dutyEdge (s0.inDuty r) r s).inDuty r = s.inDuty r := by
    unfold dutyEdge State.inDuty; split_ifs <;> rfl
  constructor <;> intro a <;> try intro b
  all_goals rw [i] at *
  · cases c : s0.inDuty r <;> simp_all [dutyEdge]
  · simp_all [dutyEdge, RoomAir.leaveDuty, RoomAir.frame]
  · simpa [dutyEdge, a, b, h] using startPeriod_begun (s0.air r)

theorem dutyEdge_re (was : Bool) (r : RoomId) (s : State) : (dutyEdge was r s).re = s.re := by
  unfold dutyEdge; split <;> split <;> rfl

theorem recomposeAfter_re (s0 : State) (r : RoomId) (s : State) : (recomposeAfter s0 r s).re = s.re := by
  unfold recomposeAfter
  dsimp only
  have h : (if (s.room r).drives = (s0.room r).drives then s else recompose r s).re = s.re := by
    split
    · rfl
    · exact (recompose_only r s).re
  split
  · split
    · exact h
    · exact (recomposeMembers_only _ s).re
  · exact h

/-- The room engine's records after a room event are those after its presence edge. -/
theorem afterRoomEvent_re (s0 : State) (r : RoomId) (s : State) :
    (afterRoomEvent s0 r s).re = (presenceEdge s0 r s).re := by
  unfold afterRoomEvent
  rw [endEvent_re, recomposeAfter_re, dutyEdge_re]

theorem afterRoomEvent_room (s0 : State) (r q : RoomId) (s : State) :
    (afterRoomEvent s0 r s).room q = (presenceEdge s0 r s).room q := by
  simp only [State.room, afterRoomEvent_re]

theorem afterRoomEvent_due (s0 : State) (r : RoomId) (s : State) : (afterRoomEvent s0 r s).nu.due = [] := by
  unfold afterRoomEvent
  exact endEvent_due _

/-! ### Node overrides through duty and changes of state (R82, R130) -/

theorem dutyEdge_plan (was : Bool) (r : RoomId) (n : NodeRef) (s : State) : (dutyEdge was r s).plan n = s.plan n := by
  unfold dutyEdge; split_ifs <;> rfl

/-- Only entry to VACANT clears node overrides (R82). -/
theorem setRoomState_overrides (r : RoomId) {st : RoomState} (h : st ≠ .run .vacant) (s : State) :
    KeepsOverrides s (setRoomState r st s) := by
  intro n
  unfold setRoomState
  split_ifs
  · rfl
  · rw [raise_plan]; rfl

/-- Entry to VACANT leaves the room no node override (R82). -/
theorem setRoomState_noOverrides (r : RoomId) {s : State} (h : (s.room r).state ≠ .run .vacant) :
    (setRoomState r (.run .vacant) s).NoOverrides r := by
  unfold setRoomState
  rw [if_neg h]
  exact clearOverrides_noOverrides r _

/-- A change of state leaves the plans of other rooms' nodes as they are. -/
theorem setRoomState_spares (r : RoomId) (st : RoomState) (n : NodeRef) (s : State)
    (h : ∀ e, s.entry n = some e → e.room ≠ r) : (setRoomState r st s).plan n = s.plan n := by
  unfold setRoomState
  split_ifs
  · rfl
  · rw [enterVacant, clearOverrides_spares]
    · exact raise_plan ..
    · intro e he
      have : (raise .stateChanged r (onRoom r (fun x => { x with state := st }) s)).entry n = some e := he
      rw [(raise_work _ _ _).entry] at this
      exact h e this
  · rw [raise_plan]; rfl

end Sys2Proof.Machine
end

