-- ==== Sys2Proof/Laws/Requests.lean ====
section
/-!
SUPPORT. What taking a frame, an expiry, an order that is free, a wing report, an event of the clock and RESTART can do, said once.
-/

namespace Sys2Proof.Machine

/-! ### Requests (R5, R186, R187) -/

theorem requestWhen_takes {p : List Byte → Bool} {code tag : Byte} {ps : List Byte} (h : Handler) {s : State}
    (t : s.Takes code tag ps) (hp : p ps = true) :
    requestWhen p code.toNat h s = .next (serve tag code ps h (dropFrame s)) := by
  unfold requestWhen
  rw [show s.nextFrame = _ from t]
  simp [hp]

/-- A request that is refused: its REPLY is all (R187). -/
theorem serve_refused {h : Handler} {tag code : Byte} {ps : List Byte} {s : State} {r : ResultCode}
    (e : h ps s = .error r) : serve tag code ps h s = pushTx (replyFrame tag code r []) s := by
  unfold serve; rw [e]

/-- A request that is accepted: its REPLY follows its work (R186). -/
theorem serve_done {h : Handler} {tag code : Byte} {ps data : List Byte} {s t : State} (e : h ps s = .ok (t, data)) :
    serve tag code ps h s = pushTx (replyFrame tag code .done data) t := by
  unfold serve; rw [e]

theorem request_done {c : Instr} {code tag : Byte} {ps data : List Byte} {h : Handler} {s t : State}
    (x : exec c s = request code.toNat h s) (k : s.Takes code tag ps) (e : h ps (dropFrame s) = .ok (t, data)) :
    AnswersDone c s code tag data t := by
  unfold AnswersDone
  rw [x, request, requestWhen_takes h k rfl, serve_done e]; rfl

@[simp] theorem dropFrame_room (s : State) : (dropFrame s).room = s.room := rfl
@[simp] theorem dropFrame_suite (s : State) : (dropFrame s).suite = s.suite := rfl
@[simp] theorem dropFrame_line (s : State) : (dropFrame s).line = s.line := rfl
@[simp] theorem dropFrame_entry (s : State) : (dropFrame s).entry = s.entry := rfl
@[simp] theorem dropFrame_plan (s : State) : (dropFrame s).plan = s.plan := rfl
@[simp] theorem dropFrame_air (s : State) : (dropFrame s).air = s.air := rfl
@[simp] theorem dropFrame_time (s : State) : (dropFrame s).time = s.time := rfl
@[simp] theorem dropFrame_notice (s : State) : (dropFrame s).notice = s.notice := rfl
@[simp] theorem dropFrame_source (s : State) : (dropFrame s).source = s.source := rfl

/-- A REPLY or REJECT is TI's alone. -/
theorem pushTx_rest (f : TxFrame) (s : State) : { pushTx f s with ti := s.ti } = s := rfl

/-! ### Expiries (R64, R84) -/

@[simp] theorem ifExpired_zero (f : State → State) (s : State) : ifExpired (some 0) f s = f s := rfl

theorem ifExpired_ne {t : Timer} (h : t ≠ some 0) (f : State → State) (s : State) : ifExpired t f s = s := if_neg h

theorem whenReady_unchanged {f : State → State} {s : State} (h : f s = s) : whenReady f s = .next s := by
  simp [whenReady, h]

/-! ### A free order (log 4) -/

theorem insertRanked_perm {α : Type} (n : Nat) (p : α × Nat) (qs : List (α × Nat)) :
    (insertRanked n p qs).Perm (p :: qs) := by
  induction qs with
  | nil => exact .refl _
  | cons q qs ih =>
    unfold insertRanked
    split_ifs
    · exact .refl _
    · exact (ih.cons q).trans (.swap p q qs)

/-- A free order takes every piece of work once. -/
theorem freeOrder_perm {α : Type} (n : Nat) (xs : List α) : (freeOrder n xs).Perm xs := by
  have key : ∀ ys : List (α × Nat), (ys.foldr (insertRanked n) []).Perm ys := by
    intro ys
    induction ys with
    | nil => exact .refl _
    | cons y ys ih => exact (insertRanked_perm n y _).trans (ih.cons y)
  have h := (key xs.zipIdx).map Prod.fst
  unfold freeOrder
  simpa [List.zipIdx_map_fst] using h

theorem mem_freeOrder {α : Type} {n : Nat} {xs : List α} {x : α} : x ∈ freeOrder n xs ↔ x ∈ xs :=
  (freeOrder_perm n xs).mem_iff

theorem forEachFree_eq {α : Type} (xs : List α) (f : α → State → State) (s : State) :
    forEachFree xs f s = forEach (freeOrder s.choices xs) f { s with choices := s.choices + 1 } := rfl

/-- What every piece of work keeps, all of them keep in any order. -/
theorem forEachFree_rel {α : Type} (R : State → State → Prop) (refl : ∀ s, R s s)
    (trans : ∀ {a b c}, R a b → R b c → R a c) {f : α → State → State} (drawn : ∀ s, R s { s with choices := s.choices + 1 })
    (h : ∀ x s, R s (f x s)) (xs : List α) (s : State) : R s (forEachFree xs f s) :=
  trans (drawn s) (forEach_rel R refl trans h _ _)

theorem forEachFree_keeps {α β : Type} (π : State → β) {f : α → State → State}
    (drawn : ∀ s : State, π { s with choices := s.choices + 1 } = π s) (h : ∀ x s, π (f x s) = π s) (xs : List α)
    (s : State) : π (forEachFree xs f s) = π s :=
  forEachFree_rel (fun s t => π t = π s) (fun _ => rfl) (fun h1 h2 => h2.trans h1) drawn h xs s

/-! ### Wing reports (R183, R184) -/

theorem markNewest_length (ws : List WingReport) : (markNewest ws).length = ws.length := by
  induction ws with
  | nil => rfl
  | cons w ws ih =>
    cases ws with
    | nil => rfl
    | cons v vs => simpa [markNewest] using ih

/-- A wing report is the queue's alone, and the queue never outgrows its 16 places. -/
theorem writeWing_rest (k : WingKind) (s : State) :
    { writeWing k s with nu := s.nu } = s ∧ { (writeWing k s).nu with wing := s.nu.wing } = s.nu ∧
      (s.nu.wing.length ≤ 16 → (writeWing k s).nu.wing.length ≤ 16) := by
  unfold writeWing
  split_ifs with h
  · exact ⟨rfl, rfl, fun _ => by simp; omega⟩
  · exact ⟨rfl, rfl, fun e => by simpa [markNewest_length] using e⟩

/-! ### The clock's events (R90, R93; log 38) -/

/-- The event of a clock that was replaced only clears the mark. -/
theorem clockEvent_void {p : Nat → Bool} {f : Clock → State → State} {s : State} (h : s.tu.void = true) :
    clockEvent p f s = { s with tu := { s.tu with void := false } } := if_pos h

theorem clockEvent_unset {p : Nat → Bool} {f : Clock → State → State} {s : State} (h : s.tu.void = false)
    (u : s.tu.clock = none) : clockEvent p f s = s := by
  simp [clockEvent, h, u]

/-- An event whose second does not admit it does nothing. -/
theorem clockEvent_early {p : Nat → Bool} {f : Clock → State → State} {s : State} {c : Clock} (h : s.tu.void = false)
    (u : s.tu.clock = some c) (e : p c.second = false) : clockEvent p f s = s := by
  simp [clockEvent, h, u, e]

theorem clockEvent_taken {p : Nat → Bool} {f : Clock → State → State} {s : State} {c : Clock} (h : s.tu.void = false)
    (u : s.tu.clock = some c) (e : p c.second = true) :
    clockEvent p f s = f c { s with tu := { s.tu with ms := 0 } } := by
  simp [clockEvent, h, u, e]

/-- Replacing the clock writes its three fields of TU and nothing else. -/
theorem replaceClock_rest (c : Clock) (s : State) :
    { replaceClock c s with tu := s.tu } = s ∧ (replaceClock c s).tu.clock = some c ∧ (replaceClock c s).tu.ms = 0 ∧
      (replaceClock c s).tu.store = s.tu.store ∧ (replaceClock c s).tu.rooms = s.tu.rooms := ⟨rfl, rfl, rfl, rfl, rfl⟩

/-! ### RESTART (R40) -/

/-- The item in flight is dropped on its own line, and nothing else changes. -/
theorem dropInFlight_rest (l : LineId) (s : State) :
    { dropInFlight l s with lc := s.lc } = s ∧ (∀ k, k ≠ l → (dropInFlight l s).line k = s.line k) ∧
      ((dropInFlight l s).line l).inFlight = none ∧ ((dropInFlight l s).line l).queued = (s.line l).queued := by
  unfold dropInFlight
  split_ifs with h
  · exact ⟨rfl, fun k e => line_onLine_ne e _ _, by simp, by simp [Line.queued]⟩
  · exact ⟨rfl, fun _ _ => rfl, by simpa using h, rfl⟩

/-- Only the lines and AP's part differ. -/
structure LinesAndPlansOnly (s t : State) : Prop where
  rest : { t with lc := s.lc, ap := s.ap } = s

theorem LinesAndPlansOnly.trans {a b c : State} (h : LinesAndPlansOnly a b) (k : LinesAndPlansOnly b c) :
    LinesAndPlansOnly a c := by
  have e := h.rest
  rw [← k.rest] at e; exact ⟨e⟩

/-- Steps 1 and 2 change the lines and AP's part alone. -/
theorem flushLine_only (l : LineId) (s : State) : LinesAndPlansOnly s (flushLine l s) := by
  have dropped : ∀ t, LinesAndPlansOnly t (dropInFlight l t) := fun t => by
    unfold dropInFlight; split_ifs <;> exact ⟨rfl⟩
  exact .trans ⟨(removeItems_only l _ _ s).rest⟩ (dropped _)

/-- Steps 3 to 5 change the lines and AP's part alone. -/
theorem cleanLine_only (l : LineId) (s : State) : LinesAndPlansOnly s (cleanLine l s) := by
  have onNode : ∀ n t, LinesAndPlansOnly t (onPlan n Plan.restarted (setHealth n .online false t)) := fun _ _ => ⟨rfl⟩
  have onNodes := forEach_rel LinesAndPlansOnly (fun _ => ⟨rfl⟩) .trans onNode
  have onTheLine : ∀ f t, LinesAndPlansOnly t (onLine l f t) := fun _ _ => ⟨rfl⟩
  unfold cleanLine countLine
  exact .trans (.trans (onTheLine _ _) (onNodes _ _)) (onTheLine _ _)

/-- Step 5 leaves the nine counts 0. -/
theorem cleanLine_counts (l : LineId) (s : State) : ((cleanLine l s).line l).counts = LineCounts.zero := by
  simp [cleanLine, countLine]

/-- What the offers of steps 2 and 4 add to the clean line. -/
theorem restartLine_offers (l : LineId) (s : State) :
    ∃ t, OnlyActuation (cleanLine l (flushLine l s)) t ∧ restartLine l s = endEvent t :=
  ⟨_, forEach_only (fun n t => examine_only none n t) _ _, rfl⟩

end Sys2Proof.Machine
end

