-- ==== Sys2Proof/Tests/Slice0.lean ====
section
/-!
SUPPORT. The checks refuse ill-formed commands; a few steps on small states; and, for every statement with hypotheses, a
state and operands that meet them, clause by clause.
-/

open Sys2Proof Sys2Proof.Machine

namespace Sys2Proof.Tests

set_option Elab.async false

/-! ### Ill-formed commands -/

theorem test_report_of_node_0_is_ill_formed : (Instr.report 0 0 .motion 0).wf = false := by decide
theorem test_arrived_of_node_0_is_ill_formed : (Instr.arrived 0 0 0).wf = false := by decide
theorem test_arrived_above_100_is_ill_formed : (Instr.arrived 0 1 101).wf = false := by decide
theorem test_echo_of_node_0_is_ill_formed : (Instr.echo 0 0 0 0).wf = false := by decide
theorem test_travel_of_node_0_is_ill_formed : (Instr.travelTimerExpiry 0 0).wf = false := by decide
theorem test_valid_frame_is_no_invalid_line_frame :
    (Instr.invalidLineFrame 0 ⟨false, (LineMessage.arrived 1 50).bytes⟩).wf = false := by decide +kernel
theorem test_well_formed : (Instr.arrived 0 1 100).wf = true ∧ (Instr.invalidLineFrame 0 ⟨false, [1, 2]⟩).wf = true := by
  decide +kernel

/-! ### Checks and frames against known values -/

/-- The digits 1 to 9 in ASCII. -/
def digits : List Byte := [0x31, 0x32, 0x33, 0x34, 0x35, 0x36, 0x37, 0x38, 0x39]

theorem test_crc16_of_digits : crc16 digits = 0xFEE8 := by decide +kernel
theorem test_crc8_of_digits : crc8 digits = 0xF4 := by decide +kernel

/-! ### Small states -/

/-- A configuration in range. -/
def cfg1 : RoomConfig :=
  { capacity := 30, vacantScene := 0, adHocScene := 1, lingerTime := 60, motionHold := 30, countTrust := 5
    co2Threshold := 1000, hysteresis := 100, lingerLevel := 50, standbyFlow := 20, comfortBase := 30, perHead := 10
    boostFlow := 80 }

/-- A vacant room. -/
def vacant1 : Room := { Room.off with state := .run .vacant, cfg := cfg1 }

/-- The part with room 3 as `f` makes it of a vacant room. -/
def withRoom (f : Room → Room) : State := onRoom 3 (fun _ => f vacant1) State.reset

/-- The part with one vacant room. -/
def oneRoom : State := withRoom id

/-- A node of room 3 with this role. -/
def node3 (r : Role) (h : Health) : NodeEntry :=
  { room := 3, role := r, statusRef := 0, statusMask := 0xFFFF, health := h, missed := false }

/-- Node 1 of line A with this role and plan. -/
def withNode (r : Role) (p : Option Plan) (s : State) : State :=
  setPlan ⟨0, 1⟩ p (setEntry ⟨0, 1⟩ (some (node3 r .online)) s)

/-- Line A changed. -/
def lineA (f : Line → Line) (s : State) : State := onLine 0 f s

/-- A request with tag 7 waits in the receive buffer. -/
def asked (code : Byte) (ps : List Byte) (s : State) : State :=
  { s with ti := { s.ti with rx := [⟨.request, 7, code :: ps⟩] } }

/-- A PASS with tag 7 waits. -/
def passed (payload : List Byte) (s : State) : State := { s with ti := { s.ti with rx := [⟨.pass, 7, payload⟩] } }

/-- The part with this clock and store. -/
def timed (c : Clock) (store : List Booking) (s : State) : State :=
  { s with tu := { s.tu with clock := some c, store := store } }

/-- A booking of room 3, minutes 100 to 200, of this week or of every week. -/
def booking3 (week : Option Nat) : Booking :=
  { id := 9, target := .room 3, start := 100, finish := 200, kind := .lecture, scene := 1, lead := 10, lag := 5, confirm := 0
    week := week, heads := 20 }

/-- A SET LEVEL item of a room for node 1. -/
def roomItem : Item :=
  { node := 1, kind := .setLevel, value := 500, ramp := 2, origin := .room, link := some 3, passTag := none }

/-- A PROTECT item for node 1. -/
def protectItem : Item := { roomItem with origin := .protect }

/-- Items for 32 nodes in one band. -/
def full (o : Origin) : List Item := (List.finRange 32).map fun a => { roomItem with node := a, kind := .query, origin := o }

/-- What a command leaves, seen through `f`. -/
def seen {α : Type} (f : State → α) (c : Instr) (s : State) : Option α :=
  match exec c s with
  | .next t => some (f t)
  | _ => none

/-- The result byte of the youngest frame. -/
def result (s : State) : Option Byte := s.ti.tx.getLast?.bind fun f => f.payload[1]?

/-! ### A few steps -/

theorem test_read_clock_answers : seen (fun t => t.ti.tx) .readClock (asked 0x41 [] State.reset) =
    some [⟨.reply, 7, [0x41, 0, 0, 0, 0, 0, 0]⟩] := by decide +kernel
theorem test_unknown_code_is_format : seen result .unknownRequestCode (asked 0x99 [] State.reset) = some (some 1) := by
  decide +kernel
theorem test_another_rows_frame_is_left : seen (fun t => t.ti.rx.length) .readClock (asked 0x99 [] State.reset) = some 1 := by
  decide +kernel
theorem test_motion_makes_occupied : seen (fun t => (t.room 3).state) (.report 0 1 .motion 1)
    { withNode .sensor none oneRoom with cl := { State.reset.cl with rules := put State.reset.cl.rules 0 (some
      { line := none, node := none, code := some .motion, reference := 0, mask := 0, whenDifferent := false
        action := .room .motion .fromNode, goesOn := false, mirror := false }) } } = some (.run .occupied) := by
  decide +kernel
theorem test_pass_becomes_an_item : seen (fun t => ((t.line 0).normal.map Item.value, (t.plan ⟨0, 1⟩).bind Plan.override)) .pass
    (passed [0, 1, 0x11, 1, 0xF4, 0] (withNode (.light 0 1) (some Plan.fresh) oneRoom)) = some ([500], some 500) := by
  decide +kernel
theorem test_rejected_pass : seen (fun t => t.ti.tx) .pass (passed [0, 9, 0x11, 0, 0, 0] oneRoom) =
    some [⟨.reject, 7, [1, 0, 9]⟩] := by decide +kernel
theorem test_suspended_line_sends_nothing : seen (fun t => (t.line 0).inFlight) (.itemTakenForSending 0)
    (lineA (fun x => { x with normal := [roomItem], suspended := true }) State.reset) = some none := by decide +kernel
theorem test_item_is_sent : seen (fun t => ((t.line 0).inFlight, (t.line 0).driving)) (.itemTakenForSending 0)
    (lineA (fun x => { x with normal := [roomItem] }) State.reset) = some (some roomItem, true) := by decide +kernel
theorem test_echo_timer_is_512_ms : seen (fun t => (t.line 0).echoTimer) (.commandFrameSent 0)
    (lineA (fun x => { x with inFlight := some roomItem, driving := true }) State.reset) = some (some 512) := by
  decide +kernel
theorem test_tick_runs_a_timer_down : (tick (withRoom fun x => { x with motionHold := some 2 })).room 3 =
    { vacant1 with motionHold := some 1 } := by decide +kernel
theorem test_scene_level_is_rounded : roundLevel .nearest 100 549 = 500 ∧ roundLevel .nearest 100 550 = 600 ∧
    roundLevel .up 250 760 = 1000 ∧ roundLevel .up 30 1000 = 990 := by decide
theorem test_demand_flow : demandFlow cfg1 25 = 55 ∧ demandFlow cfg1 500 = 100 := by decide
theorem test_raise_fault_writes_a_wing_report : seen (fun t => ((t.source 2).state, t.nu.wing.getLast?.map WingReport.kind))
    .raiseFault (asked 0x61 [2] State.reset) = some (.active, some (.faultAsserted 2)) := by decide +kernel

/-! ### States and operands that meet the statements' hypotheses -/

/-- A REQUEST frame to the part's address with its check. -/
def goodFrame (address kind : Byte) (payload : List Byte) : RawFrame :=
  ⟨false, trunkFrameBytes address kind.toNat 7 payload⟩

theorem witness_StepRunsTheFrontCommand :
    ({ State.reset with pending := [.frameSent, .powerLoss] } : State).pending = .frameSent :: [.powerLoss] := rfl

/-- The part off; a room's timer that has one millisecond left, and one that has two; the last millisecond of second 58 and
of second 59; an expiry with a millisecond left. -/
theorem witness_CrystalRunsTheTimers :
    ({ State.reset with power := .off } : State).pending = [] ∧
    (∀ x ∈ [((1 : Nat), [Instr.motionHoldExpiry 3]), (2, [])],
      let s := withRoom fun y => { y with motionHold := some x.1 }
      s.power = .ready ∧ s.pending = [] ∧ (tick s).pending = x.2) ∧
    (∀ x ∈ [((58 : Nat), Instr.clockSecondAdvance), (59, .minuteBoundary)],
      let s : State := { State.reset with tu := { State.reset.tu with clock := some ⟨1, 2, x.1⟩, ms := 999 } }
      s.power = .ready ∧ s.pending = [] ∧ (tick s).pending = [x.2] ∧ (tick s).tu.ms = 1000) ∧
    seen (fun t => (t.room 3).motionHold) (.motionHoldExpiry 3) (withRoom fun y => { y with motionHold := some 1 }) =
      some (some 1) := by decide +kernel

theorem witness_ResetAndPowerGiveTheStartTable :
    (∃ s : State, s.power = .ready ∧ s.resetStage = .replySent) ∧ (∃ s : State, s.deaf = some 0) ∧
    (∃ s : State, s.power = .off) ∧ (∃ s : State, s.power = .starting) ∧ ∃ s : State, s.power ≠ .off :=
  ⟨⟨{ State.reset with resetStage := .replySent }, rfl, rfl⟩, ⟨{ State.reset with deaf := some 0 }, rfl⟩,
    ⟨{ State.reset with power := .off }, rfl⟩, ⟨{ State.reset with power := .starting }, rfl⟩, State.reset, by decide⟩

/-- A broken frame at each edge; a wrong check; a foreign address; a kind that is none; lengths 240 and 241; a PASS; a
full buffer and one with one place left. -/
theorem witness_TrunkFrameIsJudgedInOrder :
    ({ State.reset with deaf := some 2 } : State).hears = false ∧ State.reset.hears = true ∧
    (goodFrame 1 1 []).bytes.length = 6 ∧ (goodFrame 1 1 []).bytes.getD 3 0 = 0 ∧
    crc16 (goodFrame 1 1 []).bytes = 0 ∧ crc16 [1, 1, 7, 0, 0, 0] ≠ 0 ∧
    rxKindOf 1 240 = some .request ∧ rxKindOf 1 241 = none ∧
    crc16 (goodFrame 2 1 [0x41]).bytes = 0 ∧ crc16 (goodFrame 1 2 []).bytes = 0 ∧
    crc16 (goodFrame 1 3 [0, 1, 0x15, 0, 0, 0]).bytes = 0 ∧
    seen (fun t => t.ti.rx.length) (.trunkFrameReceived (goodFrame 1 1 [0x41])) (asked 0x41 [] State.reset) = some 2 ∧
    seen (fun t => t.ti.counts.overruns) (.trunkFrameReceived (goodFrame 1 1 [0x41]))
      { State.reset with ti := { State.reset.ti with rx := List.replicate 4 ⟨.request, 7, []⟩ } } = some 1 := by
  decide +kernel

theorem witness_TrunkInterfaceSendsAndAnswers :
    (let s : State := pushTx (replyFrame 7 0x41 .done []) State.reset
     let bare : State := { s with ti := { s.ti with address := 63 } }
     s.power = .ready ∧ s.ti.tx = [replyFrame 7 0x41 .done []] ∧ s.ti.address ≠ 0 ∧ s.ti.address ≠ 63 ∧
       s.resetStage = .idle ∧ bare.ti.tx = s.ti.tx ∧ bare.ti.address = 63) ∧
    ({ State.reset with ti := { State.reset.ti with rx := [⟨.request, 7, []⟩] } } : State).nextFrame =
      some ⟨.request, 7, []⟩ ∧
    (asked 0x99 [1] State.reset).Takes 0x99 7 [1] ∧ (0x99 : Byte).toNat ∉ requestCodes ∧
    (asked 0x01 [] State.reset).Takes 0x01 7 [] ∧
    (let s : State := { pushTx ⟨.reply, 7, [1, 0]⟩ State.reset with resetStage := .requested }
     s.power = .ready ∧ s.resetStage = .requested ∧ s.ti.address ≠ 0 ∧ s.ti.address ≠ 63 ∧
       s.ti.tx = [⟨.reply, 7, [1, 0]⟩]) := by decide +kernel

theorem witness_RequestsAreAnsweredByTheirOwner :
    plainRow .readClock 0x41 readClock ∈ requestRows ∧
    (asked 0x41 [0] State.reset).Takes 0x41 7 [0] ∧ readClock [0] (dropFrame (asked 0x41 [0] State.reset)) = .error .format ∧
    (asked 0x41 [] State.reset).Takes 0x41 7 [] ∧
    (readClock [] (dropFrame (asked 0x41 [] State.reset))).toOption.map Prod.snd = some [0, 0, 0, 0, 0] :=
  ⟨by simp [requestRows, roomRows], by decide +kernel, rfl, by decide +kernel, by decide +kernel⟩

/-- A LIGHT node with a plan, online, in a vacant room. -/
def lit : State := withNode (.light 0 1) (some Plan.fresh) oneRoom

/-- A BLIND node with a plan. -/
def blind (p : Plan) : State := withNode (.blind 20) (some p) oneRoom

/-- What judgePass refuses with. -/
def refusal (s : State) (ps : List Byte) : Option RejectReason :=
  match judgePass s ps with
  | .error r => some r
  | .ok _ => none

/-- The state of source 2, which asks for FULL lights in room 3, and the rest of the part. -/
def lightsFull (st : FaultState) (s : State) : State :=
  onSource 2 (fun x => { x with state := st, supervisorFlag := st == .active, cfg := { x.cfg with rooms := 8, lights := .first } }) s

/-- Every check of R10, in order, failing first on the payload of its pair; and none. -/
theorem witness_RefusedPassChangesNothing :
    (∀ x ∈ [(lit, [(4 : Byte), 1, 0x15, 0, 0, 0], some RejectReason.unknown), (lit, [0, 0, 0x15, 0, 0, 0], some .unknown),
        (lit, [0, 1, 0x16, 0, 0, 0], some .unknown), (lit, [0, 1, 0x11, 3, 0xE9, 0], some .unknown),
        (lit, [0, 1, 0x11, 3, 0xE8, 61], some .unknown), (lit, [0, 2, 0x15, 0, 0, 0], some .unknown),
        (lit, [0, 1, 0x12, 0, 100, 0], some .unknown),
        (withNode (.light 0 1) (some Plan.fresh) State.reset, [0, 1, 0x15, 0, 0, 0], some .state),
        (onRoom 3 (fun x => { x with windows := [⟨1, 1⟩] }) (withNode .damper (some Plan.fresh) oneRoom),
          [0, 1, 0x13, 0, 100, 0], some .state),
        (lightsFull .held lit, [0, 1, 0x15, 0, 0, 0], some .guarded),
        (lineA (fun x => { x with down := true }) lit, [0, 1, 0x15, 0, 0, 0], some .offline),
        (setEntry ⟨0, 1⟩ (some (node3 (.light 0 1) .offline)) lit, [0, 1, 0x15, 0, 0, 0], some .offline),
        (lineA (fun x => { x with normal := full .pass }) lit, [0, 1, 0x11, 3, 0xE8, 60], some .lineFull),
        (lineA (fun x => { x with normal := full .pass }) lit, [0, 1, 0x15, 0, 0, 0], none),
        (lit, [0, 1, 0x11, 3, 0xE8, 60], none)], refusal x.1 x.2.1 = x.2.2) ∧
    (passed [0, 9, 0x11, 0, 0, 0] lit).nextFrame = some ⟨.pass, 7, [0, 9, 0x11, 0, 0, 0]⟩ ∧
    judgePass (passed [0, 9, 0x11, 0, 0, 0] lit) [0, 9, 0x11, 0, 0, 0] = .error .unknown :=
  ⟨by decide +kernel, by decide +kernel, rfl⟩

/-- A SET LEVEL and a STOP. -/
theorem witness_AdmittedPassIsPlacedAndHeld :
    ∀ p ∈ [[0, 1, 0x11, 1, 0xF4, 0], [0, 1, 0x14, 0, 0, 0]],
      (passed p lit).nextFrame = some ⟨.pass, 7, p⟩ ∧ refusal (passed p lit) p = none ∧
      (passed p lit).Settled ∧ (passed p lit).ap.handed = [] ∧ (passed p lit).ap.freed = [] ∧
      ((passed p lit).line 0).urgent = [] ∧ (passed p lit).entry ⟨0, 1⟩ = some (node3 (.light 0 1) .online) ∧
      ((passed p lit).view 3).isSome = true ∧ (passed p lit).plan ⟨0, 1⟩ = some Plan.fresh := by decide +kernel

/-- The parameters of a LOAD NODE for node 1 of line A, room 3, with this role. -/
def nodeBytes (role : Byte) : List Byte := [0, 1, 3, role, 1, 10, 20, 0, 0, 0xFF, 0xFF]

/-- An actuator and a SENSOR on an empty place; a DROP NODE. -/
theorem witness_NodesAreLoadedAndDropped :
    (∀ role ∈ [(0 : Byte), 4], (asked 0x10 (nodeBytes role) oneRoom).Takes 0x10 7 (nodeBytes role) ∧
      (nodeLoad (nodeBytes role)).toOption.map NodeLoad.ref = some ⟨0, 1⟩ ∧
      (asked 0x10 (nodeBytes role) oneRoom).entry ⟨0, 1⟩ = none ∧ (asked 0x10 (nodeBytes role) oneRoom).Settled) ∧
    (nodeLoad (nodeBytes 0)).toOption.bind (fun x => x.role.family) = some .lights ∧
    (nodeLoad (nodeBytes 4)).toOption.bind (fun x => x.role.family) = none ∧
    (asked 0x10 (nodeBytes 0) lit).busyNode ⟨0, 1⟩ = false ∧
    (asked 0x11 [0, 1] lit).Takes 0x11 7 [0, 1] ∧ (nodeRefOf [0, 1]).toOption = some ⟨0, 1⟩ ∧
    (asked 0x11 [0, 1] lit).entry ⟨0, 1⟩ = some (node3 (.light 0 1) .online) ∧
    (asked 0x11 [0, 1] lit).busyNode ⟨0, 1⟩ = false ∧ (asked 0x11 [0, 1] lit).Settled := by decide +kernel

theorem witness_LineControlSetsItsLine :
    ∀ x ∈ [((0 : Byte), LineAction.suspend), (1, .resume), (3, .setTimeout)],
      (asked 0x12 [0, x.1, 0] State.reset).Takes 0x12 7 [0, x.1, 0] ∧
      (lineControlOf [0, x.1, 0]).toOption = some (0, x.2, 0) := by decide +kernel

/-- Restart of a line with an item in flight, an item queued, and an entry with a plan and a target: one item, counted. -/
theorem witness_RestartReturnsTheLineToACleanStart :
    let p : Plan := { Plan.fresh with target := some ⟨700, 3, false⟩ }
    let s := asked 0x12 [0, 2, 0]
      (lineA (fun x => { x with inFlight := some roomItem, driving := true, normal := [{ roomItem with kind := .stop }] })
        (withNode (.light 0 1) (some p) oneRoom))
    seen (fun t => ((t.line 0).queued.map Item.value, (t.line 0).counts)) .lineControlRestart s =
      some ([700], { LineCounts.zero with accepted := 1 }) ∧
    s.Takes 0x12 7 [0, 2, 0] ∧ (lineControlOf [0, 2, 0]).toOption = some (0, .restart, 0) ∧ s.Settled ∧
    (s.line 0).inFlight ≠ none ∧ s.entry ⟨0, 1⟩ ≠ none ∧ s.plan ⟨0, 1⟩ = some p ∧ (s.room 3).state ≠ .off := by decide +kernel

/-- Two nodes with a target, the second in flight: it comes first when it is due, and not when it stands confirmed at its
target. -/
theorem witness_RestartOrdersItsOffers :
    ∀ x ∈ [(false, [(2 : NodeAddr), 1]), (true, [1, 2])],
      let p : Plan := { Plan.fresh with target := some ⟨700, 3, false⟩, lastSent := some 700, confirmed := x.1 }
      let s := lineA (fun y => { y with inFlight := some { roomItem with node := 2 } })
        (setPlan ⟨0, 2⟩ (some p) (setEntry ⟨0, 2⟩ (some (node3 (.light 0 1) .online)) (withNode (.light 0 1) (some p) oneRoom)))
      seen (fun t => (t.line 0).normal.map Item.node) .lineControlRestart (asked 0x12 [0, 2, 0] s) = some x.2 := by
  decide +kernel

/-- No byte, a line above 3, and line 3; a parameter byte, the clock UNSET, and the clock set. -/
theorem witness_LineCountersAndClockAreRead :
    (∀ ps ∈ [[], [(4 : Byte)], [3]], (asked 0x13 ps State.reset).Takes 0x13 7 ps) ∧
    (∀ ps ∈ [[(0 : Byte)], []], (asked 0x41 ps State.reset).Takes 0x41 7 ps) ∧ State.reset.tu.clock = none ∧
    (asked 0x41 [] { State.reset with tu := { State.reset.tu with clock := some ⟨1, 2, 3⟩ } }).tu.clock = some ⟨1, 2, 3⟩ := by
  decide +kernel

/-- A line that is DOWN; a rival in the item's own band, in the other; places left; a full queue for each band. -/
theorem witness_OfferedItemIsPlacedByItsRivals :
    ({ Line.initial with down := true } : Line).down = true ∧ Line.initial.down = false ∧
    (({ Line.initial with normal := [roomItem] } : Line).band roomItem.origin.band).any roomItem.rivals = true ∧
    (({ Line.initial with normal := [roomItem] } : Line).band protectItem.origin.band).any protectItem.rivals = false ∧
    (({ Line.initial with normal := [roomItem] } : Line).band protectItem.origin.band.other).any protectItem.rivals = true ∧
    Line.initial.queued.length < 32 ∧
    (∀ r ∈ full .room, roomItem.rivals r = false ∧ protectItem.rivals r = false) ∧
    32 ≤ ({ Line.initial with normal := full .room } : Line).queued.length ∧
    roomItem.origin.band = .normal ∧ protectItem.origin.band = .urgent ∧
    full .room = (full .room).dropLast ++ [{ roomItem with node := 31, kind := .query }] := by decide +kernel

/-- Node 1 has a target, and its offer was not taken. -/
def deferred1 : State := withNode (.light 0 1) (some { Plan.fresh with target := some ⟨700, 3, false⟩, deferred := true }) oneRoom

/-- The head of URGENT; the follow mark's NORMAL; the head of NORMAL; a deferred node that takes the place freed; and the
frame that has been sent. -/
theorem witness_IdleLineSendsItsNextItem :
    (∀ x ∈ [{ Line.initial with urgent := [protectItem], normal := [roomItem] },
        { Line.initial with normal := full .pass ++ [roomItem], follow := some 3 },
        { Line.initial with normal := full .pass, follow := some 5 }],
      let s := lineA (fun _ => x) State.reset
      s.power = .ready ∧ (s.line 0).state = .idle ∧ (s.line 0).nextItem.isSome = true ∧ s.Settled ∧
        s.ap.handed = [] ∧ s.ap.freed = [] ∧ ∀ a, s.plan ⟨0, a⟩ = none) ∧
    ({ Line.initial with normal := full .pass ++ [roomItem], follow := some 3 } : Line).normal.find?
      (fun y => y.link == some 3 && y.node == 0) = some { roomItem with node := 0, kind := .query, origin := .pass } ∧
    (∀ y ∈ full .pass, y.link ≠ some 5) ∧
    (let s := lineA (fun x => { x with normal := full .pass }) deferred1
     s.power = .ready ∧ (s.line 0).state = .idle ∧ (s.line 0).nextItem.isSome = true ∧ s.Settled ∧ s.ap.handed = [] ∧
       s.ap.freed = [] ∧ (s.plan ⟨0, 1⟩).any Plan.deferred = true ∧
       seen (fun t => ((t.line 0).normal.getLast?.map Item.value, (t.line 0).normal.length, (t.plan ⟨0, 1⟩).any Plan.deferred))
         (.itemTakenForSending 0) s = some (some 700, 32, false)) ∧
    (let s := lineA (fun x => { x with inFlight := some roomItem, driving := true }) State.reset
     s.power = .ready ∧ (s.line 0).inFlight ≠ none ∧ (s.line 0).driving = true) := by decide +kernel

/-- A sender with an entry and one without; a rule table that finds two rules for the report and one that finds none; a line
that is DOWN. -/
theorem witness_ReportIsCountedAndItsNodeHeard :
    lit.hears = true ∧ (1 : NodeAddr) ≠ 0 ∧ (lit.entry ⟨0, 1⟩).map NodeEntry.room = some 3 ∧ lit.entry ⟨0, 2⟩ = none ∧
    search ⟨⟨0, 1⟩, .motion, 0⟩ State.reset.cl.rules.toList = [] ∧
    seen (fun t => t.nu.wing.getLast?.map WingReport.kind) (.report 0 1 .motion 0) (lineA (fun x => { x with down := true }) lit) =
      some (some (.lineUp 0)) ∧
    (let rule : RuleAction → Bool → Option Rule := fun x on => some
       { line := none, node := none, code := none, reference := 0, mask := 0, whenDifferent := false, action := x
         goesOn := on, mirror := true }
     let table := put (put State.reset.cl.rules 0 (rule (.room .motion .fromNode) true)) 5 (rule (.fault true 2) false)
     (search ⟨⟨0, 1⟩, .motion, 0⟩ table.toList).map Rule.action = [.room .motion .fromNode, .fault true 2]) := by
  decide +kernel

theorem witness_OtherLineFramesDeliverNothing :
    State.reset.hears = true ∧ lineMessage ⟨true, []⟩ = none ∧ (lineFrameBytes 1 0x11 [0]).tail.head? = some 0x11 ∧
    100 < (101 : Byte).toNat ∧ lit.hears = true ∧ (lit.line 0).down = false ∧ (lit.line 0).inFlight = none := by
  decide +kernel

theorem quiet_of {s : State} {l : LineId}
    (h : s.ap.handed = [] ∧ s.ap.freed = [] ∧ ∀ a, (s.plan ⟨l, a⟩).any Plan.deferred = false) : s.Quiet l :=
  ⟨h.1, h.2.1, fun a p e => by simpa [e] using h.2.2 a⟩

/-- Node 1 with a target that is not its last sent value, `it` in flight and about to time out, and an item of it queued. -/
def offering (role : Role) (it : Item) (queued : List Item) : State :=
  lineA (fun x => { x with inFlight := some it, echoTimer := some 0, timeouts := 6, normal := queued })
    (withNode role (some { Plan.fresh with target := some ⟨70, 3, false⟩, lastSent := some 40 }) oneRoom)

theorem offering_quiet (role : Role) (it : Item) (queued : List Item) : (offering role it queued).Quiet 0 :=
  have h : ∀ a, ((offering .damper roomItem []).plan ⟨0, a⟩).any Plan.deferred = false := by decide +kernel
  quiet_of ⟨rfl, rfl, h⟩

/-- What the examination after an echo, a timeout or an ARRIVED adds to a queue with nothing waiting in AP's inbox. -/
theorem test_examination_follows_a_completion :
    let it : Item := { roomItem with kind := .setPosition, value := 40 }
    let values : State → List Nat := fun t => (t.line 0).queued.map Item.value
    let s := offering (.blind 20) it []
    (s.line 0).Spares (some ⟨70, 3, false⟩) ∧
    seen values (.echo 0 1 0 40) s = some [70] ∧ seen values (.echoTimerExpiry 0) s = some [70] ∧
    seen values (.arrived 0 1 10) s = some [70] ∧
    seen values (.arrived 0 1 10) (offering (.blind 20) { it with value := 70 } []) = some [] := by
  refine ⟨Or.inl (by decide), ?_⟩
  decide +kernel

/-- A LIGHT node, a stranger, and a line that is DOWN. A blind whose travel timer runs, last sent to 40: arrived at 40, and at
80; and one whose timer is stopped. -/
theorem witness_ArrivedJudgesTheBlind :
    (lit.hears = true ∧ (lit.entry ⟨0, 1⟩).any (fun e => !e.role.isBlind) = true ∧ lit.entry ⟨0, 2⟩ = none ∧ lit.Settled ∧
      (∀ a ∈ [(1 : NodeAddr), 2], seen (fun t => ((t.line 0).counts.validFrames, (t.line 0).down, t.nu.wing.length))
        (.arrived 0 a 100) (lineA (fun x => { x with down := true }) lit) = some (1, false, 2))) ∧
    ∀ tr ∈ [none, some 500],
      let p : Plan := { Plan.fresh with lastSent := some 40, travel := tr }
      (blind p).hears = true ∧ (blind p).entry ⟨0, 1⟩ = some (node3 (.blind 20) .online) ∧
        (node3 (.blind 20) .online).role.isBlind = true ∧ (blind p).plan ⟨0, 1⟩ = some p ∧
        ((blind p).room 3).state ≠ .off := by decide +kernel

/-- An item of each kind in flight, for the blind; a PASS item among them. -/
theorem witness_EchoDeliversTheItemInFlight :
    ∀ k ∈ [CmdKind.setLevel, .setPosition, .setFlow, .stop, .query], ∀ role ∈ [Role.blind 20, .light 0 1],
      let it : Item := { roomItem with kind := k, origin := .pass, passTag := some 9 }
      let s := lineA (fun x => { x with inFlight := some it }) (withNode role (some { Plan.fresh with travel := some 5 }) oneRoom)
      s.hears = true ∧ (s.line 0).down = false ∧ (s.line 0).inFlight = some it ∧ it.node = 1 ∧
        s.entry ⟨0, 1⟩ = some (node3 role .online) ∧ (s.plan ⟨0, 1⟩).isSome = true ∧ (s.room 3).state ≠ .off ∧
        s.ti.tx.length ≤ 11 ∧ ((1 : Half) ^^^ (node3 role .online).statusRef) &&& (node3 role .online).statusMask ≠ 0 := by
  decide +kernel

/-- Each health before the timeout; the counts 6 and 7. A node that becomes OFFLINE has an item queued. -/
theorem witness_TimeoutMarksTheNode :
    ∀ h ∈ [(Health.online, false), (.suspect, false), (.suspect, true)],
      let e : NodeEntry := { node3 (.light 0 1) h.1 with missed := h.2 }
      let s := setEntry ⟨0, 1⟩ (some e) (lineA (fun x => { x with inFlight := some roomItem, echoTimer := some 0, timeouts := 6 }) lit)
      s.power = .ready ∧ (s.line 0).echoTimer = some 0 ∧ (s.line 0).inFlight = some roomItem ∧
        (s.line 0).timeouts + 1 < 8 ∧ s.entry ⟨0, roomItem.node⟩ = some e ∧ (s.room e.room).state ≠ .off ∧
        s.plan ⟨0, roomItem.node⟩ = some Plan.fresh ∧
        seen (fun t => ((t.line 0).queued, (t.line 0).counts.flushed)) (.echoTimerExpiry 0)
          (onLine 0 (fun x => { x with normal := [roomItem] }) s) =
            some (if h.2 then ([], 1) else ([roomItem], 0)) := by decide +kernel

theorem witness_EighthTimeoutTakesTheLineDown :
    let s := lineA (fun x => { x with inFlight := some roomItem, echoTimer := some 0, timeouts := 7 }) lit
    s.power = .ready ∧ (s.line 0).echoTimer = some 0 ∧ (s.line 0).inFlight = some roomItem ∧
      8 ≤ (s.line 0).timeouts + 1 ∧ s.entry ⟨0, 1⟩ = some (node3 (.light 0 1) .online) ∧ (s.room 3).state ≠ .off := by
  decide +kernel

/-- LOAD RULE, LOAD SCENE, and LOAD WING with the rounding in force and with another. -/
theorem witness_TablesAndSettingsAreWritten :
    let rule : List Byte := [0, 0xFF, 0xFF, 1, 0, 0, 0, 0, 0, 0, 0, 1, 0, 0xFF, 2]
    let scene : List Byte := [1, 1, 0xF4, 0xFF, 0xFF, 0, 0, 0, 0, 5, 0xFF, 40, 1]
    (asked 0x20 rule State.reset).Takes 0x20 7 rule ∧ (ruleLoad rule).toOption.isSome = true ∧
    (asked 0x50 scene oneRoom).Takes 0x50 7 scene ∧ (sceneOf scene).toOption.isSome = true ∧ (asked 0x50 scene oneRoom).Settled ∧
    (asked 0x51 [0, 1] oneRoom).Takes 0x51 7 [0, 1] ∧ (wingOf [0, 1]).toOption = some (.nearest, true) ∧
    (wingOf [1, 1]).toOption = some (.down, true) ∧ (asked 0x51 [0, 1] oneRoom).ap.rounding = .nearest ∧
    (asked 0x51 [0, 1] oneRoom).Settled := by decide +kernel

/-- A rule for MOTION of any node, delivered to the node's room. -/
def motionRule : Rule :=
  { line := none, node := none, code := some .motion, reference := 0, mask := 0, whenDifferent := false
    action := .room .motion .fromNode, goesOn := false, mirror := false }

theorem witness_DropRuleEmptiesOnePlace :
    (∀ ps ∈ [[], [(128 : Byte)], [0], [127]], (asked 0x21 ps State.reset).Takes 0x21 7 ps) ∧
    look State.reset.cl.rules 0 = none ∧ look (put State.reset.cl.rules 127 (some motionRule)) 127 = some motionRule := by
  decide +kernel

theorem witness_RuleHitsByItsFourTests :
    motionRule.mask = 0 ∧ ({ motionRule with mask := 0xFFFF } : Rule).whenDifferent = false ∧
    ({ motionRule with mask := 0xFF80, whenDifferent := true } : Rule).valueTest 128 = true ∧
    ({ motionRule with mask := 0xFF80, whenDifferent := true } : Rule).valueTest 127 = false := by decide +kernel

theorem witness_SearchEndsAtTheFirstFinalHit :
    let rep : LineReport := ⟨⟨0, 1⟩, .motion, 0⟩
    (search rep [none, some motionRule, some motionRule]).length = 1 ∧
    (search rep [some { motionRule with goesOn := true }, none, some motionRule]).length = 2 ∧
    (search rep [some { motionRule with code := some .wind }]).length = 0 := by decide +kernel

/-- Suite 0 of rooms 0 and 1. -/
def pair0 (st : RoomState) (occ : Option OccState) (linger : Timer) : State :=
  setSuite 0 (some { members := [0, 1], adHocScene := 1, occ := occ, seen := false, linger := linger })
    (onRoom 1 (fun _ => { vacant1 with state := st, suite := some 0 })
      (onRoom 0 (fun _ => { vacant1 with state := st, suite := some 0 }) State.reset))

/-- The parameters of LOAD ROOM for room 3 with this capacity. -/
def roomBytes (capacity : Byte) : List Byte :=
  [3, 0, capacity, 0, 1, 0, 60, 0, 30, 5, 3, 0xE8, 0, 100, 50, 20, 30, 10, 80, 0, 1, 0, 0, 0, 0, 1]

/-- A room that is OFF; a loaded one with more and with no more heads than the new capacity; the lead of a joined suite; and a
node override in an OFF room that comes into service VACANT or EXPECTED, and in a loaded one. -/
theorem witness_LoadRoomConfiguresTheRoom :
    (asked 0x30 (roomBytes 1) State.reset).Takes 0x30 7 (roomBytes 1) ∧
    (roomLoad (roomBytes 1)).toOption.map (fun x => (x.room, x.cfg.capacity)) = some (3, 1) ∧
    State.reset.room 3 = Room.off ∧
    (let s := withRoom fun x => { x with state := .run .occupied, head := 2 }
     (s.room 3).state ≠ .off ∧ 1 < (s.room 3).head ∧ (s.room 3).aboveCapacity = false) ∧
    ((withRoom fun x => { x with state := .run .occupied, head := 1 }).room 3).head ≤ 1 ∧
    (let ps := 0 :: (roomBytes 1).tail
     let s := asked 0x30 ps (pair0 .joined (some .vacant) none)
     s.Takes 0x30 7 ps ∧ (roomLoad ps).toOption.map RoomLoad.room = some 0 ∧ (s.room 0).state = .joined ∧
       (s.room 0).suite = some 0 ∧ (s.members 0).head? = some 0) ∧
    (∀ y ∈ [(State.reset, OccState.vacant, (none : Option Nat)), (timed ⟨1, 150, 0⟩ [booking3 none] State.reset, .expected, some 400),
        (oneRoom, .vacant, some 400)],
      let s := asked 0x30 (roomBytes 1) (withNode (.light 0 1) (some { Plan.fresh with override := some 400 }) y.1)
      s.Takes 0x30 7 (roomBytes 1) ∧ (s.entry ⟨0, 1⟩).map NodeEntry.room = some 3 ∧
        seen (fun u => ((u.room 3).state, (u.plan ⟨0, 1⟩).bind Plan.override)) .loadRoom s =
          some (.run y.2.1, y.2.2)) := by and_intros <;> decide +kernel

theorem witness_DisableRoomReturnsTheRoomToOff :
    (asked 0x31 [3] lit).Takes 0x31 7 [3] ∧ (oneByte 48 [3]).toOption = some (3 : RoomId) ∧
    ((asked 0x31 [3] lit).room 3).state ≠ .off ∧ ((asked 0x31 [3] lit).room 3).suite = none ∧
    (asked 0x31 [3] lit).Settled ∧ (asked 0x31 [3] lit).entry ⟨0, 1⟩ = some (node3 (.light 0 1) .online) := by
  decide +kernel

/-- Contexts: occupied by count, with and without a stillness time; by motion; and an override for the node. -/
def context (motion still : Option Nat) : Context :=
  { state := .run .occupied, phase := .idle, cursor := none, seen := false, head := 2, motionHold := motion, linger := none
    stillness := still, boost := false, overrideScene := none, conds := 1, overrides := [(⟨0, 1⟩, 400)] }

/-- And contexts with a cursor: a booking of every week in ON, and one of the following week. -/
theorem witness_RestoreRoomPutsTheContextBack :
    (∀ x ∈ [((none : Option Nat), Phase.on, (1 : Nat), [false, false, true, true]), (some 2, .idle, 2, [true, true, true, true])],
      let c := { context none none with cursor := some 9, phase := x.2.1 }
      let b : Booking :=
        { id := 9, target := .room 3, start := 100, finish := 200, kind := .lecture, scene := 1, lead := 10, lag := 5
          confirm := 20, week := x.1, heads := 20 }
      let ps := byteOf 3 :: c.bytes
      let s := asked 0x33 ps { lit with tu := { lit.tu with clock := some ⟨1, 150, 0⟩, store := [b] } }
      s.Takes 0x33 7 ps ∧ (restoreOf ps).toOption = some (3, c) ∧ (s.room 3).state = .run .vacant ∧ s.contextOk 3 c = true ∧
        s.contextBooking 3 c = some b ∧ s.tu.clock = some ⟨1, 150, 0⟩ ∧
        seen (fun t => (t.time 3).cursor.map fun k => (k.occ.week, [k.marks.prep, k.marks.start, k.marks.finish, k.marks.release].map
          Mark.armed)) .restoreRoom s = some (some (x.2.2.1, x.2.2.2))) ∧
    ∀ c ∈ [context none (some 7), context none none, context (some 9) none],
      let ps := byteOf 3 :: c.bytes
      let s := asked 0x33 ps lit
      s.Takes 0x33 7 ps ∧ (restoreOf ps).toOption = some (3, c) ∧ (s.room 3).state = .run .vacant ∧
        s.contextOk 3 c = true ∧ s.plan ⟨0, 1⟩ = some Plan.fresh := by decide +kernel

theorem witness_SaveRoomAndTrunkCountersAreRead :
    (asked 0x02 [] State.reset).Takes 0x02 7 [] ∧
    (let s := asked 0x32 [3] (withRoom fun x => { x with motionHold := some 1001 })
     s.Takes 0x32 7 [3] ∧ (oneByte 48 [3]).toOption = some (3 : RoomId) ∧ (s.room 3).state ≠ .off ∧
       (s.room 3).state ≠ .joined ∧ (s.context 3).motionHold = some 2) := by decide +kernel

/-- Presence by motion that ends with heads left and with none; by count that ends; the same in a member of a joined suite,
which goes to LINGER with the last presence and stays OCCUPIED with another member's; a suite in LINGER; a room in LINGER whose
timer has run out. -/
theorem witness_EvidenceAndSuiteTimersExpire :
    (∀ h ∈ [(0 : Nat), 2], let s := withRoom fun x => { x with state := .run .occupied, motionHold := some 0, head := h }
      s.power = .ready ∧ (s.room 3).state = .run .occupied ∧ (s.room 3).motionHold = some 0 ∧ (s.room 3).head = h) ∧
    (let s := withRoom fun x => { x with state := .run .occupied, stillness := some 0, head := 2 }
     (s.room 3).state = .run .occupied ∧ (s.room 3).stillness = some 0 ∧ (s.room 3).motionHold = none ∧
       0 < (s.room 3).head) ∧
    (∀ x ∈ [(Instr.motionHoldExpiry 0, (some 0 : Timer), (none : Timer), (0 : Nat), (0 : Nat), OccState.linger),
        (.stillnessExpiry 0, none, some 0, 2, 0, .linger), (.stillnessExpiry 0, none, some 0, 2, 1, .occupied)],
      let s := onRoom 1 (fun y => { y with head := x.2.2.2.2.1 })
        (onRoom 0 (fun y => { y with motionHold := x.2.1, stillness := x.2.2.1, head := x.2.2.2.1 })
          (pair0 .joined (some .occupied) none))
      s.power = .ready ∧ (s.room 0).state = .joined ∧ (s.room 0).suite = some 0 ∧ (s.suite 0).bind Suite.occ = some .occupied ∧
        (s.room 0).motionHold = x.2.1 ∧ (s.room 0).stillness = x.2.2.1 ∧
        seen (fun t => t.suiteOcc 0) x.1 s = some (some x.2.2.2.2.2)) ∧
    (let s := pair0 .joined (some .linger) (some 0)
     s.power = .ready ∧ (s.suite 0).bind Suite.occ = some .linger ∧ (s.suite 0).bind Suite.linger = some 0 ∧
       (s.effectivePhase 0).place = .vacant ∧ ∀ r ∈ s.members 0, (s.room r).state ≠ .off) ∧
    (let s := withRoom fun x => { x with state := .run .linger, linger := some 0 }
     (s.room 3).state = .run .linger ∧ (s.room 3).presence = false) ∧ 0 < cfg1.motionHold ∧ 0 < cfg1.countTrust := by
  decide +kernel

theorem witness_LingerExpiryFollowsThePhase :
    ∀ p ∈ [Phase.prep, .on, .lag, .idle],
      let s := withRoom fun x => { x with state := .run .linger, linger := some 0, phase := p }
      s.power = .ready ∧ (s.room 3).state = .run .linger ∧ (s.room 3).linger = some 0 ∧ (s.room 3).phase = p := by
  decide +kernel

/-- Room 3 in use, with a latch and the air mode COMFORT. -/
def inUse3 (boost : Bool) : State :=
  onAir 3 (fun a => { a with mode := some .comfort })
    (withRoom fun x => { x with state := .run .occupied, head := 2, boost := boost })

/-- The latch after a CO2 action of this value. -/
def latched (v : Half) (boost : Bool) : Bool := ((roomAction .co2 ⟨0, 1⟩ v 3 (inUse3 boost)).room 3).boost

/-- An OFF room. No heads and a count of 0, which is 1; an empty and a full set of windows; a room without presence. The CO2
latch at both edges of its hysteresis, in use and not; counts that reach and pass the capacity, with the flag clear and
set; stillness at a first count, at a further one, and at the last head. A fall and a rise of presence; actions that move a
joined suite, up and down, and one that does not. -/
theorem witness_RoomActionsChangeTheirEvidence :
    (State.reset.room 3).state = .off ∧
    (∀ old ∈ [false, true], (inUse3 old).inUse 3 = true ∧ ((inUse3 old).air 3).mode = some .comfort) ∧
    latched 1000 false = true ∧ latched 999 true = true ∧ latched 999 false = false ∧ latched 901 true = true ∧
    latched 900 true = false ∧
    oneRoom.inUse 3 = false ∧ ((pair0 .joined (some .occupied) none).inUse 0) = true ∧
    (∀ x ∈ [(29, false, false), (30, false, true), (30, true, true)],
      let s := withRoom fun y => { y with state := .run .occupied, head := x.1, aboveCapacity := x.2.1 }
      let t := roomAction .countIn ⟨0, 1⟩ 1 3 s
      (t.room 3).aboveCapacity = x.2.2 ∧
        CondSet.holds (t.notice 3).conds .overcrowd = (!x.2.1 && x.2.2)) ∧
    (∀ x ∈ [(RoomAct.countIn, (0 : Nat), (none : Timer), some 300000), (.countIn, 1, some 9, some 300000), (.countIn, 1, none, none),
        (.countOut, 0, none, none), (.countOut, 1, some 9, none), (.countOut, 2, some 9, some 300000)],
      let s := withRoom fun y => { y with state := if x.2.1 = 0 then .run .vacant else .run .occupied, head := x.2.1, stillness := x.2.2.1 }
      ((roomAction x.1 ⟨0, 1⟩ 1 3 s).room 3).stillness = x.2.2.2) ∧
    (oneRoom.room 3).state = .run .vacant ∧ (oneRoom.room 3).presence = false ∧ (oneRoom.room 3).head < 1 ∧
    (⟨0, 1⟩ : NodeRef) ∉ (oneRoom.room 3).windows ∧ (oneRoom.room 3).windows.length < 8 ∧
    8 ≤ ((withRoom fun x => { x with windows := (List.finRange 8).map fun a => ⟨1, a.castLE (by decide)⟩ }).room 3).windows.length ∧
    (∀ x ∈ [(RoomAct.countOut, OccState.linger), (.co2, .occupied)],
      let s := withRoom fun y => { y with state := .run .occupied, head := 1 }
      (s.room 3).presence = true ∧ ((roomAction x.1 ⟨0, 1⟩ 1 3 s).room 3).state = .run x.2) ∧
    (∀ x ∈ [(RoomAct.motion, OccState.vacant, (0 : Nat), OccState.occupied), (.countIn, .linger, 0, .occupied),
        (.windowOpen, .vacant, 0, .vacant), (.countOut, .occupied, 1, .linger), (.countOut, .occupied, 2, .occupied)],
      let s := onRoom 0 (fun y => { y with head := x.2.2.1 }) (pair0 .joined (some x.2.1) none)
      (s.room 0).state = .joined ∧ (s.room 0).suite = some 0 ∧ (s.suite 0).bind Suite.occ = some x.2.1 ∧
        (roomAction x.1 ⟨0, 1⟩ 1 0 s).suiteOcc 0 = some x.2.2.2) := by
  and_intros <;> decide +kernel

/-- Room 3 in ON of its booking, cursor and all. -/
def inLecture (week : Option Nat) : State :=
  onTime 3 (fun _ => { cursor := some { occ := ⟨9, 1⟩, marks := (booking3 week).marks fun m => decide (150 < m) }, released := none })
    (timed ⟨1, 150, 0⟩ [booking3 week]
      (withRoom fun x => { x with state := .run .expected, phase := .on, cursorKind := some .lecture, bookingScene := some 1 }))

theorem witness_SetClockReselectsEveryRoom :
    (asked 0x40 [1, 0, 150, 0] oneRoom).Takes 0x40 7 [1, 0, 150, 0] ∧ (clockOf [1, 0, 150, 0]).toOption = some ⟨1, 150, 0⟩ ∧
    ((asked 0x40 [1, 0, 150, 0] oneRoom).room 3).state ≠ .off ∧
    ((asked 0x40 [1, 0, 150, 0] oneRoom).room 4).state = .off ∧
    (∀ ms ∈ [999, 1000], seen (fun t => t.tu.void) .setClock
      (asked 0x40 [1, 0, 150, 0] { timed ⟨1, 2, 59⟩ [] State.reset with
        tu := { (timed ⟨1, 2, 59⟩ [] State.reset).tu with ms := ms } }) = some (decide (ms = 1000))) := by decide +kernel

/-- UNSET; seconds 58 and 59; the last minute of week 52; a void event; a room without a cursor that the week boundary gives
one, and one that finds none; a PREP and a START reached by themselves. -/
theorem witness_WingClockAdvances :
    State.reset.power = .ready ∧ State.reset.tu.clock = none ∧ State.reset.tu.void = false ∧
    (timed ⟨1, 2, 58⟩ [] State.reset).tu.clock = some ⟨1, 2, 58⟩ ∧
    (timed ⟨52, 10079, 59⟩ [] State.reset).tu.clock = some ⟨52, 10079, 59⟩ ∧
    (let s : State := { State.reset with tu := { State.reset.tu with void := true } }
     s.power = .ready ∧ s.tu.void = true) ∧
    (let s := timed ⟨52, 10079, 59⟩ [booking3 (some 52), { booking3 none with id := 10 }] oneRoom
     (s.time 3).cursor = none ∧ (s.room 3).state ≠ .off ∧
     seen (fun t => ((t.time 3).cursor.map Cursor.occ, t.tu.store.map Booking.id)) .minuteBoundary s =
       some (some ⟨10, 1⟩, [10])) ∧
    (timed ⟨52, 10079, 59⟩ [] oneRoom).select 3 = none ∧
    (∀ x ∈ [(MarkName.prep, (89 : Nat)), (.start, 99)],
      let k : Cursor := { occ := ⟨9, 1⟩, marks := (booking3 none).marks fun _ => true }
      let s := onTime 3 (fun t => { t with cursor := some k }) (timed ⟨1, x.2, 59⟩ [booking3 none] oneRoom)
      (s.room 3).state ≠ .off ∧ (s.time 3).cursor = some k ∧ k.occ.week = 1 ∧
        ∀ y ∈ allMarks, (k.marks.get y).any (fun m => m.armed && m.minute == x.2 + 1) = decide (y = x.1)) := by
  decide +kernel

/-- A room that the booking joins, and one it does not; one that keeps its occurrence, and one that loses it. -/
theorem witness_BookingsEnterAndLeaveTheStore :
    (let b := booking3 none
     let s := asked 0x42 b.bytes oneRoom
     s.Takes 0x42 7 b.bytes ∧ (bookingOf b.bytes).toOption = some b ∧ s.noTarget b = false ∧ s.clashes b = false ∧
       s.noPlace b = false ∧ (s.room 3).state ≠ .off ∧ s.lists 3 b = true ∧ s.lists 4 b = false) ∧
    (let b := { booking3 none with id := 10, start := 300, finish := 400 }
     let s := asked 0x42 b.bytes (inLecture none)
     s.clashes b = false ∧ s.lists 3 b = true ∧ (s.time 3).cursor.map Cursor.occ = some ⟨9, 1⟩ ∧
       ((timed ⟨1, 150, 0⟩ [booking3 none, b] oneRoom).select 3).map (fun f => (f.1.id, f.2)) = some (9, 1)) ∧
    (let s := asked 0x43 [0, 9] (inLecture none)
     s.Takes 0x43 7 [0, 9] ∧ (bookingIdOf [0, 9]).toOption = some 9 ∧ s.findBooking 9 = some (booking3 none)) := by
  decide +kernel

/-- A booking that leaves the store leaves the room's scene until the room's next report. -/
theorem test_booking_scene_waits_for_the_report :
    (removeBookings (fun _ => true) (inLecture none)).cursorBooking 3 = none ∧
    ((removeBookings (fun _ => true) (inLecture none)).room 3).bookingScene = some 1 ∧
    ((reselect none 3 (removeBookings (fun _ => true) (inLecture none))).room 3).bookingScene = none := by decide +kernel

theorem witness_BookingListAndStatusAreRead :
    (∀ ps ∈ [[], [(48 : Byte), 0, 0], [47, 0, 0], [3, 0, 1]], (asked 0x44 ps (inLecture none)).Takes 0x44 7 ps) ∧
    ∀ ps ∈ [[], [(48 : Byte)], [47]], (asked 0x81 ps State.reset).Takes 0x81 7 ps := by
  decide +kernel

/-- Another booking of room 3, whose PREP is at this minute. -/
def later3 (prep : Nat) : Booking := { booking3 none with id := 10, start := prep + 10, finish := prep + 100 }

/-- A follower with its PREP at RELEASE, one past it, and one that is released; the clock UNSET and set; the last minute before
the hand-off, the hand-off itself, and the same in week 52; a list with nothing for the following week; every row of catch-up
at its first and last minute, and its CONFIRM, moved and past END. -/
theorem witness_SearchAndCatchUpFollowTheList :
    (∀ x ∈ [((205 : Nat), (none : Option Occurrence), true), (206, none, false), (205, some ⟨10, 1⟩, false)],
      handsOver [booking3 none, later3 x.1] x.2.1 (booking3 none) 1 = x.2.2 ∧
      handOff [booking3 none, later3 x.1] x.2.1 (booking3 none) 1 = if x.2.2 then 200 else 205) ∧
    State.reset.tu.clock = none ∧
    (∀ x ∈ [((1 : Nat), (204 : Nat), some ((9 : Nat), (1 : Nat))), (1, 205, some (9, 2)), (52, 205, some (9, 1))],
      ((timed ⟨x.1, x.2.1, 0⟩ [booking3 none] oneRoom).select 3).map (fun f => (f.1.id, f.2)) = x.2.2) ∧
    (timed ⟨1, 205, 0⟩ [booking3 (some 1)] oneRoom).select 3 = none ∧
    ((timed ⟨1, 150, 0⟩ [booking3 none, later3 300] oneRoom).advance 3 (booking3 none)).map (fun f => (f.1.id, f.2)) =
      some (10, 1) ∧
    (∀ x ∈ [((89 : Nat), Phase.idle), (90, .prep), (99, .prep), (100, .on), (199, .on), (200, .lag), (204, .lag)],
      (catchUp (some ⟨1, x.1, 0⟩) (some (booking3 none, 1))).2.1 = x.2) ∧
    (catchUp (some ⟨1, 150, 0⟩) (some (booking3 none, 2))).2.1 = .idle ∧
    (∀ x ∈ [((101 : Nat), Mark.mk 161 true), (139, ⟨199, true⟩), (140, ⟨200, false⟩)],
      (catchUp (some ⟨1, x.1, 0⟩) (some ({ booking3 none with confirm := 60 }, 1))).1.bind (fun c => c.marks.confirm) =
        some x.2) := by decide +kernel

/-- A one-off occurrence, which goes, and a weekly one. -/
theorem witness_RoomReleasePassesTheOccurrence :
    ∀ w ∈ [some 1, none],
      let s := asked 0x45 [3] (inLecture w)
      s.Takes 0x45 7 [3] ∧ (s.room 3).state ≠ .off ∧ (s.room 3).phase ≠ .idle ∧
        (s.time 3).cursor.map Cursor.occ = some ⟨9, 1⟩ ∧ s.findBooking 9 = some (booking3 w) ∧
        s.heldElsewhere 3 ⟨9, 1⟩ = false := by decide +kernel

/-- A loaded room whose occurrence hands over at END and one whose does not; one seen and one not, and the
same of a joined suite; marks reached and not
reached; a booking that leaves the store with its passing and one that stays. -/
theorem witness_MarksMoveThePhase :
    (let c : Cursor := { occ := ⟨9, 1⟩, marks := (booking3 none).marks fun _ => true }
     ∀ k ∈ allMarks, (c.marks.get k).any (fun m => m.armed && m.minute == m.minute) = (k != .confirm)) ∧
    (let next : Booking := { booking3 none with id := 10, start := 160, finish := 200 }
     let s := onTime 3 (fun t => { t with cursor := ((inLecture none).time 3).cursor })
       (timed ⟨1, 149, 0⟩ [booking3 none, next] oneRoom)
     s.cursorHandsOver 3 ⟨9, 1⟩ = true ∧ (s.time 3).cursor.map Cursor.occ = some ⟨9, 1⟩) ∧
    (∀ w ∈ [none, some 1], (inLecture w).findBooking 9 = some (booking3 w) ∧
      (inLecture w).heldElsewhere 3 ⟨9, 1⟩ = false ∧ ((inLecture w).time 3).cursor.map Cursor.occ = some ⟨9, 1⟩) ∧
    ((inLecture none).room 3).state = .run .expected ∧ (inLecture none).cursorHandsOver 3 ⟨9, 1⟩ = false ∧
    (inLecture none).seenForConfirm 3 = false ∧
    (∀ b ∈ [false, true], let s := onSuite 0 (fun x => { x with seen := b }) (pair0 .joined (some .occupied) none)
      (s.room 0).state = .joined ∧ (s.room 0).suite = some 0 ∧ (s.suite 0).map Suite.seen = some b ∧
        s.seenForConfirm 0 = b) ∧
    (withRoom fun x => { x with state := .run .occupied, seen := true }).seenForConfirm 3 = true ∧
    (oneRoom.room 3).state = .run .vacant := by decide +kernel

/-- A phase report: into an OFF room; one that overruns, one that enters VACANT, and one that changes nothing; an exam that
begins with the stillness timer running and one that ends with heads left; a joined suite that overruns, enters VACANT and stays
EXPECTED by another member's phase. -/
theorem witness_MarksMoveThePhase_reports :
    (State.reset.room 3).state = .off ∧
    (∀ x ∈ [(OccState.occupied, Phase.on, Phase.lag, OccState.occupied, true), (.expected, .on, .idle, .vacant, false),
        (.vacant, .idle, .lag, .vacant, false)],
      let s := withRoom fun y => { y with state := .run x.1, phase := x.2.1 }
      let t := phaseReport 3 x.2.2.1 none s
      (s.room 3).state = .run x.1 ∧ (t.room 3).state = .run x.2.2.2.1 ∧
        CondSet.holds (t.notice 3).conds .overrun = x.2.2.2.2) ∧
    (let exam : Booking := { booking3 none with kind := .exam }
     let s := withRoom fun y => { y with state := .run .occupied, head := 2, stillness := some 9 }
     let t := phaseReport 3 .on (some exam) s
     (t.room 3).stillness = none ∧ (t.room 3).seen = true ∧
       ((phaseReport 3 .lag (some exam) t).room 3).stillness = some 300000) ∧
    (∀ x ∈ [(OccState.occupied, Phase.idle, Phase.lag, OccState.occupied, true), (.expected, .idle, .lag, .vacant, false),
        (.expected, .on, .lag, .expected, false)],
      let s := onRoom 1 (fun y => { y with phase := x.2.1 })
        (onRoom 0 (fun y => { y with phase := .on }) (pair0 .joined (some x.1) none))
      let t := phaseReport 0 x.2.2.1 none s
      (s.room 0).state = .joined ∧ (s.room 0).suite = some 0 ∧ (s.suite 0).bind Suite.occ = some x.1 ∧
        s.effectivePhase 0 = .on ∧ (s.room 1).state ≠ .off ∧ t.suiteOcc 0 = some x.2.2.2.1 ∧
        CondSet.holds (t.notice 1).conds .overrun = x.2.2.2.2) := by
  and_intros <;> decide +kernel

theorem witness_LightLevelsAreRoundedToTheStep :
    (0 < 250 ∧ 250 ≤ 250 ∧ 1000 ≤ 1000) ∧ (999 / 250 + 1) * 250 ≤ 1000 := by decide

/-- A scene for every family. -/
def scene1 : Scene := { levels := filled 4 (some 500), ramp := 4, rounding := none, blind := some 30, air := some .comfort }

/-- Room 3 as `f` makes it, with a booking cursor, scene 1 loaded, and node 1 with this role and plan. -/
def staged (role : Role) (p : Plan) (f : Room → Room) : State :=
  let s := withNode role (some p) (inLecture none)
  onRoom 3 f { s with ap := { s.ap with scenes := put s.ap.scenes 1 (some scene1) } }

/-- An OFF room; the own view; a joined suite whose second member is the strongest; each layer; each row of the table,
scaled in LINGER; a pair the table leaves out; a recomposition of a stalled node to its old value and to a new one,
and under protection; a pair with and without an air mode. -/
theorem witness_CompositionTakesTheFirstLayer :
    (State.reset.room 3).state = .off ∧ (look State.reset.ap.scenes 1) = none ∧
    (let s := staged (.light 0 25) Plan.fresh id
     look s.ap.scenes 1 = some scene1 ∧ (s.room 3).bookingScene = some 1 ∧ (s.room 3).state = .run .expected) ∧
    (let s := onRoom 1 (fun x => { x with phase := .on }) (pair0 .joined (some .expected) none)
     (s.room 0).state = .joined ∧ (s.room 0).suite = some 0 ∧ s.members 0 = [0] ++ 1 :: [] ∧
       (s.room 0).phase.rank ≤ (s.room 1).phase.rank ∧ (s.room 0).phase ≠ (s.room 1).phase ∧ (s.view 0).isSome = true) ∧
    (∀ x ∈ [(OccState.vacant, Phase.idle, Role.light 0 25, some (0 : Nat)), (.vacant, .lag, .light 0 25, some 0),
        (.preparing, .prep, .light 0 25, some 0), (.expected, .on, .light 0 25, some 500), (.occupied, .lag, .light 0 25, some 500),
        (.linger, .on, .light 0 25, some 250), (.expected, .on, .blind 20, some 30), (.vacant, .idle, .blind 20, none),
        (.vacant, .idle, .damper, some 20), (.occupied, .idle, .damper, some 30), (.vacant, .prep, .light 0 25, none)],
      let s := staged x.2.2.1 Plan.fresh fun y => { y with state := .run x.1, phase := x.2.1 }
      (s.view 3).isSome = true ∧ x.2.2.1.family ≠ none ∧ (s.protection 3 .lights, s.protection 3 .blinds, s.protection 3 .air) =
        (none, none, none) ∧ (s.room 3).windows = [] ∧ (s.room 3).overrideScene = none ∧
        (compose s 3 x.2.2.1 Plan.fresh).map Target.value = x.2.2.2) ∧
    (let s := lightsFull .held (staged (.light 0 25) Plan.fresh id)
     s.protection 3 .lights = some 1000 ∧ compose s 3 (.light 0 25) Plan.fresh = some ⟨1000, 0, true⟩) ∧
    (let s := staged .damper Plan.fresh fun x => { x with windows := [⟨0, 2⟩] }
     (s.room 3).windows ≠ [] ∧ compose s 3 .damper Plan.fresh = some ⟨0, 0, false⟩) ∧
    (let s := staged (.light 0 25) Plan.fresh fun x => { x with overrideScene := some 1 }
     compose s 3 (.light 0 25) { Plan.fresh with override := some 7 } = some ⟨7, 0, false⟩ ∧
       compose s 3 (.light 0 25) Plan.fresh = some ⟨500, 4, false⟩) ∧
    (∀ old ∈ [500, 600], let p : Plan := { Plan.fresh with target := some ⟨old, 0, false⟩, stalled := true }
      let s := staged (.light 0 25) p id
      (s.room 3).state ≠ .off ∧ s.plan ⟨0, 1⟩ = some p ∧ s.entry ⟨0, 1⟩ = some (node3 (.light 0 25) .online) ∧
        ((recompose 3 s).plan ⟨0, 1⟩).map (fun q => (q.target.map Target.value, q.stalled)) = some (some 500, decide (old = 500))) ∧
    (∀ x ∈ [(Target.mk 500 0 false, (1000 : Nat), false), (⟨1000, 0, false⟩, 500, true), (⟨1000, 0, true⟩, 500, true)],
      let p : Plan := { Plan.fresh with target := some x.1, lastSent := some x.2.1, stalled := true }
      let s := lightsFull .held (staged (.light 0 25) p id)
      compose s 3 (.light 0 25) p = some ⟨1000, 0, true⟩ ∧
        ((recompose 3 s).plan ⟨0, 1⟩).map Plan.stalled = some x.2.2) ∧
    (∀ x ∈ [(Phase.on, some AirMode.comfort), (.prep, none)], let s := staged .damper Plan.fresh fun y => { y with phase := x.1 }
      (s.view 3).map View.airMode = some x.2 ∧ ((recompose 3 s).air 3).mode = x.2) := by
  decide +kernel

/-- No target; each condition that bars the offer; nothing due; an item of another value on its way; a place, none, and a
line that is DOWN. A recomposition of an idle light behind a busy one. -/
theorem witness_ExaminationOffersItsTarget :
    let p : Plan := { Plan.fresh with target := some ⟨700, 3, false⟩ }
    let at_ : Role → Plan → State := fun role p => withNode role (some p) oneRoom
    (∀ role ∈ [Role.light 0 1, .blind 20, .damper], role.family ≠ none ∧ (at_ role p).plan ⟨0, 1⟩ = some p ∧
      (at_ role p).entry ⟨0, 1⟩ = some (node3 role .online) ∧ ((at_ role p).room 3).state ≠ .off ∧
      ((examine none ⟨0, 1⟩ (at_ role p)).line 0).queued.map Item.value = [700]) ∧
    Plan.fresh.target = none ∧
    (∀ q ∈ [{ p with stalled := true }, { p with travel := some 5, lastSent := some 700 }, { p with lastSent := some 700, confirmed := true }],
      ((examine none ⟨0, 1⟩ (at_ (.blind 20) q)).line 0).queued = []) ∧
    ((examine none ⟨0, 1⟩ (lineA (fun x => { x with inFlight := some roomItem }) (at_ (.light 0 1) p))).line 0).queued.length = 1 ∧
    ((examine none ⟨0, 1⟩ (lineA (fun x => { x with inFlight := some { roomItem with value := 700 } }) (at_ (.light 0 1) p))).line 0).queued = [] ∧
    ((examine none ⟨0, 1⟩ (lineA (fun x => { x with normal := full .pass }) (at_ (.light 0 1) p))).plan ⟨0, 1⟩).map Plan.deferred = some true ∧
    ((examine none ⟨0, 1⟩ (lineA (fun x => { x with down := true }) (at_ (.light 0 1) p))).plan ⟨0, 1⟩).map Plan.deferred = some false ∧
    (let two : State := setPlan ⟨0, 2⟩ (some Plan.fresh) (setEntry ⟨0, 2⟩ (some (node3 (.light 0 1) .online))
       (staged (.light 0 1) Plan.fresh id))
     (two.room 3).state ≠ .off ∧
     ((recompose 3 two).line 0).queued.map Item.node = [1, 2] ∧
     ((recompose 3 (lineA (fun x => { x with inFlight := some { roomItem with node := 2, value := 9 } }) two)).line 0).queued.map
       (fun it => (it.node, it.link)) = [(2, some 3), (1, some 3)]) := by
  decide +kernel

/-- A duty of no period, one with and one without an ON part; a room in duty and one that is not; each part's end. -/
theorem witness_AirDutyStartsAndAlternates :
    (∀ d ∈ [([(3 : Byte), 0, 0], Duty.mk 0 0), ([3, 10, 4], ⟨10, 4⟩), ([3, 10, 0], ⟨10, 0⟩)], let s := asked 0x52 d.1 oneRoom
      s.Takes 0x52 7 d.1 ∧ (dutyOf d.1).toOption = some (3, d.2) ∧
        (s.room 3).state = .run .vacant ∧ (s.room 3).phase = .idle ∧ (s.air 3).active.period = 0 ∧ s.Settled) ∧
    ((inLecture none).room 3).state ≠ .run .vacant ∧
    (∀ a ∈ [({ active := ⟨10, 4⟩, waiting := none, part := some .on, timer := some 0, mode := none } : RoomAir),
        { active := ⟨10, 10⟩, waiting := none, part := some .on, timer := some 0, mode := none },
        { active := ⟨10, 4⟩, waiting := some ⟨0, 0⟩, part := some .off, timer := some 0, mode := none }],
      let s := onAir 3 (fun _ => a) oneRoom
      s.power = .ready ∧ (s.air 3).timer = some 0 ∧ s.Settled) := by decide +kernel

/-- A scene, and none; a panel's scene by value at 31 and 32, scene 0, an empty place, a JOINED room. -/
theorem witness_RoomSceneSetsTheOverride :
    (∀ b ∈ [(0 : Byte), 0xFF],
      let s := asked 0x53 [3, b] lit
      s.Takes 0x53 7 [3, b] ∧ (roomSceneOf [3, b]).toOption.isSome = true ∧ s.loadedScene 0 ≠ none ∧
        (s.room 3).state ≠ .off ∧ (s.room 3).state ≠ .joined ∧ s.Settled ∧
        s.entry ⟨0, 1⟩ = some (node3 (.light 0 1) .online)) ∧
    (lit.room 3).state ≠ .off ∧ lit.Settled ∧ lit.ap.handed = [] ∧ lit.ap.freed = [] ∧
    (some (31 : SceneNum)).map Fin.val = (if (31 : Half).toNat < 32 then some (31 : Half).toNat else none) ∧
    (none : Option SceneNum).map Fin.val = (if (32 : Half).toNat < 32 then some (32 : Half).toNat else none) ∧
    lit.loadedScene 0 ≠ none ∧ lit.loadedScene 31 = none ∧ ((pair0 .joined (some .vacant) none).room 0).state = .joined := by
  and_intros <;> decide +kernel

theorem witness_TravelIsCancelledOrStalls :
    let p : Plan := { Plan.fresh with travel := some 0 }
    let s := asked 0x54 [0, 1] (blind p)
    let e := node3 (.blind 20) .online
    s.Takes 0x54 7 [0, 1] ∧ (nodeRefOf [0, 1]).toOption = some ⟨0, 1⟩ ∧ s.entry ⟨0, 1⟩ = some e ∧ e.role.isBlind = true ∧
      s.plan ⟨0, 1⟩ = some p ∧ s.travelBlocked ⟨0, 1⟩ e = false ∧ s.noStopPlace ⟨0, 1⟩ = false ∧
      (s.line 0).down = false ∧ s.Settled ∧ s.power = .ready ∧ (s.room 3).state ≠ .off := by decide +kernel

/-- The part with source 2 in this state, mode AUTO or LATCHED, and this hold-off. -/
def withSource (st : FaultState) (mode : FaultMode) (holdOff : Nat) (flag : Bool) : State :=
  onSource 2 (fun x =>
    { x with state := st, supervisorFlag := flag, timer := if st = .clearing then some 0 else none
             cfg := { x.cfg with mode := mode, holdOff := holdOff, pin := some 1, rooms := 8, lights := .first } }) oneRoom

theorem witness_LowestSourceGoverns :
    oneRoom.pu.governing 3 .lights = none ∧ (withSource .active .latched 0 true).pu.governing 3 .lights = some 2 := by
  decide +kernel

/-- A stalled blind of room 3 whose source 2 is about to impose position 0, and whether that keeps the stall: sent there, with
that target, with another and with none; sent elsewhere, with another target and with the protected position as target; an item
is offered where the stall is cleared. -/
theorem test_protection_clears_a_stall_by_a_new_target_value :
    ∀ x ∈ [(some (0 : Nat), some (0 : Nat), true), (some 0, some 30, false), (some 0, none, false), (some 40, some 40, false),
        (some 40, some 0, true)],
      let p : Plan := { Plan.fresh with lastSent := x.1, target := x.2.1.map fun v => ⟨v, 0, false⟩, stalled := true }
      let s := onSource 2 (fun y => { y with supervisorFlag := true, cfg := { y.cfg with rooms := 8, blinds := .first } }) (blind p)
      let t := testAssertion 2 s
      s.entry ⟨0, 1⟩ = some (node3 (.blind 20) .online) ∧ (s.view 3).isSome = true ∧ s.plan ⟨0, 1⟩ = some p ∧
        s.pu.governing 3 .blinds ≠ t.pu.governing 3 .blinds ∧ t.protection 3 .blinds = some 0 ∧
        (t.plan ⟨0, 1⟩).map (fun q => (q.target.map Target.value, q.stalled)) = some (some 0, x.2.2) ∧
        (t.line 0).urgent.length = if x.2.2 then 0 else 1 := by decide +kernel

/-- Both claims on a source whose flag is clear and on one whose flag is set (R146). -/
theorem test_claims_change_the_flag_and_the_source :
    ∀ x ∈ [(false, true, FaultState.active), (true, true, .held), (true, false, .idle), (false, false, .idle)],
      let s := onSource 2 (fun y => { y with classifierFlag := x.1 }) (if x.1 && x.2.1 then withSource .held .latched 0 false else State.reset)
      ((s.source 2).classifierFlag = x.2.1 ↔ x.1 = x.2.1) ∧
        ((claimFault 2 x.2.1 s).source 2).classifierFlag = x.2.1 ∧ ((claimFault 2 x.2.1 s).source 2).state = x.2.2 := by
  decide +kernel

/-- One source for each line of the table of R148; and a room whose lights enter and leave protection, with a queued ROOM
item and an override of a light. -/
theorem witness_AssertionTestFollowsTheTable :
    (let s := lightsFull .idle (lineA (fun x => { x with normal := [roomItem] })
       (withNode (.light 0 1) (some { Plan.fresh with override := some 9 }) oneRoom))
     let s := onSource 2 (fun x => { x with supervisorFlag := true }) s
     let t := testAssertion 2 s
     s.pu.governing 3 .lights = none ∧ t.pu.governing 3 .lights ≠ none ∧ (s.room 3).state ≠ .off ∧ (s.view 3).isSome = true ∧
       s.entry ⟨0, 1⟩ = some (node3 (.light 0 1) .online) ∧ s.pu.governing 3 .air = t.pu.governing 3 .air ∧
       (t.line 0).queued.map Item.origin = [.protect] ∧
       (t.plan ⟨0, 1⟩).map (fun p => (p.override, p.target)) = some (none, some ⟨1000, 0, true⟩)) ∧
    (let s := onSource 2 (fun x => { x with supervisorFlag := false, cfg := { x.cfg with mode := .auto } }) (lightsFull .active lit)
     let t := testAssertion 2 s
     s.pu.governing 3 .lights ≠ none ∧ t.pu.governing 3 .lights = none ∧
       CondSet.holds (t.notice 3).conds .protectionLeft = true) ∧
    (∀ x ∈ [(FaultState.idle, true), (.active, false), (.clearing, true), (.held, true), (.active, true), (.idle, false)],
      ∀ m ∈ [(FaultMode.latched, 0), (.auto, 5), (.auto, 0)],
      let s := withSource x.1 m.1 m.2 x.2
      (s.source 2).state = x.1 ∧ (s.source 2).asserted s.pu = x.2 ∧ (s.source 2).cfg.mode = m.1 ∧
        (s.source 2).cfg.holdOff = m.2) := by decide +kernel

theorem witness_FaultCommandsMoveTheirSource :
    (let ps : List Byte := [2, 0, 0, 5, 1, 8, 0, 0, 0, 0, 0, 0, 2, 2]
     let s := asked 0x60 ps oneRoom
     s.Takes 0x60 7 ps ∧ (faultOf ps).toOption.map Prod.fst = some 2 ∧ (s.source 2).state = .idle ∧
       (s.source 2).classifierFlag = false ∧ (s.source 2).supervisorFlag = false) ∧
    (∀ flag ∈ [true, false], ∀ code ∈ [(0x61 : Byte), 0x62],
      let s := asked code [2] (withSource .active .auto 5 flag)
      s.Takes code 7 [2] ∧ (oneByte 8 [2]).toOption = some (2 : SourceId) ∧ (s.source 2).supervisorFlag = flag ∧
        (s.source 2).classifierFlag = false ∧ (s.source 2).state = .active ∧ look s.pu.pins 1 = false) ∧
    (∀ st ∈ [FaultState.clearing, .held], let s := asked 0x63 [2] (withSource st .auto 5 false)
      s.Takes 0x63 7 [2] ∧ (s.source 2).state = st) ∧
    (withSource .clearing .auto 5 false).power = .ready ∧ ((withSource .clearing .auto 5 false).source 2).timer = some 0 := by
  decide +kernel

theorem reset_source (i : SourceId) : State.reset.source i = Source.initial := by
  simp [State.source, State.reset, State.fresh, Pu.initial, look, filled, Vector.get]

theorem reset_sources_lawful : State.reset.SourcesLawful := fun i => by
  rw [reset_source]
  exact ⟨by decide, by decide, by decide, by decide⟩

theorem sources_lawful_of (s : State)
    (h : ∀ i, let x := s.source i
      (x.state = .active ↔ x.asserted s.pu = true) ∧ (x.state = .clearing → x.cfg.mode = .auto) ∧
        (x.state = .held → x.cfg.mode = .latched) ∧ (x.timer.isSome = true ↔ x.state = .clearing)) :
    s.SourcesLawful := fun i => ⟨(h i).1, (h i).2.1, (h i).2.2.1, (h i).2.2.2⟩

/-- The part with source 2, which alone names pin 1, and that pin's level. -/
def onPin1 (low : Bool) (st : FaultState) (mode : FaultMode) (holdOff : Nat) (flag : Bool) : State :=
  let s := withSource st mode holdOff flag
  { s with pu := { s.pu with pins := put s.pu.pins 1 low } }

/-- Pin 1 goes low with its source IDLE, and high with its source ACTIVE: LATCHED, AUTO with a hold-off and without, and held by
a flag; and no source names the pin. -/
theorem witness_FaultPinDrivesItsSources :
    (∀ x ∈ [(FaultState.idle, FaultMode.latched, (0 : Nat), false, FaultState.active), (.active, .latched, 0, false, .held),
        (.active, .auto, 5, false, .clearing), (.active, .auto, 0, false, .idle), (.active, .auto, 0, true, .active)],
      let low := x.1 == .idle
      let s := onPin1 (!low) x.1 x.2.1 x.2.2.1 x.2.2.2.1
      (s.power = .ready ∧ look s.pu.pins 1 ≠ low ∧ (∀ j, (s.source j).cfg.pin = some 1 ↔ j = 2) ∧
        seen (fun t => (t.source 2).state) (.faultPinChange 1 low) s = some x.2.2.2.2) ∧ s.SourcesLawful) ∧
    (State.reset.power = .ready ∧ look State.reset.pu.pins 1 = false ∧ ∀ j, (State.reset.source j).cfg.pin ≠ some 1) ∧
    State.reset.SourcesLawful := by
  refine ⟨fun x hx => ?_, by decide +kernel, reset_sources_lawful⟩
  simp only [List.mem_cons, List.not_mem_nil, or_false] at hx
  rcases hx with rfl | rfl | rfl | rfl | rfl <;>
    exact ⟨by decide +kernel, sources_lawful_of _ (by decide +kernel)⟩

theorem pair0_room (st : RoomState) (occ : Option OccState) (r : RoomId) :
    (pair0 st occ none).room r = if r = 0 ∨ r = 1 then { vacant1 with state := st, suite := some 0 } else Room.off := by
  show look (put (put (filled 48 Room.off) 0 { vacant1 with state := st, suite := some 0 }) 1
    { vacant1 with state := st, suite := some 0 }) r = _
  rw [look_put, look_put, look_filled]
  by_cases h1 : r = 1
  · simp [h1]
  · by_cases h0 : r = 0 <;> simp [h0, h1]

theorem pair0_suite (st : RoomState) (occ : Option OccState) (g : SuiteId) :
    (pair0 st occ none).suite g =
      if g = 0 then some { members := [0, 1], adHocScene := 1, occ := occ, seen := false, linger := none } else none := by
  show look (put (filled 8 none) 0 _) g = _
  rw [look_put, look_filled]

/-- Two vacant members of a SPLIT suite, and two of a suite that is JOINED and VACANT, are lawful. -/
theorem pair0_occupancy :
    ∀ x ∈ [(RoomState.run .vacant, none), (.joined, some OccState.vacant)], (pair0 x.1 x.2 none).Occupancy := by
  have key : ∀ (st : RoomState) (occ : Option OccState), (st = .run .vacant ∧ occ = none) ∨ (st = .joined ∧ occ = some .vacant) →
      (pair0 st occ none).Occupancy := by
    intro st occ h
    refine ⟨fun r => ?_, fun g x e => ?_, fun r g e => ?_, fun r e => ?_⟩
    · rw [pair0_room]
      rcases h with ⟨rfl, rfl⟩ | ⟨rfl, rfl⟩ <;> split_ifs <;>
        exact ⟨fun o ho => by cases ho <;> exact ⟨by decide, by decide, by decide, by decide, by decide⟩, by decide, by decide⟩
    · rw [pair0_suite] at e
      split_ifs at e with hg
      · subst hg; cases e
        refine ⟨by simp, by simp, fun r hr => ?_, fun o ho => ?_, fun _ => ⟨rfl, rfl⟩⟩
        · rw [pair0_room]
          have : r = 0 ∨ r = 1 := by simpa using hr
          rw [if_pos this]
          rcases h with ⟨rfl, rfl⟩ | ⟨rfl, rfl⟩ <;> decide
        · rcases h with ⟨rfl, rfl⟩ | ⟨rfl, rfl⟩
          · cases ho
          · cases ho
            constructor <;> decide +kernel
    · rw [pair0_room] at e
      split_ifs at e with hr
      · cases e
        exact ⟨_, by rw [pair0_suite, if_pos rfl], by simpa using hr⟩
      · cases e
    · rw [pair0_room] at e ⊢
      split_ifs at e ⊢
      · simp
      · cases e
  intro x hx
  simp only [List.mem_cons, List.not_mem_nil, or_false] at hx
  rcases hx with rfl | rfl <;> exact key _ _ (by simp)

/-- Room 0 follows an occurrence, of the suite or of its own, the clock at minute 150; its suite is being dropped. -/
def dropping (st : RoomState) (occ : Option OccState) (target : BookingTarget) : State :=
  asked 0x71 [0] (onTime 0 (fun t => { t with cursor := some { occ := ⟨9, 1⟩, marks := (booking3 none).marks fun _ => true } })
    (timed ⟨1, 150, 0⟩ [{ booking3 none with target := target }] (pair0 st occ none)))

theorem dropping_occupancy (st : RoomState) (occ : Option OccState) (target : BookingTarget)
    (h : (pair0 st occ none).Occupancy) : (dropping st occ target).Occupancy :=
  ⟨h.rooms, fun g x e => have k := h.suites g x e; ⟨k.distinct, k.size, k.member, k.machine, k.split⟩, h.membership, h.joined⟩

/-- LOAD SUITE; DROP SUITE of a SPLIT and of a JOINED suite, with a member that keeps its occurrence and one that loses it. -/
theorem witness_SuitesAreLoadedAndDropped :
    (let ps : List Byte := [0, 2, 0, 1, 0xFF, 1]
     let s := asked 0x70 ps (pair0 (.run .vacant) none none)
     s.Takes 0x70 7 ps ∧ (suiteOf ps).toOption = some (0, [0, 1], 1) ∧ s.suiteBlocked 0 [0, 1] = false) ∧
    ∀ x ∈ [(RoomState.run .vacant, (none : Option OccState)), (.joined, some .vacant)],
      (∀ y ∈ [(BookingTarget.suite 0, (none : Option (Nat × Nat))), (.room 0, some (9, 1))],
        let s := dropping x.1 x.2 y.1
        let v := setMembership [0, 1] none (removeBookings (fun b => b.target == .suite 0) (dropFrame s))
        s.Takes 0x71 7 [0] ∧ (oneByte 8 [0]).toOption = some (0 : SuiteId) ∧ (s.suite 0).map Suite.members = some [0, 1] ∧
          (s.time 0).cursor.map Cursor.occ = some ⟨9, 1⟩ ∧ (v.select 0).map (fun f => (f.1.id, f.2)) = y.2 ∧
          (s.room 0).state = x.1) ∧
      ∀ target, (dropping x.1 x.2 target).Occupancy :=
  ⟨by decide +kernel, fun x hx => ⟨by revert x; decide +kernel, fun _ => dropping_occupancy _ _ _ (pair0_occupancy x hx)⟩⟩

theorem witness_PartitionJoinsAndSplits :
    State.reset.suite 0 = none ∧
    (∀ r ∈ (pair0 (.run .vacant) none none).members 0, (pair0 (.run .vacant) none none).inDuty r = true) ∧
    ((pair0 (.run .vacant) none none).suite 0).map Suite.occ = some none ∧ (pair0 (.run .vacant) none none).Occupancy ∧
    ((pair0 .joined (some .vacant) none).suite 0).map Suite.occ = some (some .vacant) ∧
    (pair0 .joined (some .vacant) none).Occupancy :=
  ⟨by decide +kernel, by decide +kernel, by decide +kernel, pair0_occupancy (.run .vacant, none) (by simp), by decide +kernel,
    pair0_occupancy (.joined, some .vacant) (by simp)⟩

/-- Room 3 with a notice record. -/
def noticed (n : RoomNotice) (listed : List RoomId) : State :=
  onNotice 3 (fun _ => n) { oneRoom with nu := { oneRoom.nu with pendingList := listed } }

/-- A room that is pending and one that is not; a list with and without an enabled class; a mask that enables it; a
NOTICE offered to 11 frames and to 12. -/
theorem witness_StatusIsCollectedAndListed :
    (∀ p ∈ [false, true], let s := asked 0x80 [3] (noticed ⟨1, 1, 0, 0, p⟩ [3])
      s.Takes 0x80 7 [3] ∧ (s.room 3).state ≠ .off ∧ (s.notice 3).pending = p) ∧
    (asked 0x82 [] (noticed ⟨1, 1, 2, 0, true⟩ [3])).Takes 0x82 7 [] ∧
    (noticed ⟨1, 1, 2, 0, true⟩ [3]).nu.pendingList = [] ++ 3 :: [] ∧
    (noticed ⟨1, 1, 2, 0, true⟩ [3]).nu.mask.getLsbD ((noticed ⟨1, 1, 2, 0, true⟩ [3]).notice 3).cls.val = true ∧
    State.reset.nu.pendingList = [] ∧
    (asked 0x83 [4] (noticed ⟨1, 1, 2, 0, true⟩ [3])).Takes 0x83 7 [4] ∧
    (noticed ⟨1, 1, 2, 0, true⟩ [3]).ti.tx.length + 1 ≤ 12 ∧
    (∀ x ∈ [((11 : Nat), (12 : Nat), (0 : Word)), (12, 12, 1)], let f := State.reset.noticeFrame 3
      let t := offerTx f { State.reset with ti := { State.reset.ti with tx := List.replicate x.1 f } }
      f.kind = .notice ∧ t.ti.tx.length = x.2.1 ∧ t.ti.counts.noticesDropped = x.2.2) := by decide +kernel

/-- OFF; notifiable and not pending; pending. The wing queue empty, with a STRANGER at its head, and full; the flag of a line
clear and set. -/
theorem witness_ConditionsAndWingReportsAreKept :
    let stranger : WingReport := { kind := .stranger 0 1, stamp := none, overflow := false }
    (State.reset.room 3).state = .off ∧ (oneRoom.room 3).state ≠ .off ∧
    (∀ p ∈ [false, true], let n := (noticed ⟨0, 1, 0, 0, p⟩ []).notice 3
      n.notify.getLsbD Condition.stateChanged.code = true ∧ n.pending = p) ∧
    (∀ ps ∈ [[], [(0 : Byte)]], (asked 0x84 ps State.reset).Takes 0x84 7 ps) ∧
    ({ State.reset with nu := { State.reset.nu with wing := [] } } : State).nu.wing = [] ∧
    ({ State.reset with nu := { State.reset.nu with wing := [stranger] } } : State).nu.wing = stranger :: [] ∧
    State.reset.nu.wing.length < 16 ∧
    List.replicate 16 stranger = List.replicate 15 stranger ++ [stranger] ∧
    look State.reset.cl.strangers 0 = false ∧ look (put State.reset.cl.strangers 0 true) 0 = true := by decide +kernel

theorem witness_FramesCarryTheirCheck :
    (1 : NodeAddr) ≠ 0 ∧ (100 : Byte).toNat ≤ 100 ∧
    lineMessage ⟨false, (LineMessage.report 31 .generic 0xFFFF).bytes⟩ = some (.report 31 .generic 0xFFFF) := by
  decide +kernel

theorem witness_RecordsReadBack :
    (booking3 (some 52)).inRange = true ∧ (booking3 (some 52)).id ≤ 65535 ∧
    (let c := context none (some 65534)
     c.head ≤ 65535 ∧ c.cursor = none ∧ (∀ t ∈ [c.motionHold, c.linger, c.stillness], ∀ n ∈ t, n < 65535) ∧
       c.overrides.length ≤ 16 ∧ ∀ o ∈ c.overrides, o.1.addr ≠ 0 ∧ o.2 ≤ 65535) := by decide +kernel

/-- A state with work of every kind that the laws speak of, and a command waiting. -/
def busy : State :=
  { lineA (fun x => { x with urgent := [{ protectItem with node := 2 }], normal := [roomItem]
                             counts := { x.counts with accepted := 2 } })
      (timed ⟨52, 10079, 59⟩ [booking3 none] (noticed ⟨1, 1, 0, 0, true⟩ [3])) with pending := [.minuteBoundary] }

theorem witness_BoundsAreKept : busy.Fits ∧ busy.InRange ∧ ∃ t, step busy = .next t :=
  ⟨by constructor <;> decide +kernel,
    ⟨by decide +kernel, by decide, fun c h => by cases h; decide⟩, _, rfl⟩

theorem witness_ListsAreKept : busy.Lists ∧ busy.Settled ∧ busy.StoreOrdered ∧ ∃ t, step busy = .next t :=
  ⟨by constructor <;> decide +kernel, rfl, by constructor <;> decide +kernel, _, rfl⟩

theorem witness_LineQueuesAndSumsAreKept :
    (∀ l, (busy.line l).Queue) ∧ (∀ l, (busy.line l).Balanced) ∧ ∃ t, step busy = .next t := by
  have q : ∀ l, (∀ it ∈ (busy.line l).urgent, it.origin.band = .urgent) ∧ (∀ it ∈ (busy.line l).normal, it.origin.band = .normal) ∧
      (busy.line l).queued.Pairwise fun a b => a.rivals b = false := by decide +kernel
  exact ⟨fun l => ⟨(q l).1, (q l).2.1, (q l).2.2⟩, by unfold Line.Balanced; decide +kernel, _, rfl⟩

theorem witness_SourceLawIsKept : State.reset.SourcesLawful ∧ ∃ t, step State.reset = .next t :=
  ⟨reset_sources_lawful, _, rfl⟩

theorem witness_OccupancyLawIsKept :
    (pair0 .joined (some .vacant) none).Occupancy ∧ (pair0 .joined (some .vacant) none).OffIsEmpty ∧
    ∃ t, step (pair0 .joined (some .vacant) none) = .next t := by
  refine ⟨pair0_occupancy (.joined, some .vacant) (by simp), fun r h => ?_, _, rfl⟩
  rw [pair0_room] at h ⊢
  by_cases e : r = 0 ∨ r = 1
  · rw [if_pos e] at h; cases h
  · rw [if_neg e]; exact ⟨rfl, look_filled (n := 48) RoomTime.empty r⟩

end Sys2Proof.Tests
end

section
/-!
PROOFS. The bounds every step keeps (R4, R6, R22, R67, R74, R90, R95, R183). `KeepsBounds` says of a piece of work that it
leaves every list within its places and every count within its range; each operation of the model keeps them, and
the step follows by its commands.
-/

namespace Sys2Proof.Machine

/-! ### The relation -/

/-- A clock within its range (R90). -/
def Clock.Valid (c : Clock) : Prop := 1 ≤ c.week ∧ c.week ≤ 52 ∧ c.minute ≤ 10079 ∧ c.second ≤ 59

/-- Work from `s` to `t` that keeps every bound. Offers fill the transmit queue to 12 frames at most (R6), so that a REPLY
still finds its place. -/
structure KeepsBounds (s t : State) : Prop where
  rx : s.ti.rx.length ≤ 4 → t.ti.rx.length ≤ 4
  tx : ∀ n, 12 ≤ n → s.ti.tx.length ≤ n → t.ti.tx.length ≤ n
  wing : s.nu.wing.length ≤ 16 → t.nu.wing.length ≤ 16
  store : s.tu.store.length ≤ 512 → t.tu.store.length ≤ 512
  queue : ∀ l, (s.line l).queued.length ≤ 32 → (t.line l).queued.length ≤ 32
  windows : ∀ r, (s.room r).windows.length ≤ 8 → (t.room r).windows.length ≤ 8
  head : ∀ r, (s.room r).head ≤ 999 → (t.room r).head ≤ 999
  ms : s.tu.ms ≤ 1000 → t.tu.ms ≤ 1000
  clock : (∀ c, s.tu.clock = some c → c.Valid) → ∀ c, t.tu.clock = some c → c.Valid

/-- What the bounds speak of. -/
def State.bounded (s : State) : Ti × List WingReport × Tu × Lc × Vector Room 48 :=
  (s.ti, s.nu.wing, s.tu, s.lc, s.re.rooms)

namespace KeepsBounds

theorem refl (s : State) : KeepsBounds s s :=
  ⟨id, fun _ _ h => h, id, id, fun _ h => h, fun _ h => h, fun _ h => h, id, id⟩

theorem trans {a b c : State} (h : KeepsBounds a b) (k : KeepsBounds b c) : KeepsBounds a c where
  rx e := k.rx (h.rx e)
  tx n hn e := k.tx n hn (h.tx n hn e)
  wing e := k.wing (h.wing e)
  store e := k.store (h.store e)
  queue l e := k.queue l (h.queue l e)
  windows r e := k.windows r (h.windows r e)
  head r e := k.head r (h.head r e)
  ms e := k.ms (h.ms e)
  clock e := k.clock (h.clock e)

/-- The same, the later work named first. -/
theorem after {a b c : State} (k : KeepsBounds b c) (h : KeepsBounds a b) : KeepsBounds a c := h.trans k

/-- Work that leaves alone what the bounds speak of. -/
theorem of_same {s t : State} (h : t.bounded = s.bounded) : KeepsBounds s t := by
  simp only [State.bounded, Prod.mk.injEq] at h
  obtain ⟨ti, wing, tu, lc, rooms⟩ := h
  have line : ∀ l, t.line l = s.line l := fun l => by simp only [State.line, lc]
  have room : ∀ r, t.room r = s.room r := fun r => by simp only [State.room, rooms]
  exact ⟨fun e => ti ▸ e, fun _ _ e => ti ▸ e, fun e => wing ▸ e, fun e => tu ▸ e, fun l e => by rwa [line l],
    fun r e => by rwa [room r], fun r e => by rwa [room r], fun e => tu ▸ e, fun e => tu ▸ e⟩

/-- AP's work and the line controllers' (R22). -/
theorem of_only {s t : State} (h : OnlyActuation s t) : KeepsBounds s t where
  rx e := by rwa [h.ti]
  tx n _ e := by rwa [h.ti]
  wing e := by rwa [h.nu]
  store e := by rwa [h.tu]
  queue := h.fits
  windows r e := by rwa [h.room]
  head r e := by rwa [h.room]
  ms e := by rwa [h.tu]
  clock e := by rwa [h.tu]

theorem ite {c : Prop} [Decidable c] {s a b : State} (h : KeepsBounds s a) (k : KeepsBounds s b) :
    KeepsBounds s (if c then a else b) := by
  split
  · exact h
  · exact k

theorem forEach {α : Type} {f : α → State → State} (h : ∀ x s, KeepsBounds s (f x s)) (xs : List α) (s : State) :
    KeepsBounds s (Machine.forEach xs f s) :=
  forEach_rel KeepsBounds refl trans h xs s

theorem forEachFree {α : Type} {f : α → State → State} (h : ∀ x s, KeepsBounds s (f x s)) (xs : List α) (s : State) :
    KeepsBounds s (Machine.forEachFree xs f s) :=
  forEachFree_rel KeepsBounds refl trans (fun _ => .of_same (by rfl)) h xs s

/-- A state within its bounds stays there. -/
theorem within {s t : State} (k : KeepsBounds s t) (h : s.Fits) (r : s.InRange) : t.Fits ∧ t.InRange :=
  ⟨⟨k.rx h.rx, k.tx 16 (by decide) h.tx, k.wing h.wing, k.store h.store, fun l => k.queue l (h.queue l),
    fun q => k.windows q (h.windows q)⟩, fun q => k.head q (r.head q), k.ms r.ms, k.clock r.clock⟩

end KeepsBounds

/-! ### Updates of one record -/

/-- A change of a room record that keeps its windows set and its head estimate within their bounds. -/
def RoomFits (f : Room → Room) : Prop :=
  ∀ x, (x.windows.length ≤ 8 → (f x).windows.length ≤ 8) ∧ (x.head ≤ 999 → (f x).head ≤ 999)

theorem RoomFits.of_evidence {f : Room → Room} (h : ∀ x, (f x).windows = x.windows ∧ (f x).head = x.head) :
    RoomFits f :=
  fun x => ⟨fun k => by rwa [(h x).1], fun k => by rwa [(h x).2]⟩

theorem onRoom_bounds (r : RoomId) (f : Room → Room) (s : State) (fits : RoomFits f) : KeepsBounds s (onRoom r f s) where
  rx := id
  tx _ _ h := h
  wing := id
  store := id
  queue _ h := h
  windows q h := by
    by_cases e : q = r
    · subst e; rw [room_onRoom]; exact (fits _).1 h
    · rwa [room_onRoom_ne e]
  head q h := by
    by_cases e : q = r
    · subst e; rw [room_onRoom]; exact (fits _).2 h
    · rwa [room_onRoom_ne e]
  ms := id
  clock := id

/-- A change of a room record that leaves its windows set and its head estimate alone. -/
theorem onRoom_same (r : RoomId) (f : Room → Room) (s : State)
    (same : ∀ x, (f x).windows = x.windows ∧ (f x).head = x.head) : KeepsBounds s (onRoom r f s) :=
  onRoom_bounds r f s (.of_evidence same)

theorem onLine_bounds (l : LineId) (f : Line → Line) (s : State)
    (h : (s.line l).queued.length ≤ 32 → (f (s.line l)).queued.length ≤ 32) : KeepsBounds s (onLine l f s) where
  rx := id
  tx _ _ e := e
  wing := id
  store := id
  queue k e := by
    by_cases i : k = l
    · subst i; rw [line_onLine]; exact h e
    · rwa [line_onLine_ne i]
  windows _ e := e
  head _ e := e
  ms := id
  clock := id

theorem setEntry_bounds (n : NodeRef) (x : Option NodeEntry) (s : State) : KeepsBounds s (setEntry n x s) :=
  onLine_bounds n.line _ s (by exact id)

theorem setHealth_bounds (n : NodeRef) (h : Health) (m : Bool) (s : State) : KeepsBounds s (setHealth n h m s) :=
  setEntry_bounds n _ s

theorem onPlan_bounds (n : NodeRef) (f : Plan → Plan) (s : State) : KeepsBounds s (onPlan n f s) := .of_same (by rfl)

theorem raise_bounds (c : Condition) (r : RoomId) (s : State) : KeepsBounds s (raise c r s) := by
  have h := raise_work c r s
  refine .of_same ?_
  simp only [State.bounded, raise_ti, h.queue.2, h.tu, raise_lc, raise_re]

theorem writeWing_bounds (k : WingKind) (s : State) : KeepsBounds s (writeWing k s) := by
  have ⟨rest, _, fits⟩ := writeWing_rest k s
  have same : KeepsBounds s { writeWing k s with nu := s.nu } := by rw [rest]; exact .refl s
  exact { same with wing := fits }

theorem offerTx_bounds (f : TxFrame) (s : State) : KeepsBounds s (offerTx f s) := by
  have h := offerTx_work f s
  have same : KeepsBounds s { offerTx f s with ti := s.ti } := by rw [offerTx_rest]; exact .refl s
  exact { same with rx := fun e => by rwa [h.rx], tx := h.tx }

theorem endEvent_bounds (s : State) : KeepsBounds s (endEvent s) := by
  refine .trans (.of_only (settle_only s)) ?_
  unfold endEvent buildNotices
  exact .trans (b := { settle s with nu := { (settle s).nu with due := [] } }) (.of_same rfl)
    (.forEach (fun r t => offerTx_bounds _ t) _ _)

/-! ### The room engine -/

theorem clearOverrides_bounds (p : Family → Bool) (r : RoomId) (s : State) : KeepsBounds s (clearOverrides p r s) :=
  .of_only (clearOverrides_only p r s)

theorem recompose_bounds (r : RoomId) (s : State) : KeepsBounds s (recompose r s) := .of_only (recompose_only r s)

theorem recomposeMembers_bounds (g : SuiteId) (s : State) : KeepsBounds s (recomposeMembers g s) :=
  .of_only (recomposeMembers_only g s)

theorem setRoomState_bounds (r : RoomId) (st : RoomState) (s : State) : KeepsBounds s (setRoomState r st s) := by
  unfold setRoomState
  split
  · exact .refl s
  · have changed := (onRoom_same r (fun x => { x with state := st }) s fun _ => ⟨rfl, rfl⟩).trans (raise_bounds .stateChanged r _)
    dsimp only
    split
    · exact changed.trans (.trans (onRoom_same r (fun x => { x with overrideScene := none, boost := false }) _ fun _ => ⟨rfl, rfl⟩)
        (clearOverrides_bounds _ r _))
    · exact changed

theorem moveRoom_bounds (r : RoomId) (f : OccState → OccState) (s : State) : KeepsBounds s (moveRoom r f s) := by
  unfold moveRoom
  split
  · exact .ite (.refl s) (.after (setRoomState_bounds r _ _) (onRoom_same r _ s (by simp)))
  · exact .refl s
  · exact .refl s

theorem moveSuite_bounds (g : SuiteId) (f : OccState → OccState) (s : State) : KeepsBounds s (moveSuite g f s) := by
  unfold moveSuite
  split
  · refine .ite (.refl s) ?_
    refine .ite (.trans ?told (.forEach (fun m t => ?_) _ _)) ?told
    case told => exact .after (.forEach (raise_bounds _) _ _) (.of_same (by rfl))
    exact .trans (onRoom_same m (fun x => { x with boost := false }) t fun _ => ⟨rfl, rfl⟩) (clearOverrides_bounds _ m _)
  · exact .refl s

theorem presenceEdge_bounds (s0 : State) (r : RoomId) (s : State) : KeepsBounds s (presenceEdge s0 r s) := by
  unfold presenceEdge
  dsimp only
  have seen : KeepsBounds s (if (s.room r).presence && !(s0.room r).presence then
      onRoom r (fun x => { x with seen := true }) s else s) :=
    .ite (onRoom_same r _ s (by simp)) (.refl s)
  revert seen
  generalize (if (s.room r).presence && !(s0.room r).presence then
    onRoom r (fun x => { x with seen := true }) s else s) = u
  refine fun seen => seen.trans ?_
  cases u.joinedSuite r with
  | some g => exact .ite (.after (moveSuite_bounds g _ _) (.of_same (by rfl))) (.ite (moveSuite_bounds g _ u) (.refl u))
  | none => exact .ite (moveRoom_bounds r _ u) (.ite (moveRoom_bounds r _ u) (.refl u))

theorem dutyEdge_bounds (was : Bool) (r : RoomId) (s : State) : KeepsBounds s (dutyEdge was r s) := by
  unfold dutyEdge
  exact .ite (.ite (.refl s) (.of_same (by rfl))) (.ite (.of_same (by rfl)) (.refl s))

theorem recomposeAfter_bounds (s0 : State) (r : RoomId) (s : State) : KeepsBounds s (recomposeAfter s0 r s) := by
  unfold recomposeAfter
  dsimp only
  have own := KeepsBounds.ite (c := (s.room r).drives = (s0.room r).drives) (.refl s) (recompose_bounds r s)
  split
  · exact .ite own (recomposeMembers_bounds _ s)
  · exact own

theorem afterRoomEvent_bounds (s0 : State) (r : RoomId) (s : State) : KeepsBounds s (afterRoomEvent s0 r s) :=
  (presenceEdge_bounds s0 r s).trans
    ((dutyEdge_bounds _ r _).trans ((recomposeAfter_bounds s0 r _).trans (endEvent_bounds _)))

/-! ### Room actions: the windows set and the head estimate (R67, R68, R74, R75) -/

theorem startStillness_evidence (x : Room) : x.startStillness.windows = x.windows ∧ x.startStillness.head = x.head := by
  unfold Room.startStillness; split <;> exact ⟨rfl, rfl⟩

theorem restartStillness_evidence (x : Room) :
    x.restartStillness.windows = x.windows ∧ x.restartStillness.head = x.head := by
  unfold Room.restartStillness; split <;> exact ⟨rfl, rfl⟩

theorem suspendExam_evidence (was : Bool) (x : Room) :
    (x.suspendExam was).windows = x.windows ∧ (x.suspendExam was).head = x.head := by
  unfold Room.suspendExam
  split
  · split <;> exact ⟨rfl, rfl⟩
  · split
    · exact startStillness_evidence x
    · exact ⟨rfl, rfl⟩

theorem countIn_evidence (v : Half) (x : Room) :
    (x.countIn v).windows = x.windows ∧ (x.countIn v).head = min 999 (x.head + countValue v) := by
  unfold Room.countIn
  dsimp only
  split
  · exact startStillness_evidence _
  · exact restartStillness_evidence _

theorem countOut_evidence (v : Half) (x : Room) :
    (x.countOut v).windows = x.windows ∧ (x.countOut v).head = x.head - countValue v := by
  unfold Room.countOut
  dsimp only
  split_ifs with empty
  · simp [empty]
  · exact ⟨rfl, rfl⟩
  · exact restartStillness_evidence _

theorem countIn_fits (v : Half) : RoomFits (Room.countIn v) := by
  intro x
  rw [(countIn_evidence v x).1, (countIn_evidence v x).2]
  exact ⟨id, fun _ => min_le_left _ _⟩

theorem countOut_fits (v : Half) : RoomFits (Room.countOut v) := by
  intro x
  rw [(countOut_evidence v x).1, (countOut_evidence v x).2]
  exact ⟨id, (Nat.sub_le _ _).trans⟩

theorem windowOpen_fits (n : NodeRef) : RoomFits (Room.windowOpen n) := by
  intro x
  unfold Room.windowOpen
  split_ifs with listed
  · exact ⟨id, id⟩
  · rw [not_or] at listed
    exact ⟨fun _ => by simp only [List.length_append, List.length_singleton]; omega, id⟩

theorem overcrowdTest_bounds (r : RoomId) (s : State) : KeepsBounds s (overcrowdTest r s) := by
  unfold overcrowdTest
  exact .ite (.ite (.refl s) (.after (raise_bounds _ r _) (onRoom_same r _ s (by simp)))) (onRoom_same r _ s (by simp))

theorem setOverrideScene_bounds (n : SceneNum) (r : RoomId) (s : State) : KeepsBounds s (setOverrideScene n r s) :=
  .trans (onRoom_same r (fun x => { x with overrideScene := some n }) s fun _ => ⟨rfl, rfl⟩)
    ((clearOverrides_bounds _ r _).trans (recompose_bounds r _))

theorem panel_bounds (n : SceneNum) (r : RoomId) (s : State) : KeepsBounds s (panel n r s) :=
  .ite (.refl s) (setOverrideScene_bounds n r s)

theorem takeRoomAct_bounds (act : RoomAct) (n : NodeRef) (value : Half) (r : RoomId) (s : State) :
    KeepsBounds s (takeRoomAct act n value r s) := by
  unfold takeRoomAct
  split
  · exact .trans (onRoom_same r Room.motion s fun _ => ⟨rfl, rfl⟩) (afterRoomEvent_bounds s r _)
  · exact .trans (onRoom_bounds r _ s (countIn_fits value)) (.trans (overcrowdTest_bounds r _) (afterRoomEvent_bounds s r _))
  · exact .trans (onRoom_bounds r _ s (countOut_fits value))
      (.trans (.trans (.ite (raise_bounds _ r _) (.refl _)) (overcrowdTest_bounds r _)) (afterRoomEvent_bounds s r _))
  · exact .trans (onRoom_same r (Room.co2Action _ value) s fun _ => ⟨rfl, rfl⟩) (afterRoomEvent_bounds s r _)
  · exact .trans (onRoom_bounds r _ s (windowOpen_fits n)) (afterRoomEvent_bounds s r _)
  · exact .trans (onRoom_bounds r (Room.windowClosed n) s fun _ => ⟨(List.length_filter_le _ _).trans, id⟩)
      (afterRoomEvent_bounds s r _)
  · exact .trans (panel_bounds _ r s) (endEvent_bounds _)
  · refine .trans ?_ (endEvent_bounds _)
    split
    · exact panel_bounds _ r s
    · exact .refl s
  · exact .trans (panel_bounds _ r s) (endEvent_bounds _)

theorem roomAction_bounds (act : RoomAct) (n : NodeRef) (value : Half) (r : RoomId) (s : State) :
    KeepsBounds s (roomAction act n value r s) := .ite (.refl s) (takeRoomAct_bounds act n value r s)

/-! ### Phase reports, partitions, expiries -/

theorem storePhase_bounds (r : RoomId) (p : Phase) (k : Option Booking) (s : State) :
    KeepsBounds s (onRoom r (Room.storePhase p k) s) :=
  onRoom_same r (Room.storePhase p k) s fun _ => suspendExam_evidence _ _

theorem suitePhase_bounds (g : SuiteId) (p before : Phase) (s : State) : KeepsBounds s (suitePhase g p before s) := by
  unfold suitePhase
  refine .trans (b := if p = .on then onSuite g (fun x => { x with seen := s.suitePresence g }) s else s)
    (.ite (.of_same (by rfl)) (.refl s)) ?_
  exact .trans (.ite (.forEach (raise_bounds _) _ _) (.refl _)) ((moveSuite_bounds g _ _).trans (recomposeMembers_bounds g _))

theorem phaseReport_bounds (r : RoomId) (p : Phase) (k : Option Booking) (s : State) :
    KeepsBounds s (phaseReport r p k s) := by
  have stored := storePhase_bounds r p k s
  unfold phaseReport
  dsimp only
  split
  · exact .refl s
  · exact stored.trans (.trans (.ite (raise_bounds _ r _) (.refl _))
      ((moveRoom_bounds r _ _).trans ((dutyEdge_bounds _ r _).trans (recompose_bounds r _))))
  · split
    · exact stored.trans (suitePhase_bounds _ _ _ _)
    · exact stored

theorem joinMember_bounds (r : RoomId) (s : State) : KeepsBounds s (joinMember r s) := by
  unfold joinMember
  exact .trans (.ite (.of_same (by rfl)) (.refl s)) ((setRoomState_bounds r _ _).trans
    (.trans (onRoom_same r (fun x => { x with linger := none, overrideScene := none }) _ fun _ => ⟨rfl, rfl⟩) (clearOverrides_bounds _ r _)))

theorem joinSuite_bounds (g : SuiteId) (s : State) : KeepsBounds s (joinSuite g s) := by
  unfold joinSuite
  exact .trans (.forEach joinMember_bounds _ s) (.after (recomposeMembers_bounds g _) (.of_same (by rfl)))

theorem splitMember_bounds (r : RoomId) (s : State) : KeepsBounds s (splitMember r s) := by
  unfold splitMember
  exact (setRoomState_bounds r _ _).trans
    ((clearOverrides_bounds _ r _).trans ((dutyEdge_bounds _ r _).trans (recompose_bounds r _)))

theorem splitSuite_bounds (g : SuiteId) (s : State) : KeepsBounds s (splitSuite g s) := by
  unfold splitSuite
  exact .after (.forEach splitMember_bounds _ _) (.of_same (by rfl))

theorem partitionAction_bounds (opens : Bool) (g : SuiteId) (s : State) : KeepsBounds s (partitionAction opens g s) := by
  unfold partitionAction
  split
  · exact .refl s
  · exact .ite ((joinSuite_bounds g s).trans (endEvent_bounds _))
      (.ite ((splitSuite_bounds g s).trans (endEvent_bounds _)) (.refl s))

theorem motionHoldEnds_bounds (r : RoomId) (s : State) : KeepsBounds s (motionHoldEnds r s) :=
  .trans (onRoom_same r (fun x => Room.startStillness { x with motionHold := none }) s fun _ => startStillness_evidence _)
    (afterRoomEvent_bounds s r _)

theorem stillnessEnds_bounds (r : RoomId) (s : State) : KeepsBounds s (stillnessEnds r s) :=
  .trans (onRoom_bounds r (fun x => { x with head := 0, stillness := none, aboveCapacity := false }) s
    fun _ => ⟨id, fun _ => Nat.zero_le _⟩) ((raise_bounds _ r _).trans (afterRoomEvent_bounds s r _))

theorem lingerEnds_bounds (r : RoomId) (s : State) : KeepsBounds s (lingerEnds r s) :=
  .trans (onRoom_same r (fun x => { x with linger := none }) s fun _ => ⟨rfl, rfl⟩)
    ((moveRoom_bounds r _ _).trans (afterRoomEvent_bounds s r _))

theorem suiteLingerEnds_bounds (g : SuiteId) (s : State) : KeepsBounds s (suiteLingerEnds g s) :=
  .trans (b := onSuite g (fun x => { x with linger := none }) s) (.of_same (by rfl))
    ((moveSuite_bounds g _ _).trans ((recomposeMembers_bounds g _).trans (endEvent_bounds _)))

theorem recomposePart_bounds (b : Option DutyPart) (r : RoomId) (s : State) : KeepsBounds s (recomposePart b r s) :=
  .ite (.refl s) ((recompose_bounds r s).trans (endEvent_bounds _))

theorem dutyEnds_bounds (r : RoomId) (s : State) : KeepsBounds s (dutyEnds r s) :=
  .after (recomposePart_bounds _ r _) (.of_same (by rfl))

theorem travelEnds_bounds (n : NodeRef) (s : State) : KeepsBounds s (travelEnds n s) := by
  unfold travelEnds
  refine .trans (onPlan_bounds n (fun p => { p with travel := none, stalled := true, confirmed := false }) s) ?_
  split
  · exact (raise_bounds _ _ _).trans (endEvent_bounds _)
  · exact .refl _

end Sys2Proof.Machine
end

section
namespace Sys2Proof.Machine

/-! ### TU's record -/

/-- Work on TU alone that leaves the milliseconds and the clock, and puts nothing into the store. -/
theorem tu_bounds (u : Tu) (s : State) (ms : u.ms = s.tu.ms) (clock : u.clock = s.tu.clock)
    (store : u.store.length ≤ s.tu.store.length) : KeepsBounds s { s with tu := u } :=
  { KeepsBounds.refl s with
    store := store.trans
    ms := fun h => ms.trans_le h
    clock := fun h c e => h c (clock.symm.trans e) }

theorem onTime_bounds (r : RoomId) (f : RoomTime → RoomTime) (s : State) : KeepsBounds s (onTime r f s) :=
  tu_bounds _ s rfl rfl le_rfl

/-! ### Bookings, marks and the clock -/

theorem giveCursor_bounds (r : RoomId) (found : Option (Booking × Nat)) (s : State) : KeepsBounds s (giveCursor r found s) :=
  (onTime_bounds r _ s).trans (phaseReport_bounds r _ _ _)

theorem clearReleases_bounds (p : Occurrence → Bool) (s : State) : KeepsBounds s (clearReleases p s) :=
  tu_bounds _ s rfl rfl le_rfl

theorem removeBookings_bounds (p : Booking → Bool) (s : State) : KeepsBounds s (removeBookings p s) :=
  .trans (tu_bounds { s.tu with store := s.tu.store.filter fun b => !p b } s rfl rfl (List.length_filter_le _ _))
    (clearReleases_bounds _ _)

theorem passOccurrence_bounds (early : Bool) (r : RoomId) (s : State) : KeepsBounds s (passOccurrence early r s) := by
  unfold passOccurrence
  split
  · exact .refl s
  · split
    · exact .refl s
    · exact .trans (.ite (onTime_bounds r _ s) (.refl s)) (.trans (.ite (removeBookings_bounds _ _) (.refl _))
        (giveCursor_bounds r _ _))

theorem reselect_bounds (changed : Option Nat) (r : RoomId) (s : State) : KeepsBounds s (reselect changed r s) := by
  unfold reselect
  refine .ite (.refl s) ?_
  split
  · exact .refl s
  · exact .ite (.refl s) (giveCursor_bounds r _ s)
  · exact giveCursor_bounds r _ s

theorem takeMark_bounds (r : RoomId) (o : Occurrence) (k : MarkName) (s : State) :
    KeepsBounds s (takeMark r o k s).1 := by
  cases k with
  | prep => exact phaseReport_bounds r _ _ s
  | start => exact phaseReport_bounds r _ _ s
  | confirm =>
    unfold takeMark
    dsimp only
    split
    · exact .refl s
    · exact (raise_bounds _ r s).trans (passOccurrence_bounds true r _)
  | finish =>
    unfold takeMark
    dsimp only
    split
    · exact passOccurrence_bounds false r s
    · exact phaseReport_bounds r _ _ s
  | release => exact passOccurrence_bounds false r s

theorem takeMarks_bounds (r : RoomId) (minute week : Nat) (ks : List MarkName) (s : State) :
    KeepsBounds s (takeMarks r minute week ks s) := by
  induction ks generalizing s with
  | nil => exact .refl s
  | cons k ks ih =>
    unfold takeMarks
    split
    · exact .refl s
    · rename_i c _
      have taken := (onTime_bounds r (fun t => { t with cursor := some { c with marks := c.marks.spend k } }) s).trans
        ((takeMark_bounds r c.occ k _).trans (endEvent_bounds _))
      exact .ite (.ite taken (taken.trans (ih _))) (ih s)

theorem selectIfNone_bounds (r : RoomId) (s : State) : KeepsBounds s (selectIfNone r s) := by
  unfold selectIfNone
  split
  · exact (giveCursor_bounds r _ s).trans (endEvent_bounds _)
  · exact .refl s

theorem weekBoundary_bounds (ended : Nat) (s : State) : KeepsBounds s (weekBoundary ended s) :=
  (removeBookings_bounds _ s).trans ((clearReleases_bounds _ _).trans (.forEachFree selectIfNone_bounds _ _))

theorem weekAfter_range {w : Nat} (low : 1 ≤ w) (high : w ≤ 52) : 1 ≤ weekAfter w ∧ weekAfter w ≤ 52 := by
  unfold weekAfter; split_ifs <;> omega

theorem Clock.Valid.nextMinute {c : Clock} (h : c.Valid) : c.nextMinute.Valid := by
  obtain ⟨low, high, minute, second⟩ := h
  unfold Clock.nextMinute
  split_ifs with last
  · obtain ⟨low', high'⟩ := weekAfter_range low high
    exact ⟨low', high', Nat.zero_le _, Nat.zero_le _⟩
  · exact ⟨low, high, by dsimp only; omega, Nat.zero_le _⟩

/-- A clock of the range replaces TU's. -/
theorem newClock_bounds (c : Clock) (s : State) (h : (∀ d, s.tu.clock = some d → d.Valid) → c.Valid) :
    KeepsBounds s { s with tu := { s.tu with clock := some c } } :=
  { KeepsBounds.refl s with clock := fun k _ e => Option.some.inj e ▸ h k }

theorem minutePasses_bounds (c : Clock) (s : State) (h : s.tu.clock = some c) : KeepsBounds s (minutePasses c s) := by
  unfold minutePasses
  exact .trans (newClock_bounds c.nextMinute s fun k => (k c h).nextMinute)
    (.trans (.ite (weekBoundary_bounds _ _) (.refl _)) (.forEachFree (fun r => takeMarks_bounds r _ _ allMarks) _ _))

theorem secondPasses_bounds (c : Clock) (s : State) (h : s.tu.clock = some c) (early : c.second < 59) :
    KeepsBounds s (secondPasses c s) :=
  newClock_bounds _ s fun k => ⟨(k c h).1, (k c h).2.1, (k c h).2.2.1, early⟩

theorem setClock_bounds (c : Clock) (s : State) (h : c.Valid) : KeepsBounds s (setClock c s) := by
  have replaced : KeepsBounds s (replaceClock c s) :=
    { KeepsBounds.refl s with ms := fun _ => Nat.zero_le _, clock := fun _ _ e => Option.some.inj e ▸ h }
  exact replaced.trans ((removeBookings_bounds _ _).trans ((clearReleases_bounds _ _).trans
    ((KeepsBounds.forEachFree (fun r t => giveCursor_bounds r _ t) _ _).trans
      ((writeWing_bounds _ _).trans (endEvent_bounds _)))))

theorem clockEvent_bounds {p : Nat → Bool} {f : Clock → State → State} (s : State)
    (h : ∀ c t, t.tu.clock = some c → p c.second = true → KeepsBounds t (f c t)) : KeepsBounds s (clockEvent p f s) := by
  unfold clockEvent
  refine .ite (tu_bounds _ s (by rfl) (by rfl) (by rfl)) ?_
  split
  · rename_i c e
    split
    · rename_i admitted
      have zeroed : KeepsBounds s { s with tu := { s.tu with ms := 0 } } :=
        { KeepsBounds.refl s with ms := fun _ => Nat.zero_le _ }
      exact zeroed.trans (h c _ e admitted)
    · exact .refl s
  · exact .refl s

/-! ### Protection -/

theorem protectionChange_bounds (old : Pu) (r : RoomId) (s : State) : KeepsBounds s (protectionChange old r s) := by
  unfold protectionChange
  refine .ite (.refl s) (.ite (.refl s) ?_)
  exact .trans (.of_only (removeFamily_only _ r s)) ((clearOverrides_bounds _ r _).trans ((recompose_bounds r _).trans
    (.trans (.ite (raise_bounds _ r _) (.refl _)) (.trans (.ite (raise_bounds _ r _) (.refl _)) (endEvent_bounds _)))))

theorem sourceMoves_bounds (i : SourceId) (f : Source → Source) (k : WingKind) (s : State) :
    KeepsBounds s (sourceMoves i f k s) :=
  .trans (b := onSource i f s) (.of_same rfl) ((writeWing_bounds k _).trans (.forEach (protectionChange_bounds _) _ _))

theorem testAssertion_bounds (i : SourceId) (s : State) : KeepsBounds s (testAssertion i s) := by
  unfold testAssertion
  dsimp only
  split
  · exact sourceMoves_bounds i _ _ s
  · split
    · exact .of_same (by rfl)
    · exact .ite (sourceMoves_bounds i _ _ s) (.of_same (by rfl))
  · exact .of_same (by rfl)
  · exact .of_same (by rfl)
  · exact .refl s

theorem claimFault_bounds (i : SourceId) (sets : Bool) (s : State) : KeepsBounds s (claimFault i sets s) :=
  .ite (.refl s) (.after (testAssertion_bounds i _) (.of_same (by rfl)))

theorem pinChanges_bounds (p : PinId) (low : Bool) (s : State) : KeepsBounds s (pinChanges p low s) :=
  .ite (.refl s) (.after (.forEachFree testAssertion_bounds _ _) (.of_same (by rfl)))

/-! ### The classifier -/

theorem deliver_bounds (rep : LineReport) (home : Option RoomId) (x : Rule) (s : State) :
    KeepsBounds s (deliver rep home x s) := by
  unfold deliver
  split
  · split
    · exact roomAction_bounds _ _ _ _ s
    · exact .refl s
  · exact partitionAction_bounds _ _ s
  · exact claimFault_bounds _ _ s
  · exact .refl s

theorem noteStranger_bounds (n : NodeRef) (s : State) : KeepsBounds s (noteStranger n s) := by
  unfold noteStranger
  split_ifs
  · exact .refl s
  · exact .after (.of_same (by rfl)) (writeWing_bounds _ s)
  · exact writeWing_bounds _ s

theorem classify_bounds (rep : LineReport) (s : State) : KeepsBounds s (classify rep s) := by
  have stranger : KeepsBounds s
      (if ((s.entry rep.ref).map NodeEntry.room).isNone then noteStranger rep.ref s else s) :=
    .ite (noteStranger_bounds _ s) (.refl s)
  unfold classify
  exact stranger.trans (.trans (.forEach (deliver_bounds rep _) _ _) (.ite (offerTx_bounds _ _) (.refl _)))

/-! ### Node health and the lines' events -/

theorem examine_bounds (link : Option RoomId) (n : NodeRef) (s : State) : KeepsBounds s (examine link n s) :=
  .of_only (examine_only link n s)

theorem countLine_bounds (l : LineId) (f : LineCounts → LineCounts) (s : State) : KeepsBounds s (countLine l f s) :=
  onLine_bounds l _ s (by exact id)

theorem goOffline_bounds (n : NodeRef) (s : State) : KeepsBounds s (goOffline n s) := by
  unfold goOffline
  split
  · exact (setHealth_bounds n _ _ s).trans (.trans (.of_only (flushNode_only n _))
      ((onPlan_bounds n _ _).trans (raise_bounds _ _ _)))
  · exact .refl s

theorem hearNode_bounds (n : NodeRef) (s : State) : KeepsBounds s (hearNode n s) := by
  unfold hearNode
  split
  · exact .ite (setHealth_bounds n _ _ s) ((setHealth_bounds n _ _ s).trans (examine_bounds _ n _))
  · exact .refl s

theorem lineGoesDown_bounds (l : LineId) (s : State) : KeepsBounds s (lineGoesDown l s) := by
  unfold lineGoesDown
  exact .trans (onLine_bounds l _ s (by exact id)) (.trans (.of_only (removeItems_only l _ _ _))
    (.trans (.forEach (fun n t => .ite (.refl t) (goOffline_bounds n t)) _ _)
      ((countLine_bounds l _ _).trans (writeWing_bounds _ _))))

theorem lineComesUp_bounds (l : LineId) (sender : NodeAddr) (s : State) : KeepsBounds s (lineComesUp l sender s) := by
  unfold lineComesUp
  exact .trans (onLine_bounds l _ s (by exact id)) ((setHealth_bounds _ _ _ _).trans
    (.trans (.forEach (fun n t => setHealth_bounds n _ _ t) _ _) ((writeWing_bounds _ _).trans
      ((examine_bounds none _ _).trans (.forEach (examine_bounds none) _ _)))))

theorem validFrame_bounds (l : LineId) (sender : NodeAddr) (s : State) : KeepsBounds s (validFrame l sender s) := by
  unfold validFrame
  exact .trans (onLine_bounds l _ s (by exact id)) (.ite (lineComesUp_bounds l sender _) (.refl _))

theorem heardFrom_bounds (n : NodeRef) (s : State) : KeepsBounds s (heardFrom n s) :=
  (validFrame_bounds _ _ s).trans (hearNode_bounds n _)

theorem takeReport_bounds (n : NodeRef) (code : ReportCode) (value : Half) (s : State) :
    KeepsBounds s (takeReport n code value s) :=
  (heardFrom_bounds n s).trans ((classify_bounds _ _).trans (endEvent_bounds _))

theorem judgeArrival_bounds (n : NodeRef) (room : RoomId) (p : Plan) (position : Nat) (s : State) :
    KeepsBounds s (judgeArrival n room p position s) :=
  .ite (.ite (onPlan_bounds n _ s) ((onPlan_bounds n _ s).trans (raise_bounds _ room _)))
    ((onPlan_bounds n _ s).trans (examine_bounds none n _))

theorem takeArrived_bounds (n : NodeRef) (position : Byte) (s : State) : KeepsBounds s (takeArrived n position s) := by
  refine (heardFrom_bounds n s).trans ?_
  unfold takeArrived
  dsimp only
  split
  · exact (judgeArrival_bounds n _ _ _ _).trans (endEvent_bounds _)
  · exact endEvent_bounds _

theorem compareStatus_bounds (n : NodeRef) (e : NodeEntry) (p : Plan) (status : Half) (s : State) :
    KeepsBounds s (compareStatus n e p status s) :=
  .ite (onPlan_bounds n _ s) (.ite (onPlan_bounds n _ s) ((onPlan_bounds n _ s).trans (raise_bounds _ _ _)))

theorem deliverPlan_bounds (n : NodeRef) (it : Item) (status current : Half) (s : State) :
    KeepsBounds s (deliverPlan n it status current s) := by
  unfold deliverPlan
  split
  · exact (compareStatus_bounds n _ _ status s).trans ((onPlan_bounds n _ _).trans (examine_bounds none n _))
  · exact .refl s

theorem mirrorEcho_bounds (n : NodeRef) (it : Item) (status current : Half) (s : State) :
    KeepsBounds s (mirrorEcho n it status current s) := by
  unfold mirrorEcho
  split
  · exact offerTx_bounds _ s
  · exact .refl s

theorem deliverItem_bounds (n : NodeRef) (it : Item) (status current : Half) (s : State) :
    KeepsBounds s (deliverItem n it status current s) :=
  (countLine_bounds n.line _ s).trans ((onLine_bounds n.line _ _ (by exact id)).trans ((setHealth_bounds n _ _ _).trans
    ((deliverPlan_bounds n it status current _).trans (mirrorEcho_bounds n it status current _))))

theorem lateEcho_bounds (n : NodeRef) (s : State) : KeepsBounds s (lateEcho n s) :=
  (countLine_bounds n.line _ s).trans (hearNode_bounds n _)

theorem takeEcho_bounds (n : NodeRef) (status current : Half) (s : State) : KeepsBounds s (takeEcho n status current s) := by
  refine (validFrame_bounds n.line n.addr s).trans ?_
  unfold takeEcho
  dsimp only
  split
  · exact .ite ((deliverItem_bounds n _ status current _).trans (endEvent_bounds _))
      ((lateEcho_bounds n _).trans (endEvent_bounds _))
  · exact (lateEcho_bounds n _).trans (endEvent_bounds _)

theorem Line.without_queued (x : Line) (it : Item) : (x.without it).queued.length ≤ x.queued.length := by
  unfold Line.without
  split
  · rename_i rest e; simp [Line.queued, e]
  · simpa [Line.queued] using List.length_erase_le

theorem takeItem_bounds (l : LineId) (it : Item) (s : State) : KeepsBounds s (takeItem l it s) :=
  .trans (onLine_bounds l _ s (Line.without_queued _ it).trans)
    (.trans (.of_only (tellFreed_only l _)) (endEvent_bounds _))

theorem missNode_bounds (n : NodeRef) (s : State) : KeepsBounds s (missNode n s) := by
  unfold missNode
  split
  · split
    · exact setHealth_bounds n _ _ s
    · exact .ite (goOffline_bounds n s) (setHealth_bounds n _ _ s)
    · exact .refl s
  · exact .refl s

theorem echoTimerEnds_bounds (l : LineId) (s : State) : KeepsBounds s (echoTimerEnds l s) := by
  unfold echoTimerEnds
  split
  · exact (countLine_bounds l _ s).trans ((onLine_bounds l _ _ (by exact id)).trans ((onLine_bounds l _ _ (by exact id)).trans ((missNode_bounds _ _).trans
      ((onPlan_bounds _ _ _).trans ((examine_bounds none _ _).trans
        (.trans (.ite (lineGoesDown_bounds l _) (.refl _)) (endEvent_bounds _)))))))
  · exact .refl s

end Sys2Proof.Machine
end

section
namespace Sys2Proof.Machine

/-! ### Judging a request: what an accepting handler has passed (R187) -/

theorem bind_eq_ok_iff {α β : Type} {x : Except ResultCode α} {f : α → Except ResultCode β} {b : β} :
    (x >>= f) = .ok b ↔ ∃ a, x = .ok a ∧ f a = .ok b := by
  cases x <;> simp [bind, Except.bind]

theorem pure_eq_ok_iff {α : Type} {a b : α} : (pure a : Except ResultCode α) = .ok b ↔ a = b := by
  simp [pure, Except.pure]

theorem refuseWhen_eq_ok_iff {bad : Bool} {r : ResultCode} {u : Unit} : refuseWhen bad r = .ok u ↔ bad = false := by
  cases bad <;> simp [refuseWhen]

/-- Every state an owner answers with keeps the bounds of the state it was given. -/
def HandlerKeepsBounds (h : Handler) : Prop :=
  ∀ ps s t data, h ps s = .ok (t, data) → KeepsBounds s t

/-- An owner whose answer is its parameters, tests that may refuse, and then a piece of work. -/
theorem HandlerKeepsBounds.of_parsed {α : Type} {parse : List Byte → Except ResultCode α}
    {answer : α → State → Except ResultCode (State × List Byte)}
    (h : ∀ x s t data, answer x s = .ok (t, data) → KeepsBounds s t) :
    HandlerKeepsBounds fun ps s => parse ps >>= fun x => answer x s := by
  intro ps s t data e
  obtain ⟨x, _, k⟩ := bind_eq_ok_iff.mp e
  exact h x s t data k

/-- An answer given without a test. -/
theorem pure_bounds {s u t : State} {d data : List Byte} (h : KeepsBounds s u)
    (e : (pure (u, d) : Except ResultCode _) = .ok (t, data)) : KeepsBounds s t := by
  obtain ⟨rfl, -⟩ := Prod.mk.inj (pure_eq_ok_iff.mp e)
  exact h

/-- A test that may refuse comes first. -/
theorem refuse_bounds {bad : Bool} {r : ResultCode} {answer : Except ResultCode (State × List Byte)} {s t : State}
    {data : List Byte} (h : bad = false → answer = .ok (t, data) → KeepsBounds s t)
    (e : (refuseWhen bad r >>= fun _ => answer) = .ok (t, data)) : KeepsBounds s t := by
  obtain ⟨_, passed, k⟩ := bind_eq_ok_iff.mp e
  exact h (refuseWhen_eq_ok_iff.mp passed) k

/-! ### The owners' work -/

theorem readTrunkCounters_bounds : HandlerKeepsBounds readTrunkCounters :=
  .of_parsed fun _ s _ _ => pure_bounds (.refl s)

theorem resetPart_bounds : HandlerKeepsBounds resetPart := .of_parsed fun _ _ _ _ => pure_bounds (.of_same (by rfl))

theorem loadNodeWork_bounds (x : NodeLoad) (s : State) : KeepsBounds s (loadNodeWork x s) := by
  unfold loadNodeWork
  exact .trans (.ite (.of_only (flushNode_only x.ref s)) (.refl s)) (.trans (setEntry_bounds x.ref _ _)
    (.trans (.of_same (by rfl)) (.trans (.of_only (settle_only _)) (.trans (.of_only (composeNode_only x.ref _))
      ((examine_bounds none x.ref _).trans (endEvent_bounds _))))))

theorem loadNode_bounds : HandlerKeepsBounds loadNode :=
  .of_parsed fun x s _ _ => refuse_bounds fun _ => pure_bounds (loadNodeWork_bounds x s)

theorem dropNode_bounds : HandlerKeepsBounds dropNode :=
  .of_parsed fun n s _ _ => refuse_bounds fun _ => refuse_bounds fun _ => pure_bounds <|
    .trans (.of_only (flushNode_only n s)) (.trans (.of_same (by rfl)) ((setEntry_bounds n none _).trans (endEvent_bounds _)))

theorem lineControl_bounds {work : LineId → Byte → State → State} (h : ∀ l b s, KeepsBounds s (work l b s)) :
    HandlerKeepsBounds (lineControl work) :=
  .of_parsed fun x s _ _ => pure_bounds (h x.1 x.2.2 s)

theorem dropInFlight_bounds (l : LineId) (s : State) : KeepsBounds s (dropInFlight l s) :=
  .ite (onLine_bounds l _ s (by exact id)) (.refl s)

theorem cleanLine_bounds (l : LineId) (s : State) : KeepsBounds s (cleanLine l s) := by
  unfold cleanLine
  exact .trans (onLine_bounds l _ s (by exact id)) (.trans
    (.forEach (fun n t => (setHealth_bounds n _ _ t).trans (onPlan_bounds n _ _)) _ _) (countLine_bounds l _ _))

theorem restartLine_bounds (l : LineId) (s : State) : KeepsBounds s (restartLine l s) := by
  unfold restartLine
  exact .trans (.trans (.of_only (removeItems_only l _ _ s)) (dropInFlight_bounds l _)) ((cleanLine_bounds l _).trans
    (.trans (.forEach (examine_bounds none) _ _) (endEvent_bounds _)))

theorem readLineCounters_bounds : HandlerKeepsBounds readLineCounters :=
  .of_parsed fun _ s _ _ => pure_bounds (.refl s)

theorem loadRule_bounds : HandlerKeepsBounds loadRule := .of_parsed fun _ _ _ _ => pure_bounds (.of_same (by rfl))

theorem dropRule_bounds : HandlerKeepsBounds dropRule :=
  .of_parsed fun _ _ _ _ => refuse_bounds fun _ => pure_bounds (.of_same (by rfl))

/-- A new room record without windows and heads. -/
theorem newRoom_fits {x : Room} (windows : x.windows = []) (head : x.head = 0) : RoomFits fun _ => x :=
  fun _ => ⟨fun _ => by simp [windows], fun _ => by simp [head]⟩

theorem roomIntoService_bounds (x : RoomLoad) (s : State) : KeepsBounds s (roomIntoService x s) := by
  have noticed : KeepsBounds s (writeNotice x (onRoom x.room (fun _ => { Room.off with cfg := x.cfg }) s)) :=
    .trans (onRoom_bounds x.room _ s (newRoom_fits rfl rfl)) (.of_same (by rfl))
  unfold roomIntoService
  exact noticed.trans (.trans (.of_same (by rfl)) ((onTime_bounds x.room _ _).trans ((storePhase_bounds x.room _ _ _).trans
    ((setRoomState_bounds x.room _ _).trans ((dutyEdge_bounds false x.room _).trans
      ((recompose_bounds x.room _).trans (endEvent_bounds _)))))))

theorem recomposeFrom_bounds (r : RoomId) (s : State) : KeepsBounds s (recomposeFrom r s) := by
  unfold recomposeFrom
  split
  · exact recomposeMembers_bounds _ s
  · exact recompose_bounds r s

theorem reloadRoom_bounds (x : RoomLoad) (s : State) : KeepsBounds s (reloadRoom x s) :=
  .trans (onRoom_same x.room (fun y => { y with cfg := x.cfg }) s fun _ => ⟨rfl, rfl⟩) (.after
    ((overcrowdTest_bounds x.room _).trans ((recomposeFrom_bounds x.room _).trans (endEvent_bounds _))) (.of_same (by rfl)))

theorem loadRoom_bounds : HandlerKeepsBounds loadRoom :=
  .of_parsed fun x s _ _ => pure_bounds (.ite (roomIntoService_bounds x s) (reloadRoom_bounds x s))

theorem renewPlans_bounds (r : RoomId) (s : State) : KeepsBounds s (renewPlans r s) := by
  refine .forEach (fun n t => ?_) _ s
  split
  · exact .of_same (by rfl)
  · exact .refl t

/-- AP and NU forget a room (R89, R126, R173). -/
theorem forgetRoom_bounds (r : RoomId) (s : State) :
    KeepsBounds s (unlist r (onNotice r (fun _ => RoomNotice.empty) (onAir r (fun _ => RoomAir.initial) s))) := .of_same (by rfl)

theorem disableRoomWork_bounds (r : RoomId) (s : State) : KeepsBounds s (disableRoomWork r s) := by
  have off : KeepsBounds s (onRoom r (fun _ => Room.off) s) :=
    onRoom_bounds r _ s (newRoom_fits rfl rfl)
  unfold disableRoomWork
  exact off.trans ((onTime_bounds r _ _).trans (.trans (.forEach (fun n t => .of_only (flushNode_only n t)) _ _)
    ((renewPlans_bounds r _).trans ((forgetRoom_bounds r _).trans (endEvent_bounds _)))))

theorem disableRoom_bounds : HandlerKeepsBounds disableRoom :=
  .of_parsed fun r s _ _ => refuse_bounds fun _ => pure_bounds (disableRoomWork_bounds r s)

theorem saveRoom_bounds : HandlerKeepsBounds saveRoom :=
  .of_parsed fun _ s _ _ => refuse_bounds fun _ => pure_bounds (.refl s)

/-- A context that passes the checks holds a head estimate within its range (R192). -/
theorem contextOk_head {s : State} {r : RoomId} {c : Context} (h : s.contextOk r c = true) : c.head ≤ 999 := by
  simp only [State.contextOk, Context.evidenceOk, Bool.and_eq_true, decide_eq_true_eq] at h
  omega

theorem restoreRoomWork_bounds (r : RoomId) (c : Context) (s : State) (h : c.head ≤ 999) :
    KeepsBounds s (restoreRoomWork r c s) := by
  have restored : KeepsBounds s (onRoom r (Room.restored c (s.contextBooking r c)) s) :=
    onRoom_bounds r _ s fun x =>
      have ⟨windows, head⟩ := startStillness_evidence _
      ⟨(congrArg List.length windows).trans_le, fun _ => head.trans_le h⟩
  unfold restoreRoomWork
  exact restored.trans (.trans (.of_same (by rfl)) ((onTime_bounds r _ _).trans ((dutyEdge_bounds _ r _).trans
    ((clearOverrides_bounds _ r _).trans (.trans (.of_only (setOverrides_only c.overrides _))
      ((recompose_bounds r _).trans (endEvent_bounds _)))))))

theorem restoreRoom_bounds : HandlerKeepsBounds restoreRoom :=
  .of_parsed fun x s _ _ => refuse_bounds fun _ => refuse_bounds fun checked =>
    pure_bounds (restoreRoomWork_bounds x.1 x.2 s (contextOk_head (by simpa using checked)))

theorem setMembership_bounds (rooms : List RoomId) (g : Option SuiteId) (s : State) :
    KeepsBounds s (setMembership rooms g s) :=
  .forEach (fun r t => onRoom_same r _ t (by simp)) rooms s

theorem loadSuite_bounds : HandlerKeepsBounds loadSuite :=
  .of_parsed fun x s _ _ => refuse_bounds fun _ => pure_bounds <|
    (setMembership_bounds (s.members x.1) none s).trans (.after (.of_same (by rfl)) (setMembership_bounds _ _ _))

theorem dropSuiteWork_bounds (g : SuiteId) (s : State) : KeepsBounds s (dropSuiteWork g s) := by
  unfold dropSuiteWork
  exact .trans (.ite (splitSuite_bounds g s) (.refl s)) ((removeBookings_bounds _ _).trans
    ((setMembership_bounds _ none _).trans (.trans (.of_same (by rfl))
      (.trans (.forEachFree (reselect_bounds none) _ _) (endEvent_bounds _)))))

theorem dropSuite_bounds : HandlerKeepsBounds dropSuite :=
  .of_parsed fun g s _ _ => refuse_bounds fun _ => pure_bounds (dropSuiteWork_bounds g s)

/-- The clock SET CLOCK accepts is within its range (R93). -/
theorem clockOf_valid {ps : List Byte} {c : Clock} (h : clockOf ps = .ok c) : c.Valid := by
  unfold clockOf at h
  split at h
  · split at h
    · rename_i range
      cases h
      exact range
    · cases h
  · cases h

theorem setClockRequest_bounds : HandlerKeepsBounds setClockRequest := by
  intro ps s t data e
  obtain ⟨c, parsed, k⟩ := bind_eq_ok_iff.mp e
  exact pure_bounds (setClock_bounds c s (clockOf_valid parsed)) k

theorem readClock_bounds : HandlerKeepsBounds readClock := .of_parsed fun _ s _ _ => pure_bounds (.refl s)

theorem insertBooking_length (b : Booking) (store : List Booking) :
    (insertBooking b store).length = store.length + 1 := by
  induction store with
  | nil => rfl
  | cons c cs ih =>
    unfold insertBooking
    split <;> simp [ih]

/-- The store has a place for a booking whose id it holds already, and for any other while it is not full (R98, R99). -/
theorem loadedStore_length (b : Booking) (s : State) (place : s.noPlace b = false) (h : s.tu.store.length ≤ 512) :
    (insertBooking b (s.tu.store.filter fun c => !(c.id == b.id))).length ≤ 512 := by
  rw [insertBooking_length]
  by_cases known : s.tu.store.any (fun c => c.id == b.id) = true
  · exact (filter_drop_one known).trans h
  · have absent : s.findBooking b.id = none := by
      simpa [State.findBooking, List.find?_eq_none] using known
    have free : s.tu.store.length < 512 := by simpa [State.noPlace, absent] using place
    have := List.length_filter_le (fun c : Booking => !(c.id == b.id)) s.tu.store
    omega

theorem loadBookingWork_bounds (b : Booking) (s : State) (place : s.noPlace b = false) :
    KeepsBounds s (loadBookingWork b s) := by
  have removed := removeBookings_bounds (fun c => c.id == b.id) s
  have inserted : KeepsBounds s { removeBookings (fun c => c.id == b.id) s with
      tu := { (removeBookings (fun c => c.id == b.id) s).tu with
        store := insertBooking b (removeBookings (fun c => c.id == b.id) s).tu.store } } :=
    { removed with store := loadedStore_length b s place }
  unfold loadBookingWork
  exact inserted.trans (.trans (.forEachFree (reselect_bounds _) _ _) (endEvent_bounds _))

theorem loadBooking_bounds : HandlerKeepsBounds loadBooking :=
  .of_parsed fun b s _ _ => refuse_bounds fun _ => refuse_bounds fun _ => refuse_bounds fun place =>
    pure_bounds (loadBookingWork_bounds b s place)

theorem cancelBooking_bounds : HandlerKeepsBounds cancelBooking := by
  refine .of_parsed fun id s t data e => ?_
  split at e
  · cases e
  · exact pure_bounds ((removeBookings_bounds _ s).trans
      (.trans (.forEachFree (reselect_bounds none) _ _) (endEvent_bounds _))) e

theorem listBookings_bounds : HandlerKeepsBounds listBookings := .of_parsed fun _ s _ _ => pure_bounds (.refl s)

theorem roomRelease_bounds : HandlerKeepsBounds roomRelease :=
  .of_parsed fun r s _ _ => refuse_bounds fun _ =>
    pure_bounds ((passOccurrence_bounds true r s).trans (endEvent_bounds _))

theorem recomposeAll_bounds (s : State) : KeepsBounds s (recomposeAll s) := .forEachFree recompose_bounds _ s

theorem loadScene_bounds : HandlerKeepsBounds loadScene :=
  .of_parsed fun _ _ _ _ => pure_bounds (.trans (.of_same (by rfl)) ((recomposeAll_bounds _).trans (endEvent_bounds _)))

theorem loadWing_bounds : HandlerKeepsBounds loadWing :=
  .of_parsed fun x s _ _ => pure_bounds <| .trans
    (b := { s with ap := { s.ap with rounding := x.1, mirrorUnclassified := x.2 } }) (.of_same (by rfl))
      (.ite (.refl _) ((recomposeAll_bounds _).trans (endEvent_bounds _)))

theorem setAirDutyWork_bounds (r : RoomId) (d : Duty) (s : State) : KeepsBounds s (setAirDutyWork r d s) :=
  .trans (b := onAir r (fun a => { a with waiting := some d }) s) (.of_same (by rfl))
    (.ite (.after (recomposePart_bounds _ r _) (.of_same (by rfl))) (.refl _))

theorem setAirDuty_bounds : HandlerKeepsBounds setAirDuty :=
  .of_parsed fun x s _ _ => refuse_bounds fun _ => pure_bounds (setAirDutyWork_bounds x.1 x.2 s)

theorem roomSceneWork_bounds (r : RoomId) (n : Option SceneNum) (s : State) : KeepsBounds s (roomSceneWork r n s) := by
  cases n with
  | some n => exact (setOverrideScene_bounds n r s).trans (endEvent_bounds _)
  | none =>
    exact .trans (onRoom_same r (fun x => { x with overrideScene := none }) s fun _ => ⟨rfl, rfl⟩)
      ((recompose_bounds r _).trans (endEvent_bounds _))

theorem roomScene_bounds : HandlerKeepsBounds roomScene :=
  .of_parsed fun x s _ _ => refuse_bounds fun _ => refuse_bounds fun _ => pure_bounds (roomSceneWork_bounds x.1 x.2 s)

theorem cancelTravel_bounds : HandlerKeepsBounds cancelTravel := by
  refine .of_parsed fun n s t data e => ?_
  split at e
  · cases e
  · exact refuse_bounds (fun _ => refuse_bounds fun _ => pure_bounds <|
      (onPlan_bounds n _ s).trans (.trans (.of_only (offer_only _ _ _)) (endEvent_bounds _))) e

theorem loadFault_bounds : HandlerKeepsBounds loadFault :=
  .of_parsed fun x _ _ _ => refuse_bounds fun _ => pure_bounds (.after (testAssertion_bounds x.1 _) (.of_same (by rfl)))

theorem raiseFault_bounds : HandlerKeepsBounds raiseFault :=
  .of_parsed fun i s _ _ => pure_bounds (.ite (.refl s) (.after (testAssertion_bounds i _) (.of_same (by rfl))))

theorem dropFault_bounds : HandlerKeepsBounds dropFault :=
  .of_parsed fun i s _ _ => pure_bounds (.ite (.after (testAssertion_bounds i _) (.of_same (by rfl))) (.refl s))

theorem clearFault_bounds : HandlerKeepsBounds clearFault :=
  .of_parsed fun i s _ _ => refuse_bounds fun _ => pure_bounds (sourceMoves_bounds i _ _ s)

theorem collectStatus_bounds : HandlerKeepsBounds collectStatus :=
  .of_parsed fun _ s _ _ => refuse_bounds fun _ => pure_bounds (.ite (.of_same (by rfl)) (.refl s))

theorem sampleStatus_bounds : HandlerKeepsBounds sampleStatus := .of_parsed fun _ s _ _ => pure_bounds (.refl s)

theorem nextPending_bounds : HandlerKeepsBounds nextPending := by
  refine .of_parsed fun _ s t data e => ?_
  split at e
  · exact pure_bounds (.of_same (by rfl)) e
  · exact pure_bounds (.refl s) e

theorem setNoticeMask_bounds : HandlerKeepsBounds setNoticeMask :=
  .of_parsed fun _ s _ _ => pure_bounds (.after (.of_same (by rfl)) (.forEach (fun r t => offerTx_bounds _ t) _ s))

theorem forgetStranger_bounds (k : WingKind) (s : State) : KeepsBounds s (forgetStranger k s) := by
  unfold forgetStranger
  split
  · exact .of_same (by rfl)
  · exact .refl s

theorem readWingReport_bounds : HandlerKeepsBounds readWingReport := by
  refine .of_parsed fun _ s t data e => ?_
  split at e
  · exact pure_bounds (.refl s) e
  · rename_i w rest wing
    have taken : KeepsBounds s { s with nu := { s.nu with wing := rest } } :=
      { KeepsBounds.refl s with wing := fun h => by rw [wing, List.length_cons] at h; exact Nat.le_of_succ_le h }
    exact pure_bounds (taken.trans (forgetStranger_bounds _ _)) e

end Sys2Proof.Machine
end

section
namespace Sys2Proof.Machine

/-! ### Commands -/

/-- Whatever a command answers, a state within its bounds answers a state within its bounds. -/
def AnswersWithin (s : State) (a : Answer) : Prop :=
  ∀ t, a = .next t → s.Fits → s.InRange → t.Fits ∧ t.InRange

theorem KeepsBounds.answers {s t : State} (k : KeepsBounds s t) : AnswersWithin s (.next t) := by
  rintro _ ⟨⟩ h r
  exact k.within h r

theorem whenReady_within {f : State → State} {s : State} (k : KeepsBounds s (f s)) : AnswersWithin s (whenReady f s) :=
  (KeepsBounds.ite k (.refl s)).answers

theorem heard_within {f : State → State} {s : State} (k : KeepsBounds s (f s)) : AnswersWithin s (heard f s) :=
  (KeepsBounds.ite k (.refl s)).answers

theorem ifExpired_bounds (t : Timer) {f : State → State} {s : State} (k : KeepsBounds s (f s)) :
    KeepsBounds s (ifExpired t f s) := .ite k (.refl s)

/-- TI takes a frame while the transmit queue has a place for its REPLY (R4). -/
theorem nextFrame_place {s : State} {f : RxFrame} (h : s.nextFrame = some f) : s.ti.tx.length ≤ 15 := by
  unfold State.nextFrame at h
  split at h
  · rename_i takes
    exact takes.2.2
  · cases h

theorem dropFrame_bounds (s : State) : KeepsBounds s (dropFrame s) :=
  { KeepsBounds.refl s with rx := fun h => by simp only [dropFrame, List.length_tail]; omega }

/-- A REPLY or REJECT joins a queue that has a place. -/
theorem pushTx_within {f : TxFrame} {s : State} (place : s.ti.tx.length ≤ 15) (h : s.Fits) (r : s.InRange) :
    (pushTx f s).Fits ∧ (pushTx f s).InRange :=
  ⟨{ h with tx := by simp only [pushTx, List.length_append, List.length_singleton]; omega }, ⟨r.head, r.ms, r.clock⟩⟩

/-- The REPLY or REJECT of the frame TI takes joins the queue after the frame's work. -/
theorem answerFrame_within {f : RxFrame} {x : TxFrame} {s u : State} (taken : s.nextFrame = some f)
    (k : KeepsBounds (dropFrame s) u) : AnswersWithin s (.next (pushTx x u)) := by
  rintro _ ⟨⟩ h r
  have whole := (dropFrame_bounds s).trans k
  obtain ⟨h', r'⟩ := whole.within h r
  exact pushTx_within (whole.tx 15 (by decide) (nextFrame_place taken)) h' r'

theorem requestWhen_within {h : Handler} (k : HandlerKeepsBounds h) (p : List Byte → Bool) (code : Nat) (s : State) :
    AnswersWithin s (requestWhen p code h s) := by
  unfold requestWhen
  split
  · rename_i tag c params taken
    split
    · cases judged : h params (dropFrame s) with
      | error r => rw [serve_refused judged]; exact answerFrame_within taken (.refl _)
      | ok answer => rw [serve_done judged]; exact answerFrame_within taken (k _ _ _ _ judged)
    · exact (KeepsBounds.refl s).answers
  · exact (KeepsBounds.refl s).answers

theorem unknownRequestCode_within (s : State) : AnswersWithin s (execUnknownRequestCode s) := by
  unfold execUnknownRequestCode
  split
  · rename_i taken
    exact answerFrame_within taken (.refl _)
  · rename_i taken
    split
    · exact (KeepsBounds.refl s).answers
    · exact answerFrame_within taken (.refl _)
  · exact (KeepsBounds.refl s).answers

theorem admitPass_bounds (tag : Byte) (c : PassCommand) (s : State) : KeepsBounds s (admitPass tag c s) := by
  unfold admitPass
  refine .trans (.of_only (offer_only c.ref.line (c.item tag) s)) (.ite ?_ (endEvent_bounds _))
  exact (onPlan_bounds c.ref _ _).trans (.trans (.of_only (composeNode_only c.ref _))
    ((examine_bounds none c.ref _).trans (endEvent_bounds _)))

theorem pass_within (s : State) : AnswersWithin s (execPass s) := by
  unfold execPass
  split
  · rename_i tag payload taken
    split
    · exact ((dropFrame_bounds s).trans (admitPass_bounds tag _ _)).answers
    · exact answerFrame_within taken (.refl _)
  · exact (KeepsBounds.refl s).answers

/-- Reception sends nothing, and the receive buffer never outgrows its 4 places (R4). -/
theorem Ti.receive_buffers (t : Ti) (f : RawFrame) :
    (t.receive f).tx = t.tx ∧ (t.rx.length ≤ 4 → (t.receive f).rx.length ≤ 4) := by
  unfold Ti.receive
  dsimp only
  split
  · exact ⟨rfl, id⟩
  split
  · exact ⟨rfl, id⟩
  split
  · split
    · exact ⟨rfl, id⟩
    split
    · exact ⟨rfl, id⟩
    split
    · exact ⟨rfl, fun _ => by simp only [List.length_append, List.length_singleton]; omega⟩
    · exact ⟨rfl, id⟩
  · exact ⟨rfl, id⟩

theorem receive_bounds (f : RawFrame) (s : State) : KeepsBounds s { s with ti := s.ti.receive f } :=
  { KeepsBounds.refl s with
    rx := (s.ti.receive_buffers f).2
    tx := fun _ _ h => by rwa [(s.ti.receive_buffers f).1] }

theorem frameSent_within (s : State) : AnswersWithin s (execFrameSent s) := by
  unfold execFrameSent
  split
  · exact (KeepsBounds.refl s).answers
  · rename_i f rest queue
    split
    · have sent : KeepsBounds s { s with ti := { s.ti with
          tx := rest, counts := { s.ti.counts with sent := s.ti.counts.sent + 1 } } } :=
        { KeepsBounds.refl s with
          tx := fun n _ h => by rw [queue, List.length_cons] at h; exact Nat.le_of_succ_le h }
      exact (sent.trans (.ite (.of_same (by rfl)) (.refl _))).answers
    · exact (KeepsBounds.refl s).answers

/-- The start table of R197 is within its bounds. -/
theorem fresh_within (power : Power) (deaf : Timer) (address : BitVec 6) (pins : Vector Bool 4) (wing : List WingReport)
    (pending : List Instr) (choices : Nat) (h : wing.length ≤ 16) :
    (State.fresh power deaf address pins wing pending choices).Fits ∧
      (State.fresh power deaf address pins wing pending choices).InRange where
  left :=
    { rx := Nat.zero_le _, tx := Nat.zero_le _, wing := h, store := Nat.zero_le _
      queue := fun l => by simp [State.line, State.fresh, Lc.initial, Line.initial, Line.queued]
      windows := fun r => by simp [State.room, State.fresh, Re.initial, Room.off] }
  right :=
    { head := fun r => by simp [State.room, State.fresh, Re.initial, Room.off]
      ms := Nat.zero_le _
      clock := fun _ h => by cases h }

/-- An event of reset or power gives the start table, or nothing comes about. -/
theorem fresh_answers {c : Prop} [Decidable c] {s u : State} (h : u.Fits ∧ u.InRange) :
    AnswersWithin s (.next (if c then u else s)) := by
  rintro _ ⟨⟩ k r
  split
  · exact h
  · exact ⟨k, r⟩

theorem powerLoss_within (s : State) : AnswersWithin s (execPowerLoss s) := by
  rintro _ ⟨⟩ k r
  split
  · exact ⟨k, r⟩
  · exact fresh_within _ _ _ _ _ _ _ (by decide)

theorem countInvalid_bounds (l : LineId) (s : State) : KeepsBounds s (countInvalid l s) := countLine_bounds l _ s

theorem itemTakenForSending_within (l : LineId) (s : State) : AnswersWithin s (execItemTakenForSending l s) := by
  refine whenReady_within (.ite ?_ (.refl s))
  split
  · exact takeItem_bounds l _ s
  · exact .refl s

theorem report_within (l : LineId) (a : NodeAddr) (code : ReportCode) (value : Half) (s : State) :
    AnswersWithin s (execReport l a code value s) := by
  refine heard_within ?_
  split
  · exact countInvalid_bounds l s
  · exact takeReport_bounds ⟨l, a⟩ code value s

theorem arrived_within (l : LineId) (a : NodeAddr) (position : Byte) (s : State) :
    AnswersWithin s (execArrived l a position s) := by
  refine heard_within ?_
  split
  · exact countInvalid_bounds l s
  · exact takeArrived_bounds ⟨l, a⟩ position s

theorem echo_within (l : LineId) (a : NodeAddr) (status current : Half) (s : State) :
    AnswersWithin s (execEcho l a status current s) := by
  refine heard_within ?_
  split
  · exact countInvalid_bounds l s
  · exact takeEcho_bounds ⟨l, a⟩ status current s

theorem invalidLineFrame_within (l : LineId) (f : RawFrame) (s : State) :
    AnswersWithin s (execInvalidLineFrame l f s) := by
  refine heard_within ?_
  split
  · exact countInvalid_bounds l s
  · exact .refl s

theorem holdOffEnds_bounds (i : SourceId) (s : State) : KeepsBounds s (holdOffEnds i s) := by
  unfold holdOffEnds endSource
  exact sourceMoves_bounds i _ _ s

theorem exec_within (c : Instr) (s : State) : AnswersWithin s (exec c s) := by
  cases c with
  | trunkFrameReceived f => exact (KeepsBounds.ite (receive_bounds f s) (.refl s)).answers
  | frameSent => exact frameSent_within s
  | unknownRequestCode => exact unknownRequestCode_within s
  | pass => exact pass_within s
  | resetPart => exact requestWhen_within resetPart_bounds _ _ s
  | resetTakesEffect => exact fresh_answers (fresh_within _ _ _ _ _ _ _ (by decide))
  | takesFramesAgain => exact (ifExpired_bounds s.deaf (.of_same (by rfl))).answers
  | powerOn => exact fresh_answers (fresh_within _ _ _ _ _ _ _ (by decide))
  | partReady => exact fresh_answers (fresh_within _ _ _ _ _ _ _ (by decide))
  | powerLoss => exact powerLoss_within s
  | readTrunkCounters => exact requestWhen_within readTrunkCounters_bounds _ _ s
  | loadNode => exact requestWhen_within loadNode_bounds _ _ s
  | dropNode => exact requestWhen_within dropNode_bounds _ _ s
  | lineControlSuspend =>
    exact requestWhen_within (lineControl_bounds fun l _ s => onLine_bounds l _ s (by exact id)) _ _ s
  | lineControlResume =>
    exact requestWhen_within (lineControl_bounds fun l _ s => onLine_bounds l _ s (by exact id)) _ _ s
  | lineControlRestart => exact requestWhen_within (lineControl_bounds fun l _ s => restartLine_bounds l s) _ _ s
  | lineControlSetTimeout =>
    exact requestWhen_within (lineControl_bounds fun l _ s => onLine_bounds l _ s (by exact id)) _ _ s
  | readLineCounters => exact requestWhen_within readLineCounters_bounds _ _ s
  | loadRule => exact requestWhen_within loadRule_bounds _ _ s
  | dropRule => exact requestWhen_within dropRule_bounds _ _ s
  | loadRoom => exact requestWhen_within loadRoom_bounds _ _ s
  | disableRoom => exact requestWhen_within disableRoom_bounds _ _ s
  | saveRoom => exact requestWhen_within saveRoom_bounds _ _ s
  | restoreRoom => exact requestWhen_within restoreRoom_bounds _ _ s
  | setClock => exact requestWhen_within setClockRequest_bounds _ _ s
  | readClock => exact requestWhen_within readClock_bounds _ _ s
  | loadBooking => exact requestWhen_within loadBooking_bounds _ _ s
  | cancelBooking => exact requestWhen_within cancelBooking_bounds _ _ s
  | listBookings => exact requestWhen_within listBookings_bounds _ _ s
  | roomRelease => exact requestWhen_within roomRelease_bounds _ _ s
  | loadScene => exact requestWhen_within loadScene_bounds _ _ s
  | loadWing => exact requestWhen_within loadWing_bounds _ _ s
  | setAirDuty => exact requestWhen_within setAirDuty_bounds _ _ s
  | roomScene => exact requestWhen_within roomScene_bounds _ _ s
  | cancelTravel => exact requestWhen_within cancelTravel_bounds _ _ s
  | loadFault => exact requestWhen_within loadFault_bounds _ _ s
  | raiseFault => exact requestWhen_within raiseFault_bounds _ _ s
  | dropFault => exact requestWhen_within dropFault_bounds _ _ s
  | clearFault => exact requestWhen_within clearFault_bounds _ _ s
  | loadSuite => exact requestWhen_within loadSuite_bounds _ _ s
  | dropSuite => exact requestWhen_within dropSuite_bounds _ _ s
  | collectStatus => exact requestWhen_within collectStatus_bounds _ _ s
  | sampleStatus => exact requestWhen_within sampleStatus_bounds _ _ s
  | nextPending => exact requestWhen_within nextPending_bounds _ _ s
  | setNoticeMask => exact requestWhen_within setNoticeMask_bounds _ _ s
  | readWingReport => exact requestWhen_within readWingReport_bounds _ _ s
  | report l a code value => exact report_within l a code value s
  | arrived l a position => exact arrived_within l a position s
  | echo l a status current => exact echo_within l a status current s
  | invalidLineFrame l f => exact invalidLineFrame_within l f s
  | itemTakenForSending l => exact itemTakenForSending_within l s
  | commandFrameSent l => exact whenReady_within (.ite (onLine_bounds l _ s (by exact id)) (.refl s))
  | echoTimerExpiry l => exact whenReady_within (ifExpired_bounds _ (echoTimerEnds_bounds l s))
  | motionHoldExpiry r => exact whenReady_within (ifExpired_bounds _ (motionHoldEnds_bounds r s))
  | stillnessExpiry r => exact whenReady_within (ifExpired_bounds _ (stillnessEnds_bounds r s))
  | lingerExpiry r => exact whenReady_within (ifExpired_bounds _ (lingerEnds_bounds r s))
  | suiteLingerExpiry g => exact whenReady_within (ifExpired_bounds _ (suiteLingerEnds_bounds g s))
  | dutyTimerExpiry r => exact whenReady_within (ifExpired_bounds _ (dutyEnds_bounds r s))
  | travelTimerExpiry l a => exact whenReady_within (ifExpired_bounds _ (travelEnds_bounds ⟨l, a⟩ s))
  | holdOffExpiry i => exact whenReady_within (ifExpired_bounds _ (holdOffEnds_bounds i s))
  | minuteBoundary => exact whenReady_within (clockEvent_bounds s fun c t h _ => minutePasses_bounds c t h)
  | faultPinChange p low => exact whenReady_within (pinChanges_bounds p low s)
  | clockSecondAdvance =>
    exact whenReady_within (clockEvent_bounds s fun c t h early => secondPasses_bounds c t h (of_decide_eq_true early))

/-! ### The crystal -/

theorem tickTimers_bounds (s : State) : KeepsBounds s (tickTimers s) :=
  { KeepsBounds.refl s with
    queue := fun l h => by simpa [tickTimers, State.line, Line.queued] using h
    windows := fun r h => by simpa [tickTimers, State.room] using h
    head := fun r h => by simpa [tickTimers, State.room] using h }

theorem tickClock_bounds (s : State) : KeepsBounds s (tickClock s).1 := by
  unfold tickClock
  split
  · exact .refl s
  · split
    · exact { KeepsBounds.refl s with ms := fun _ => by dsimp only; omega }
    · exact { KeepsBounds.refl s with ms := fun _ => le_refl _ }

theorem tick_bounds (s : State) : KeepsBounds s (tick s) := by
  refine .ite (.trans ((tickTimers_bounds s).trans (tickClock_bounds _)) (.ite (.refl _) (.of_same (by rfl)))) (.refl s)

/-- Settles O56: each command keeps the bounds, and so does a millisecond of the crystal. -/
theorem boundsAreKept : Obligations.BoundsAreKept := by
  intro s t fits range e
  unfold step at e
  split at e
  · exact (tick_bounds s).answers t e fits range
  · rename_i c rest _
    exact exec_within c { s with pending := rest } t e
      ⟨fits.rx, fits.tx, fits.wing, fits.store, fits.queue, fits.windows⟩ ⟨range.head, range.ms, range.clock⟩

end Sys2Proof.Machine
end

section
/-!
PROOFS. The trunk: the check of a frame (R2, R8), reception (R2, R4), transmission (R6), and the requests TI and their
owners answer (R5, R7, R186, R187, R189, R190).
-/

namespace Sys2Proof.Machine

/-! ### Requests and their owners (R5, R186, R187) -/

/-- Each request's command is TI taking that request for its owner. -/
theorem exec_requestRow : ∀ row ∈ requestRows, ∀ s,
    exec row.command s = requestWhen row.takes row.code.toNat row.handler s := by
  simp only [requestRows, lineRows, roomRows, actuationRows, noticeRows, List.cons_append, List.nil_append,
    List.forall_mem_cons, List.not_mem_nil, false_imp_iff, implies_true, and_true]
  and_intros <;> intro s <;> rfl

/-- Settles O8: by `exec_requestRow` every row is TI's taking of a request, which serves its owner's judgement. -/
theorem requestsAreAnsweredByTheirOwner : Obligations.RequestsAreAnsweredByTheirOwner := by
  constructor
  · intro row mem s tag ps r takes mine refused
    rw [exec_requestRow row mem, requestWhen_takes row.handler takes mine, serve_refused refused]
    rfl
  · intro row mem s u tag ps data takes mine accepted
    unfold AnswersDone
    rw [exec_requestRow row mem, requestWhen_takes row.handler takes mine, serve_done accepted]
    rfl

/-! ### Transmission and TI's own answers (R3, R5, R6, R196) -/

theorem addressed_iff (t : Ti) : t.addressed = true ↔ t.address ≠ 0 ∧ t.address ≠ 63 := by
  simp [Ti.addressed]

/-- FRAME SENT of a part with an address, the reset not yet about to take effect (R6). -/
theorem execFrameSent_sends {f : TxFrame} {rest : List TxFrame} {s : State} (ready : s.power = .ready)
    (stage : s.resetStage ≠ .replySent) (mine : s.ti.addressed = true) (queue : s.ti.tx = f :: rest) :
    execFrameSent s =
      let sent := { s with ti := { s.ti with tx := rest, counts := { s.ti.counts with sent := s.ti.counts.sent + 1 } } }
      .next (if s.resetStage = .requested ∧ isResetReply f then { sent with resetStage := .replySent } else sent) := by
  unfold execFrameSent
  simp only [queue, ready, stage, mine, ne_eq, not_false_eq_true, and_self, if_true]

/-- A part without an address sends nothing (R3). -/
theorem execFrameSent_unaddressed {s : State} (h : s.ti.addressed = false) : execFrameSent s = .next s := by
  unfold execFrameSent
  split
  · rfl
  · simp [h]

/-- Once a RESET PART has been accepted TI takes no frame (R5). -/
theorem nextFrame_of_reset {s : State} (h : s.resetStage ≠ .idle) : s.nextFrame = none := by
  simp [State.nextFrame, h]

theorem execUnknownRequestCode_empty {s : State} {tag : Byte}
    (h : s.nextFrame = some { kind := .request, tag := tag, payload := [] }) :
    execUnknownRequestCode s = .next (pushTx (replyFrame tag 0 .format []) (dropFrame s)) := by
  unfold execUnknownRequestCode
  rw [h]

theorem execUnknownRequestCode_unlisted {s : State} {tag c : Byte} {ps : List Byte} (h : s.Takes c tag ps)
    (unlisted : c.toNat ∉ requestCodes) :
    execUnknownRequestCode s = .next (pushTx (replyFrame tag c .format []) (dropFrame s)) := by
  unfold execUnknownRequestCode
  rw [show s.nextFrame = _ from h]
  simp [unlisted]

/-- Settles O6, by the equations of FRAME SENT, UNKNOWN REQUEST CODE and RESET PART. -/
theorem trunkInterfaceSendsAndAnswers : Obligations.TrunkInterfaceSendsAndAnswers := by
  refine ⟨fun f rest s ready queue => ⟨fun none => ?_, fun low high idle => ?_⟩,
    fun s tag => ⟨execUnknownRequestCode_empty, fun c ps => execUnknownRequestCode_unlisted⟩,
    fun s tag takes => ⟨_, request_done rfl takes rfl, rfl⟩, fun s => nextFrame_of_reset,
    fun s tag rest ready low high requested queue => ?_⟩
  · refine execFrameSent_unaddressed (Bool.eq_false_iff.mpr fun mine => ?_)
    obtain ⟨low, high⟩ := (addressed_iff s.ti).mp mine
    exact none.elim low high
  · refine (execFrameSent_sends ready (by simp [idle]) ((addressed_iff s.ti).mpr ⟨low, high⟩) queue).trans ?_
    simp [idle]
  · refine ⟨_, execFrameSent_sends ready (by simp [requested]) ((addressed_iff s.ti).mpr ⟨low, high⟩) queue, ?_⟩
    simp [requested, isResetReply]

/-! ### READ TRUNK COUNTERS and SAVE ROOM (R7, R189, R190) -/

/-- A stopped timer is saved as none. -/
theorem saved_none : Timer.saved none = none := rfl

/-- A running timer is saved in seconds, rounded up, and at least 1 (R190). -/
theorem saved_some (ms : Nat) :
    ∃ n, Timer.saved (some ms) = some n ∧ 1 ≤ n ∧ ms ≤ n * 1000 ∧ (1 < n → (n - 1) * 1000 < ms) :=
  ⟨max 1 ((ms + 999) / 1000), rfl, by omega, by omega, by omega⟩

theorem saveRoom_accepts {ps : List Byte} {r : RoomId} {s : State} (parsed : oneByte 48 ps = .ok r)
    (loaded : (s.room r).state ≠ .off) (own : (s.room r).state ≠ .joined) :
    saveRoom ps s = .ok (s, (s.context r).bytes) := by
  simp [saveRoom, parsed, loaded, own, refuseWhen, bind, Except.bind, pure, Except.pure]

/-- Settles O30: both owners answer what the part holds; the context's timers are those of `saved_some`. -/
theorem saveRoomAndTrunkCountersAreRead : Obligations.SaveRoomAndTrunkCountersAreRead := by
  refine ⟨fun s tag takes => request_done rfl takes rfl, fun s tag ps r takes parsed loaded own => ?_⟩
  refine ⟨s.context r, request_done rfl takes (saveRoom_accepts (s := dropFrame s) parsed loaded own),
    rfl, rfl, rfl, rfl, rfl, rfl, rfl, rfl, rfl, ?_⟩
  have saved : ∀ t : Timer, (t = none → t.saved = none) ∧ ∀ ms, t = some ms →
      ∃ n, t.saved = some n ∧ 1 ≤ n ∧ ms ≤ n * 1000 ∧ (1 < n → (n - 1) * 1000 < ms) := by
    intro t
    constructor
    · rintro rfl; exact saved_none
    · rintro ms rfl; exact saved_some ms
  intro t k mem
  simp only [List.mem_cons, Prod.mk.injEq, List.not_mem_nil, or_false] at mem
  rcases mem with ⟨rfl, rfl⟩ | ⟨rfl, rfl⟩ | ⟨rfl, rfl⟩
  · exact saved (s.room r).motionHold
  · exact saved (s.room r).linger
  · exact saved (s.room r).stillness

end Sys2Proof.Machine
end

section
/-!
PROOFS. The checks of a frame (R2, R8): a run of bytes followed by its check computes to zero, and nothing else of its
length does.
-/

namespace Sys2Proof.Machine

/-! ### A shift register and the bits that empty it -/

/-- One bit shifted through a register with the given polynomial: `crc16Bit` and `crc8Bit` are two of these. -/
def crcBit {w : Nat} (poly : BitVec w) (c : BitVec w) (b : Bool) : BitVec w :=
  if c.msb != b then (c <<< 1) ^^^ poly else c <<< 1

theorem crc16Bit_eq : crc16Bit = crcBit 0x8005#16 := rfl

theorem crc8Bit_eq : crc8Bit = crcBit 0x07#8 := rfl

/-- A register whose top bit is the bit shifted in only shifts. -/
theorem getMsbD_crcBit_same {w i : Nat} (poly c : BitVec w) :
    (crcBit poly c c.msb).getMsbD i = c.getMsbD (i + 1) := by
  simp [crcBit, BitVec.getMsbD_shiftLeft]

/-- With an odd polynomial, any other top bit leaves a mark in the last place. -/
theorem getMsbD_crcBit_last {w : Nat} (poly c : BitVec (w + 1)) (b : Bool) (odd : poly.getMsbD w = true) :
    (crcBit poly c b).getMsbD w = (c.msb != b) := by
  unfold crcBit
  cases h : c.msb != b <;> simp [odd]

/-- The bits that empty a register are its own, most significant first. -/
theorem foldl_crcBit_eq_zero_iff {w : Nat} (poly : BitVec (w + 1)) (odd : poly.getMsbD w = true) (bs : List Bool)
    (short : bs.length ≤ w + 1) (c : BitVec (w + 1)) :
    bs.foldl (crcBit poly) c = 0 ↔ ∀ i < w + 1, c.getMsbD i = bs.getD i false := by
  induction bs generalizing c with
  | nil =>
    simp only [List.foldl_nil, List.getD_nil]
    refine ⟨fun h i _ => by simp [h], fun h => BitVec.eq_of_getMsbD_eq fun i hi => by simp [h i hi]⟩
  | cons b bs ih =>
    simp only [List.length_cons, Nat.add_le_add_iff_right] at short
    rw [List.foldl_cons, ih (by omega)]
    by_cases top : c.msb = b
    · subst top
      constructor
      · rintro h (_ | i) hi
        · rfl
        · rw [List.getD_cons_succ, ← h i (by omega), getMsbD_crcBit_same poly c]
      · intro h i hi
        by_cases last : i = w
        · subst last
          rw [getMsbD_crcBit_last poly c _ odd, List.getD_eq_default _ _ short]
          simp
        · rw [getMsbD_crcBit_same poly c, h (i + 1) (by omega), List.getD_cons_succ]
    · refine ⟨fun h => absurd (h w (by omega)) ?_, fun h => absurd (h 0 (by omega)) ?_⟩
      · rw [getMsbD_crcBit_last poly c b odd, List.getD_eq_default _ _ short]
        simpa using top
      · simpa [BitVec.msb] using top

theorem getD_bitsMsbFirst (b : Byte) (i : Nat) : (bitsMsbFirst b).getD i false = b.getMsbD i := by
  by_cases h : i < 8
  · simp [bitsMsbFirst, h]
  · simp [bitsMsbFirst, h, BitVec.getMsbD_of_ge _ _ (Nat.not_lt.mp h)]

theorem length_bitsMsbFirst (b : Byte) : (bitsMsbFirst b).length = 8 := by simp [bitsMsbFirst]

/-! ### The two checks -/

/-- The byte that empties the line check's register is its contents (R8). -/
theorem crc8_append_eq_zero_iff (bs : List Byte) (x : Byte) : crc8 (bs ++ [x]) = 0 ↔ x = crc8 bs := by
  have step : crc8 (bs ++ [x]) = (bitsMsbFirst x).foldl (crcBit 0x07#8) (crc8 bs) := by
    rw [← crc8Bit_eq]; simp [crc8, crc8Byte]
  rw [step, foldl_crcBit_eq_zero_iff _ (by decide) _ (length_bitsMsbFirst x).le]
  simp only [getD_bitsMsbFirst]
  exact ⟨fun h => BitVec.eq_of_getMsbD_eq fun i hi => (h i hi).symm, fun h i _ => by rw [h]⟩

/-- The two bytes that empty the trunk check's register are its contents, high byte first (R2). -/
theorem crc16_append_eq_zero_iff (bs : List Byte) (hi lo : Byte) :
    crc16 (bs ++ [hi, lo]) = 0 ↔ half hi lo = crc16 bs := by
  have step : crc16 (bs ++ [hi, lo]) = (bitsMsbFirst hi ++ bitsMsbFirst lo).foldl (crcBit 0x8005#16) (crc16 bs) := by
    rw [← crc16Bit_eq]; simp [crc16, crc16Byte, List.foldl_append]
  have bits : ∀ i, (bitsMsbFirst hi ++ bitsMsbFirst lo).getD i false = (half hi lo).getMsbD i := by
    intro i
    rw [half, BitVec.getMsbD_append]
    by_cases h : i < 8
    · rw [List.getD_append _ _ _ _ (by rwa [length_bitsMsbFirst]), getD_bitsMsbFirst]
      simp [Nat.not_le.mpr h]
    · rw [List.getD_append_right _ _ _ _ (by rw [length_bitsMsbFirst]; omega), length_bitsMsbFirst, getD_bitsMsbFirst]
      simp [Nat.not_lt.mp h]
  rw [step, foldl_crcBit_eq_zero_iff _ (by decide) _ (by simp [length_bitsMsbFirst])]
  simp only [bits]
  exact ⟨fun h => BitVec.eq_of_getMsbD_eq fun i hi => (h i hi).symm, fun h i _ => by rw [h]⟩

/-! ### Two bytes and the number they make -/

theorem toNat_half (hi lo : Byte) : (half hi lo).toNat = 256 * hi.toNat + lo.toNat := by
  rw [half, BitVec.toNat_append, ← Nat.shiftLeft_add_eq_or_of_lt lo.isLt, Nat.shiftLeft_eq]
  omega

theorem toNat_hiByte (x : Half) : (hiByte x).toNat = x.toNat / 256 := by
  have := x.isLt
  rw [hiByte, BitVec.extractLsb'_toNat, Nat.shiftRight_eq_div_pow]
  omega

theorem toNat_loByte (x : Half) : (loByte x).toNat = x.toNat % 256 := by
  simp [loByte, BitVec.extractLsb'_toNat]

@[simp] theorem half_hiByte_loByte (x : Half) : half (hiByte x) (loByte x) = x := by
  apply BitVec.eq_of_toNat_eq
  rw [toNat_half, toNat_hiByte, toNat_loByte]
  omega

theorem hiByte_half (hi lo : Byte) : hiByte (half hi lo) = hi := by
  apply BitVec.eq_of_toNat_eq
  rw [toNat_hiByte, toNat_half]
  have := lo.isLt
  omega

theorem loByte_half (hi lo : Byte) : loByte (half hi lo) = lo := by
  apply BitVec.eq_of_toNat_eq
  rw [toNat_loByte, toNat_half]
  have := lo.isLt
  omega

theorem bytes2_eq_iff (x : Half) (hi lo : Byte) : bytes2 x = [hi, lo] ↔ half hi lo = x := by
  constructor
  · intro h
    simp only [bytes2, List.cons.injEq, and_true] at h
    rw [← h.1, ← h.2, half_hiByte_loByte]
  · rintro rfl
    simp [bytes2, hiByte_half, loByte_half]

end Sys2Proof.Machine
end

section
/-!
PROOFS. Reception of a trunk frame (R2, R4): one equation of `Ti.receive` for each outcome of the tests.
-/

namespace Sys2Proof.Machine

/-! ### The tests of R2 -/

theorem brokenOnTrunk_iff (f : RawFrame) :
    brokenOnTrunk f = true ↔
      f.lowStop = true ∨ f.bytes.length < 6 ∨ f.bytes.length ≠ 6 + (f.bytes.getD 3 0).toNat := by
  unfold brokenOnTrunk
  split
  · rename_i len rest bytes
    simp [bytes]
  · rename_i few
    have short : f.bytes.length < 6 := by
      match h : f.bytes with
      | [] | [_] | [_, _] | [_, _, _] => simp
      | a :: k :: t :: len :: rest => exact absurd h (few a k t len rest)
    simp [short]

/-- The check of a frame is correct exactly when the check over the whole frame is zero. -/
theorem checkOk_iff {bs : List Byte} (h : 2 ≤ bs.length) : checkOk bs = true ↔ crc16 bs = 0 := by
  obtain ⟨hi, lo, tail⟩ : ∃ hi lo, bs.drop (bs.length - 2) = [hi, lo] :=
    List.length_eq_two.mp (by rw [List.length_drop]; omega)
  have whole : bs.take (bs.length - 2) ++ [hi, lo] = bs := by rw [← tail, List.take_append_drop]
  rw [checkOk, tail, beq_iff_eq, bytes2_eq_iff, ← crc16_append_eq_zero_iff, whole]

theorem isMine_iff (t : Ti) (address : Byte) :
    t.isMine address = true ↔ t.address ≠ 0 ∧ t.address ≠ 63 ∧ address = t.address.zeroExtend 8 := by
  rw [Ti.isMine, Bool.and_eq_true, addressed_iff, beq_iff_eq, and_assoc]

theorem rxKindOf_request {kind : Byte} {n : Nat} (h : kind = 1 ∧ n ≤ 240) : rxKindOf kind n = some .request := by
  simp [rxKindOf, h.1, h.2]

theorem rxKindOf_pass {kind : Byte} {n : Nat} (h : kind = 3 ∧ n = 6) : rxKindOf kind n = some .pass := by
  simp [rxKindOf, h.1, h.2]

theorem rxKindOf_none {kind : Byte} {n : Nat} (request : ¬ (kind = 1 ∧ n ≤ 240)) (pass : ¬ (kind = 3 ∧ n = 6)) :
    rxKindOf kind n = none := by
  unfold rxKindOf
  split_ifs with long one
  · rfl
  · exact absurd ⟨one, Nat.not_lt.mp long⟩ request
  · rfl

/-! ### The outcomes, in the order of the tests -/

theorem receive_broken {t : Ti} {f : RawFrame} (h : brokenOnTrunk f = true) :
    t.receive f = { t with counts := { t.counts with malformed := t.counts.malformed + 1 } } := by
  simp [Ti.receive, h]

theorem receive_wrongCheck {t : Ti} {f : RawFrame} (whole : brokenOnTrunk f = false) (h : checkOk f.bytes = false) :
    t.receive f = { t with counts := { t.counts with checkErrors := t.counts.checkErrors + 1 } } := by
  simp [Ti.receive, whole, h]

section
variable {t : Ti} {f : RawFrame} {address kind tag length : Byte} {rest : List Byte}
  (whole : brokenOnTrunk f = false) (check : checkOk f.bytes = true)
  (bytes : f.bytes = address :: kind :: tag :: length :: rest)
include whole check bytes

theorem receive_foreign (h : t.isMine address = false) :
    t.receive f = { t with counts := { t.counts with foreign := t.counts.foreign + 1 } } := by
  rw [bytes] at check
  simp [Ti.receive, whole, check, bytes, h]

theorem receive_unknownKind (mine : t.isMine address = true) (h : rxKindOf kind length.toNat = none) :
    t.receive f = { t with counts := { t.counts with malformed := t.counts.malformed + 1 } } := by
  rw [bytes] at check
  simp [Ti.receive, whole, check, bytes, mine, h]

theorem receive_overrun {k : RxKind} (mine : t.isMine address = true) (h : rxKindOf kind length.toNat = some k)
    (full : 4 ≤ t.rx.length) :
    t.receive f = { t with counts := { t.counts with overruns := t.counts.overruns + 1 } } := by
  rw [bytes] at check
  simp [Ti.receive, whole, check, bytes, mine, h, Nat.not_lt.mpr full]

theorem receive_accepted {k : RxKind} (mine : t.isMine address = true) (h : rxKindOf kind length.toNat = some k)
    (place : t.rx.length < 4) :
    t.receive f =
      { t with rx := t.rx ++ [{ kind := k, tag := tag, payload := rest.take length.toNat }]
               counts := { t.counts with received := t.counts.received + 1 } } := by
  rw [bytes] at check
  simp [Ti.receive, whole, check, bytes, mine, h, place]

end

theorem exec_trunkFrameReceived {f : RawFrame} {s : State} (h : s.hears = true) :
    exec (.trunkFrameReceived f) s = .next { s with ti := s.ti.receive f } := by
  simp [exec, execTrunkFrameReceived, h]

/-- Settles O4: each clause is one outcome of `Ti.receive`. -/
theorem trunkFrameIsJudgedInOrder : Obligations.TrunkFrameIsJudgedInOrder := by
  intro f s
  refine ⟨fun deaf => by simp [exec, execTrunkFrameReceived, deaf], fun hears => ?_⟩
  intro c counted broken
  rw [exec_trunkFrameReceived hears]
  refine ⟨fun h => by rw [receive_broken ((brokenOnTrunk_iff f).mpr h)], fun sound => ?_⟩
  have whole : brokenOnTrunk f = false := Bool.eq_false_iff.mpr fun h => sound ((brokenOnTrunk_iff f).mp h)
  have long : 2 ≤ f.bytes.length := by
    have : ¬ f.bytes.length < 6 := fun h => sound (.inr (.inl h))
    omega
  refine ⟨fun wrong => ?_, fun zero address kind tag length rest bytes => ?_⟩
  · rw [receive_wrongCheck whole (Bool.eq_false_iff.mpr fun h => wrong ((checkOk_iff long).mp h))]
  have check : checkOk f.bytes = true := (checkOk_iff long).mpr zero
  intro mine request pass
  have sixBytes : length = 6 ↔ length.toNat = 6 := ⟨fun h => h ▸ rfl, fun h => BitVec.eq_of_toNat_eq h⟩
  have known : request ∨ pass →
      rxKindOf kind length.toNat = some (if kind = 1 then .request else .pass) := by
    rintro (h | h)
    · rw [rxKindOf_request h, if_pos h.1]
    · rw [rxKindOf_pass ⟨h.1, sixBytes.mp h.2⟩, if_neg (by rw [h.1]; decide)]
  refine ⟨fun other => ?_, fun own noRequest noPass => ?_, fun own kinds full => ?_, fun own kinds place => ?_⟩
  · rw [receive_foreign whole check bytes (Bool.eq_false_iff.mpr fun h => other ((isMine_iff _ _).mp h))]
  · rw [receive_unknownKind whole check bytes ((isMine_iff _ _).mpr own)
      (rxKindOf_none noRequest fun h => noPass ⟨h.1, sixBytes.mpr h.2⟩)]
  · rw [receive_overrun whole check bytes ((isMine_iff _ _).mpr own) (known kinds) full]
  · rw [receive_accepted whole check bytes ((isMine_iff _ _).mpr own) (known kinds) place]

end Sys2Proof.Machine
end

section
/-!
PROOFS. What the part and the field nodes send reads back (R1, R2, R8, R9, R16): frames carry their check, and messages,
bookings and contexts survive their bytes.
-/

namespace Sys2Proof.Machine

/-! ### Bytes and fields (R16) -/

theorem toNat_byteOf {n : Nat} (h : n ≤ 255) : (byteOf n).toNat = n := by
  simp only [byteOf, BitVec.toNat_ofNat]
  omega

theorem byteOf_toNat (b : Byte) : byteOf b.toNat = b := by
  simp [byteOf]

theorem below_byteOf {n : Nat} (i : Fin n) (small : n ≤ 256) : below n (byteOf i.val) = some i := by
  have h : (byteOf i.val).toNat = i.val := toNat_byteOf (by omega)
  simp [below, h]

theorem nodeOf_byteOf {n : NodeAddr} (h : n ≠ 0) : nodeOf (byteOf n.val) = some n := by
  have k : (byteOf n.val).toNat = n.val := toNat_byteOf (by omega)
  have nonzero : n.val ≠ 0 := fun e => h (Fin.ext e)
  simp [nodeOf, k, nonzero]

/-! ### Line frames (R8, R9) -/

/-- A line frame is its body and the check of that body. -/
theorem crc8_lineFrameBytes (node : NodeAddr) (kind : Nat) (payload : List Byte) :
    crc8 (lineFrameBytes node kind payload) = 0 :=
  (crc8_append_eq_zero_iff _ _).mpr rfl

theorem length_lineFrameBytes (node : NodeAddr) (kind : Nat) (payload : List Byte) :
    (lineFrameBytes node kind payload).length = payload.length + 4 := by
  simp [lineFrameBytes]

/-- A frame with a payload is broken by a low stop bit alone (R1). -/
theorem brokenOnLine_lineFrameBytes (low : Bool) (node : NodeAddr) (kind : Nat) (payload : List Byte)
    (nonempty : 1 ≤ payload.length) (short : payload.length ≤ 255) :
    brokenOnLine ⟨low, lineFrameBytes node kind payload⟩ = low := by
  have long : ¬ payload.length + 4 < 5 := by omega
  have len : payload.length + 4 = 4 + (byteOf payload.length).toNat := by rw [toNat_byteOf short, Nat.add_comm]
  have length := length_lineFrameBytes node kind payload
  simp only [lineFrameBytes, List.cons_append] at length
  simp only [brokenOnLine, lineFrameBytes, List.cons_append, length, ← len, long, decide_false, bne_self_eq_false,
    Bool.or_false]

theorem dropLast_lineFrameBytes (node : NodeAddr) (kind : Nat) (payload : List Byte) :
    (lineFrameBytes node kind payload).dropLast =
      byteOf node.val :: byteOf kind :: byteOf payload.length :: payload := List.dropLast_concat

theorem check_lineFrameBytes (node : NodeAddr) (kind : Nat) (payload : List Byte) :
    (crc8 (lineFrameBytes node kind payload).dropLast != (lineFrameBytes node kind payload).getLastD 0) = false := by
  rw [dropLast_lineFrameBytes, lineFrameBytes, List.getLastD_concat, bne_self_eq_false]

/-! ### Messages of field nodes (R9, R16) -/

theorem reportCodeOf_reportByte (c : ReportCode) : reportCodeOf (byteOf (reportByte c)).toNat = some c := by
  cases c <;> rfl

/-- A message a field node may send: its node is one, and a position is a percentage (R9). -/
def LineMessage.Valid : LineMessage → Prop
  | .report n _ _ => n ≠ 0
  | .arrived n p => n ≠ 0 ∧ p.toNat ≤ 100
  | .echo n _ _ => n ≠ 0

/-- The frame of a message reads back as that message (R9). -/
theorem lineMessage_bytes {m : LineMessage} (h : m.Valid) : lineMessage ⟨false, m.bytes⟩ = some m := by
  cases m with
  | report n c v =>
    unfold lineMessage LineMessage.bytes
    rw [brokenOnLine_lineFrameBytes _ _ _ _ (by simp) (by simp [bytes2]), check_lineFrameBytes, dropLast_lineFrameBytes]
    simp [nodeOf_byteOf h, toNat_byteOf, bytes2, reportCodeOf_reportByte]
  | arrived n p =>
    obtain ⟨node, position⟩ := h
    unfold lineMessage LineMessage.bytes
    rw [brokenOnLine_lineFrameBytes _ _ _ _ (by simp) (by simp), check_lineFrameBytes, dropLast_lineFrameBytes]
    simp [nodeOf_byteOf node, toNat_byteOf, position]
  | echo n st cu =>
    unfold lineMessage LineMessage.bytes
    rw [brokenOnLine_lineFrameBytes _ _ _ _ (by simp [bytes2]) (by simp [bytes2]), check_lineFrameBytes,
      dropLast_lineFrameBytes]
    simp [nodeOf_byteOf h, toNat_byteOf, bytes2]

theorem lineMessage_lowStop (bs : List Byte) : lineMessage ⟨true, bs⟩ = none := by
  simp [lineMessage, brokenOnLine]

/-- The command of a message, for its line (R16, R20). -/
def LineMessage.command (l : LineId) : LineMessage → Instr
  | .report n c v => .report l n c v
  | .arrived n p => .arrived l n p
  | .echo n st cu => .echo l n st cu

theorem lineCommand_of_message {l : LineId} {f : RawFrame} {m : LineMessage} (h : lineMessage f = some m) :
    lineCommand l f = m.command l := by
  unfold lineCommand
  rw [h]
  cases m <;> rfl

theorem command_wf {m : LineMessage} (h : m.Valid) (l : LineId) : (m.command l).wf = true := by
  cases m with
  | report n c v => simpa [LineMessage.command, Instr.wf, LineMessage.Valid] using h
  | arrived n p => simpa [LineMessage.command, Instr.wf, LineMessage.Valid] using h
  | echo n st cu => simpa [LineMessage.command, Instr.wf, LineMessage.Valid] using h

/-- Settles O5: the checks by their registers emptied, the read-back by `lineMessage_bytes`. -/
theorem framesCarryTheirCheck : Obligations.FramesCarryTheirCheck := by
  refine ⟨⟨fun address kind tag payload => ?_, fun it => ⟨crc8_lineFrameBytes _ _ _, ?_, rfl⟩⟩, fun m valid => ?_⟩
  · exact (crc16_append_eq_zero_iff _ _ _).mpr (half_hiByte_loByte _)
  · rw [Item.wireBytes, length_lineFrameBytes]
    cases it.kind <;> rfl
  · have h : m.Valid := by cases m <;> exact valid
    refine ⟨lineMessage_bytes h, lineMessage_lowStop _, fun l => ?_⟩
    rw [lineCommand_of_message (lineMessage_bytes h)]
    exact ⟨by cases m <;> rfl, command_wf h l⟩

/-! ### Booking records (R16, R98) -/

theorem toNat_half_natBytes2 {n : Nat} (h : n ≤ 65535) :
    (half (hiByte (BitVec.ofNat 16 n)) (loByte (BitVec.ofNat 16 n))).toNat = n := by
  rw [half_hiByte_loByte, BitVec.toNat_ofNat]
  omega

theorem targetOf_bytes (t : BookingTarget) :
    ∃ kind number, t.bytes = [kind, number] ∧ targetOf kind number = some t := by
  cases t with
  | room r => exact ⟨_, _, rfl, by simp [targetOf, below_byteOf r (by decide)]⟩
  | suite g => exact ⟨_, _, rfl, by simp [targetOf, below_byteOf g (by decide)]⟩

theorem kindOf_code (k : BookingKind) : BookingKind.ofCode (byteOf k.code).toNat = some k := by
  cases k <;> rfl

/-- An optional byte reads back while its value is not the one that stands for absent. -/
theorem optField_optByte {x : Option Nat} (h : ∀ n ∈ x, n < 255) : optField (optByte x) = x := by
  cases x with
  | none => rfl
  | some n =>
    have small : n < 255 := h n rfl
    have k : (byteOf n).toNat = n := toNat_byteOf (by omega)
    have present : byteOf n ≠ 255#8 := fun e => by rw [e] at k; simp at k; omega
    simp [optField, optByte, present, k]

/-- The ranges of R98, by name. -/
structure Booking.Fits (b : Booking) : Prop where
  start : b.start ≤ 10079
  finish : b.finish ≤ 10079
  lead : b.lead ≤ 120
  lag : b.lag ≤ 60
  confirm : b.confirm ≤ 60
  heads : b.heads ≤ 500
  week : ∀ w ∈ b.week, w ≤ 52

theorem Booking.fits_of_inRange {b : Booking} (h : b.inRange = true) : b.Fits := by
  simp only [Booking.inRange, Bool.and_eq_true, decide_eq_true_eq] at h
  obtain ⟨⟨_, start, finish, _, _, lead, lag, confirm, _, heads, _, _⟩, week⟩ := h
  refine ⟨start, finish, lead, lag, confirm, heads, fun w e => ?_⟩
  rw [Option.mem_def.mp e] at week
  exact (of_decide_eq_true week).2

/-- LOAD BOOKING reads a booking's record as that booking. -/
theorem bookingOf_bytes {b : Booking} (range : b.inRange = true) (id : b.id ≤ 65535) : bookingOf b.bytes = .ok b := by
  have fits := Booking.fits_of_inRange range
  obtain ⟨kind, number, target, read⟩ := targetOf_bytes b.target
  have week : optField (optByte b.week) = b.week :=
    optField_optByte fun w e => (fits.week w e).trans_lt (by decide)
  have := fits.start
  have := fits.finish
  have := fits.heads
  have := fits.lead
  have := fits.lag
  have := fits.confirm
  unfold Booking.bytes bookingOf
  simp only [target, natBytes2, bytes2, List.cons_append, List.nil_append, read, kindOf_code,
    below_byteOf b.scene (by decide), week]
  rw [toNat_half_natBytes2 id, toNat_half_natBytes2 (by omega : b.start ≤ 65535),
    toNat_half_natBytes2 (by omega : b.finish ≤ 65535), toNat_half_natBytes2 (by omega : b.heads ≤ 65535),
    toNat_byteOf (by omega : b.lead ≤ 255), toNat_byteOf (by omega : b.lag ≤ 255),
    toNat_byteOf (by omega : b.confirm ≤ 255)]
  exact if_pos range

end Sys2Proof.Machine
end

section
namespace Sys2Proof.Machine

/-! ### Context records (R16, R190, R191) -/

theorem stateOf_code (st : RoomState) : RoomState.ofCode (byteOf st.code).toNat = some st := by
  cases st with
  | run o => cases o <;> rfl
  | off => rfl
  | joined => rfl

theorem phaseOf_code (p : Phase) : Phase.ofCode (byteOf p.code).toNat = some p := by
  cases p <;> rfl

theorem bitField_flagByte (b : Bool) : bitField (flagByte b) = some b := by
  cases b <;> rfl

theorem fixedScene_optByte (x : Option SceneNum) : fixedScene (optByte (x.map Fin.val)) = some x := by
  cases x with
  | none => rfl
  | some n =>
    have h := below_byteOf n (by decide)
    have present : byteOf n.val ≠ 255#8 := fun e => by rw [e] at h; simp [below] at h
    simp [fixedScene, optByte, present, h]

theorem idField_natBytes2 {x : Option Nat} (h : ∀ id, x = some id → 1 ≤ id ∧ id ≤ 65535) :
    idField (BitVec.ofNat 16 (x.getD 0)) = x := by
  cases x with
  | none => rfl
  | some id =>
    obtain ⟨low, high⟩ := h id rfl
    have k : (BitVec.ofNat 16 id).toNat = id := by rw [BitVec.toNat_ofNat]; omega
    have present : BitVec.ofNat 16 id ≠ (0 : Half) := fun e => by rw [e] at k; simp at k; omega
    simp only [idField, Option.getD_some]
    rw [if_neg present, k]

/-- An optional two-byte field reads back while its value is not the one that stands for absent. -/
theorem optField2_optBytes2 {x : Option Nat} (h : ∀ n, x = some n → n < 65535) :
    ∃ hi lo, optBytes2 x = [hi, lo] ∧ optField2 (half hi lo) = x := by
  cases x with
  | none => exact ⟨_, _, rfl, rfl⟩
  | some n =>
    refine ⟨_, _, rfl, ?_⟩
    have small := h n rfl
    have k : (BitVec.ofNat 16 n).toNat = n := by rw [BitVec.toNat_ofNat]; omega
    have present : BitVec.ofNat 16 n ≠ (0xFFFF : Half) := fun e => by rw [e] at k; simp at k; omega
    rw [half_hiByte_loByte, optField2, if_neg present, k]

theorem condsOf_zeroExtend (c : CondSet) : condsOf (c.zeroExtend 16) = c := by
  simp [condsOf]

theorem length_overrides (os : List (NodeRef × Nat)) : (os.flatMap overrideBytes).length = 4 * os.length := by
  induction os with
  | nil => rfl
  | cons o os ih =>
    rw [List.flatMap_cons, List.length_append, ih, List.length_cons]
    simp only [overrideBytes, natBytes2, bytes2, List.cons_append, List.nil_append, List.length_cons, List.length_nil]
    omega

theorem overridesOf_bytes {os : List (NodeRef × Nat)} (h : ∀ o ∈ os, o.1.addr ≠ 0 ∧ o.2 ≤ 65535) :
    overridesOf (os.flatMap overrideBytes) = some os := by
  induction os with
  | nil => rfl
  | cons o os ih =>
    obtain ⟨node, value⟩ := h o (by simp)
    rw [List.flatMap_cons]
    simp only [overrideBytes, natBytes2, bytes2, List.cons_append, List.nil_append, overridesOf]
    rw [below_byteOf o.1.line (by decide), nodeOf_byteOf node, ih fun p hp => h p (by simp [hp]),
      toNat_half_natBytes2 value]

/-- RESTORE ROOM reads a room and a context's record as that room and context. -/
theorem restoreOf_bytes {r : RoomId} {c : Context} (head : c.head ≤ 65535)
    (cursor : ∀ id, c.cursor = some id → 1 ≤ id ∧ id ≤ 65535) (motion : ∀ n, c.motionHold = some n → n < 65535)
    (linger : ∀ n, c.linger = some n → n < 65535) (still : ∀ n, c.stillness = some n → n < 65535)
    (few : c.overrides.length ≤ 16) (overrides : ∀ o ∈ c.overrides, o.1.addr ≠ 0 ∧ o.2 ≤ 65535) :
    restoreOf (byteOf r.val :: c.bytes) = .ok (r, c) := by
  obtain ⟨mh, ml, motionBytes, readMotion⟩ := optField2_optBytes2 motion
  obtain ⟨lh, ll, lingerBytes, readLinger⟩ := optField2_optBytes2 linger
  obtain ⟨sh, sl, stillBytes, readStill⟩ := optField2_optBytes2 still
  have count : (byteOf c.overrides.length).toNat = c.overrides.length := toNat_byteOf (by omega)
  have whole : ¬ (c.overrides.flatMap overrideBytes).length ≠ 4 * (byteOf c.overrides.length).toNat := by
    rw [length_overrides, count]; exact fun h => h rfl
  unfold Context.bytes
  simp only [natBytes2, bytes2, condBytes, motionBytes, lingerBytes, stillBytes, List.cons_append, List.nil_append]
  unfold restoreOf
  dsimp only
  rw [if_neg whole, below_byteOf r (by decide), stateOf_code, phaseOf_code, bitField_flagByte, bitField_flagByte,
    fixedScene_optByte, overridesOf_bytes overrides]
  simp only [readMotion, readLinger, readStill, half_hiByte_loByte, idField_natBytes2 cursor, condsOf_zeroExtend]
  rw [if_pos (count.trans_le few), BitVec.toNat_ofNat, Nat.mod_eq_of_lt (by omega)]

/-- Settles O55: each field of a record reads back, and so the record does. -/
theorem recordsReadBack : Obligations.RecordsReadBack := by
  refine ⟨fun b => bookingOf_bytes, fun r c head cursor timers few overrides => ?_⟩
  exact restoreOf_bytes head cursor (timers _ (by simp)) (timers _ (by simp)) (timers _ (by simp)) few overrides

end Sys2Proof.Machine
end

section
/-!
PROOFS. PASS (R10 to R12): the seven checks in order, and the REJECT of a PASS that fails one.
-/

namespace Sys2Proof.Machine

/-! ### Check 1: what the six payload bytes spell -/

theorem below_of_toNat {n : Nat} {b : Byte} {i : Fin n} (h : b.toNat = i.val) : below n b = some i := by
  simp [below, h]

theorem nodeOf_of_toNat {b : Byte} {n : NodeAddr} (h : b.toNat = n.val) (positive : 1 ≤ b.toNat) : nodeOf b = some n := by
  have nonzero : n.val ≠ 0 := by omega
  simp [nodeOf, h, nonzero]

theorem below_eq_none {n : Nat} {b : Byte} (h : ¬ b.toNat < n) : below n b = none := dif_neg h

theorem nodeOf_eq_none {b : Byte} (h : ¬ (1 ≤ b.toNat ∧ b.toNat ≤ 31)) : nodeOf b = none := by
  unfold nodeOf
  split_ifs
  · rfl
  · omega
  · rfl

theorem kindOf_code_eq_some {n : Nat} {k : CmdKind} (h : k.code = n) : CmdKind.ofCode n = some k := by
  subst h
  cases k <;> rfl

theorem code_of_kindOf {n : Nat} {k : CmdKind} (h : CmdKind.ofCode n = some k) : k.code = n := by
  unfold CmdKind.ofCode at h
  split_ifs at h with h1 h2 h3 h4 h5
  · cases h; exact h1.symm
  · cases h; exact h2.symm
  · cases h; exact h3.symm
  · cases h; exact h4.symm
  · cases h; exact h5.symm

theorem code_injective {a b : CmdKind} (h : a.code = b.code) : a = b :=
  Option.some.inj ((kindOf_code_eq_some h).symm.trans (kindOf_code_eq_some rfl))

/-- A kind's byte. -/
theorem byte_eq_iff_kind {kind k : CmdKind} {b : Byte} (h : kind.code = b.toNat) {x : Byte} (hx : x.toNat = k.code) :
    b = x ↔ kind = k := by
  constructor
  · rintro rfl; exact code_injective (h.trans hx)
  · rintro rfl; exact BitVec.eq_of_toNat_eq (h.symm.trans hx.symm)

/-- The value and ramp of a kind are in range (R10, check 1). -/
def CmdKind.Admits : CmdKind → Nat → Nat → Prop
  | .setLevel, value, ramp => value ≤ 1000 ∧ ramp ≤ 60
  | .setPosition, value, _ => value ≤ 100
  | .setFlow, value, _ => value ≤ 100
  | .stop, _, _ => True
  | .query, _, _ => True

theorem passValue_eq_none {k : CmdKind} {value ramp : Nat} (h : ¬ k.Admits value ramp) : passValue k value ramp = none := by
  cases k with
  | setLevel => exact if_neg h
  | setPosition => exact if_neg h
  | setFlow => exact if_neg h
  | stop => exact absurd trivial h
  | query => exact absurd trivial h

theorem passValue_eq_some {k : CmdKind} {value ramp : Nat} (h : k.Admits value ramp) :
    ∃ v r, passValue k value ramp = some (v, r) ∧ (k = .setLevel → v = value ∧ r = ramp) ∧
      (k = .setPosition ∨ k = .setFlow → v = value) := by
  cases k with
  | setLevel => exact ⟨_, _, if_pos h, by simp, by simp⟩
  | setPosition => exact ⟨_, _, if_pos h, by simp, by simp⟩
  | setFlow => exact ⟨_, _, if_pos h, by simp, by simp⟩
  | stop => exact ⟨_, _, rfl, by simp, by simp⟩
  | query => exact ⟨_, _, rfl, by simp, by simp⟩

section
variable {l n k vh vl ra : Byte}

theorem passCommand_eq_some {line : LineId} {node : NodeAddr} {kind : CmdKind} (hl : l.toNat = line.val)
    (hn : n.toNat = node.val) (positive : 1 ≤ n.toNat) (hk : kind.code = k.toNat)
    (range : kind.Admits (half vh vl).toNat ra.toNat) :
    ∃ c, passCommand [l, n, k, vh, vl, ra] = some c ∧ c.ref = ⟨line, node⟩ ∧ c.kind = kind ∧
      (kind = .setLevel → c.value = (half vh vl).toNat ∧ c.ramp = ra.toNat) ∧
      (kind = .setPosition ∨ kind = .setFlow → c.value = (half vh vl).toNat) := by
  obtain ⟨v, r, value, level, other⟩ := passValue_eq_some range
  refine ⟨⟨⟨line, node⟩, kind, v, r⟩, ?_, rfl, rfl, level, other⟩
  simp [passCommand, below_of_toNat hl, nodeOf_of_toNat hn positive, kindOf_code_eq_some hk, value]

/-- A PASS that check 1 admits names a line and a node, and a kind with its value and ramp in range. -/
theorem passCommand_eq_none
    (h : ∀ kind : CmdKind, l.toNat ≤ 3 → 1 ≤ n.toNat → n.toNat ≤ 31 → kind.code = k.toNat →
      ¬ kind.Admits (half vh vl).toNat ra.toNat) : passCommand [l, n, k, vh, vl, ra] = none := by
  unfold passCommand
  dsimp only
  split
  · rename_i line node kind hl hn hk
    have low : l.toNat < 4 := by by_contra far; rw [below_eq_none far] at hl; cases hl
    have range : 1 ≤ n.toNat ∧ n.toNat ≤ 31 := by by_contra far; rw [nodeOf_eq_none far] at hn; cases hn
    rw [passValue_eq_none (h kind (by omega) range.1 range.2 (code_of_kindOf hk))]
    rfl
  · rfl

end

/-! ### Checks 2 and 3: the place and the role -/

theorem judgePass_unspelled {s : State} {payload : List Byte} (h : passCommand payload = none) :
    judgePass s payload = .error .unknown := by
  simp [judgePass, h]

theorem judgePass_empty {s : State} {payload : List Byte} {c : PassCommand} (h : passCommand payload = some c)
    (empty : s.entry c.ref = none) : judgePass s payload = .error .unknown := by
  simp [judgePass, h, empty]

theorem judgePass_otherRole {s : State} {payload : List Byte} {c : PassCommand} {e : NodeEntry}
    (h : passCommand payload = some c) (entry : s.entry c.ref = some e) (role : e.role.accepts c.kind = false) :
    judgePass s payload = .error .unknown := by
  simp [judgePass, h, entry, role]

theorem judgePass_refused {s : State} {payload : List Byte} {c : PassCommand} {e : NodeEntry} {r : RejectReason}
    (h : passCommand payload = some c) (entry : s.entry c.ref = some e) (role : e.role.accepts c.kind = true)
    (refused : passState s c e = some r) : judgePass s payload = .error r := by
  simp [judgePass, h, entry, role, refused]

theorem judgePass_admits {s : State} {payload : List Byte} {c : PassCommand} {e : NodeEntry}
    (h : passCommand payload = some c) (entry : s.entry c.ref = some e) (role : e.role.accepts c.kind = true)
    (admitted : passState s c e = none) : judgePass s payload = .ok c := by
  simp [judgePass, h, entry, role, admitted]

theorem accepts_iff (role : Role) (k : CmdKind) :
    role.accepts k = true ↔ k = .query ∨ (k = .stop ∧ role.family ≠ none) ∨
      (k = .setLevel ∧ role.family = some .lights) ∨ (k = .setPosition ∧ role.family = some .blinds) ∨
      (k = .setFlow ∧ role.family = some .air) := by
  cases role <;> simp [Role.accepts, Role.family] <;> tauto

/-! ### Checks 4 to 7: what the room, the sources and the line hold -/

/-- Check 4: the room is loaded, and no window is open where a flow is set. -/
def PassCommand.RoomOpen (c : PassCommand) (s : State) (e : NodeEntry) : Prop :=
  (s.room e.room).state ≠ .off ∧ (c.kind = .setFlow → (s.room e.room).windows = [])

/-- Check 5: the node's family is not protected. -/
def State.Unprotected (s : State) (e : NodeEntry) : Prop :=
  ∀ f, e.role.family = some f → s.protection e.room f = none

/-- Check 6: line and node are in service. -/
def PassCommand.Reaches (c : PassCommand) (s : State) (e : NodeEntry) : Prop :=
  (s.line c.ref.line).down = false ∧ e.health ≠ .offline

/-- Check 7: the line has a place, or an item of the node and kind to merge with. -/
def PassCommand.Placed (c : PassCommand) (s : State) : Prop :=
  (s.line c.ref.line).queued.length < 32 ∨
    ∃ it ∈ (s.line c.ref.line).queued, it.node = c.ref.addr ∧ it.kind = c.kind

section
variable {s : State} {c : PassCommand} {e : NodeEntry}

theorem roomOpen_iff :
    c.RoomOpen s e ↔ ¬ ((s.room e.room).state = .off ∨ (c.kind = .setFlow ∧ (s.room e.room).windows ≠ [])) := by
  unfold PassCommand.RoomOpen
  tauto

theorem unprotected_iff : s.Unprotected e ↔ ¬ (e.role.family.bind (s.protection e.room)).isSome = true := by
  unfold State.Unprotected
  cases e.role.family <;> simp

theorem reaches_iff : c.Reaches s e ↔ ¬ ((s.line c.ref.line).down = true ∨ e.health = .offline) := by
  simp [PassCommand.Reaches]

theorem placed_iff :
    c.Placed s ↔ ¬ (32 ≤ (s.line c.ref.line).queued.length ∧
      ¬ ((s.line c.ref.line).queued.any fun it => it.node == c.ref.addr && it.kind == c.kind) = true) := by
  simp only [PassCommand.Placed, List.any_eq_true, Bool.and_eq_true, beq_iff_eq, not_and, not_not]
  exact ⟨fun h full => h.resolve_left (Nat.not_lt.mpr full), fun h => (lt_or_ge _ 32).imp_right h⟩

theorem passState_state (h : ¬ c.RoomOpen s e) : passState s c e = some .state :=
  if_pos (not_not.mp fun k => h (roomOpen_iff.mpr k))

theorem passState_guarded (open' : c.RoomOpen s e) (h : ¬ s.Unprotected e) : passState s c e = some .guarded :=
  (if_neg (roomOpen_iff.mp open')).trans (if_pos (not_not.mp fun k => h (unprotected_iff.mpr k)))

theorem passState_offline (open' : c.RoomOpen s e) (free : s.Unprotected e) (h : ¬ c.Reaches s e) :
    passState s c e = some .offline :=
  (if_neg (roomOpen_iff.mp open')).trans ((if_neg (unprotected_iff.mp free)).trans
    (if_pos (not_not.mp fun k => h (reaches_iff.mpr k))))

theorem passState_lineFull (open' : c.RoomOpen s e) (free : s.Unprotected e) (reach : c.Reaches s e)
    (h : ¬ c.Placed s) : passState s c e = some .lineFull :=
  (if_neg (roomOpen_iff.mp open')).trans ((if_neg (unprotected_iff.mp free)).trans
    ((if_neg (reaches_iff.mp reach)).trans (if_pos (not_not.mp fun k => h (placed_iff.mpr k)))))

theorem passState_admits (open' : c.RoomOpen s e) (free : s.Unprotected e) (reach : c.Reaches s e)
    (place : c.Placed s) : passState s c e = none :=
  (if_neg (roomOpen_iff.mp open')).trans ((if_neg (unprotected_iff.mp free)).trans
    ((if_neg (reaches_iff.mp reach)).trans (if_neg (placed_iff.mp place))))

end

/-! ### The refusal (R11) -/

theorem execPass_refused {s : State} {tag : Byte} {payload : List Byte} {r : RejectReason}
    (taken : s.nextFrame = some { kind := .pass, tag := tag, payload := payload })
    (refused : judgePass s payload = .error r) :
    execPass s = .next (pushTx (rejectFrame tag r payload) (dropFrame s)) := by
  simp [execPass, taken, refused]

/-- What check 1 admits spells a command of one of the five kinds. -/
theorem admits_of_check1 {k : Byte} {value ramp : Nat}
    (h : (k = 0x11 ∧ value ≤ 1000 ∧ ramp ≤ 60) ∨ ((k = 0x12 ∨ k = 0x13) ∧ value ≤ 100) ∨ k = 0x14 ∨ k = 0x15) :
    ∃ kind : CmdKind, kind.code = k.toNat ∧ kind.Admits value ramp := by
  rcases h with ⟨rfl, range⟩ | ⟨rfl | rfl, range⟩ | rfl | rfl
  · exact ⟨.setLevel, rfl, range⟩
  · exact ⟨.setPosition, rfl, range⟩
  · exact ⟨.setFlow, rfl, range⟩
  · exact ⟨.stop, rfl, trivial⟩
  · exact ⟨.query, rfl, trivial⟩

theorem check1_of_admits {k : Byte} {value ramp : Nat} {kind : CmdKind} (code : kind.code = k.toNat)
    (h : kind.Admits value ramp) :
    (k = 0x11 ∧ value ≤ 1000 ∧ ramp ≤ 60) ∨ ((k = 0x12 ∨ k = 0x13) ∧ value ≤ 100) ∨ k = 0x14 ∨ k = 0x15 := by
  have byte : ∀ x : Byte, kind.code = x.toNat → k = x := fun x e => BitVec.eq_of_toNat_eq (code.symm.trans e)
  cases kind with
  | setLevel => exact .inl ⟨byte 0x11 rfl, h⟩
  | setPosition => exact .inr (.inl ⟨.inl (byte 0x12 rfl), h⟩)
  | setFlow => exact .inr (.inl ⟨.inr (byte 0x13 rfl), h⟩)
  | stop => exact .inr (.inr (.inl (byte 0x14 rfl)))
  | query => exact .inr (.inr (.inr (byte 0x15 rfl)))

/-- Settles O9: the REJECT by `execPass_refused`, the reason by the checks in order. -/
theorem refusedPassChangesNothing : Obligations.RefusedPassChangesNothing := by
  refine ⟨fun s tag payload r taken refused => ⟨execPass_refused taken refused, rfl⟩, ?_⟩
  intro s l n k vh vl ra judged value check1
  have number : (half vh vl).toNat = value := toNat_half vh vl
  refine ⟨fun fails => ?_, fun line node passes hl hn => ?_⟩
  · refine judgePass_unspelled (passCommand_eq_none fun kind low positive high code admits => fails ?_)
    rw [number] at admits
    exact ⟨low, positive, high, check1_of_admits code admits⟩
  obtain ⟨low, positive, high, spelled⟩ := passes
  obtain ⟨kind, code, admits⟩ := admits_of_check1 spelled
  rw [← number] at admits
  obtain ⟨c, command, ref, rfl, level, other⟩ := passCommand_eq_some hl hn positive code admits
  have isKind : ∀ (x : Byte) (k' : CmdKind), x.toNat = k'.code → (k = x ↔ c.kind = k') :=
    fun x k' => byte_eq_iff_kind code
  have hLevel := isKind 0x11 .setLevel rfl
  have hPosition := isKind 0x12 .setPosition rfl
  have hFlow := isKind 0x13 .setFlow rfl
  have hStop := isKind 0x14 .stop rfl
  have hQuery := isKind 0x15 .query rfl
  refine ⟨fun empty => judgePass_empty command (ref ▸ empty), fun e entry => ?_⟩
  rw [← ref] at entry
  intro x check3 check4 check5 check6 check7
  have role : check3 ↔ e.role.accepts c.kind = true := by
    rw [accepts_iff, ← hLevel, ← hPosition, ← hFlow, ← hStop, ← hQuery]
  have room : check4 ↔ c.RoomOpen s e := by rw [PassCommand.RoomOpen, ← hFlow]
  have reach : check6 ↔ c.Reaches s e := by rw [PassCommand.Reaches, ref]
  have place : check7 ↔ c.Placed s := by
    have same : ∀ it : Item, it.kind.code = k.toNat ↔ it.kind = c.kind :=
      fun it => ⟨fun h => code_injective (h.trans code.symm), fun h => h ▸ code⟩
    rw [PassCommand.Placed, ref]
    simp only [check7, x, same]
  rw [role, room, reach, place]
  exact ⟨fun h => judgePass_otherRole command entry (Bool.eq_false_iff.mpr h),
    fun h3 h4 => judgePass_refused command entry h3 (passState_state h4),
    fun h3 h4 h5 => judgePass_refused command entry h3 (passState_guarded h4 h5),
    fun h3 h4 h5 h6 => judgePass_refused command entry h3 (passState_offline h4 h5 h6),
    fun h3 h4 h5 h6 h7 => judgePass_refused command entry h3 (passState_lineFull h4 h5 h6 h7),
    fun h3 h4 h5 h6 h7 => ⟨c, judgePass_admits command entry h3 (passState_admits h4 h5 h6 h7), ref, code,
      by rw [hLevel, ← number]; exact level, by rw [hPosition, hFlow, ← number]; exact other⟩⟩

end Sys2Proof.Machine
end

section
namespace Sys2Proof.Machine

/-! ### The admitted PASS (R12, R130) -/

/-- What the seven checks leave of an admitted PASS. -/
structure PassAdmitted (s : State) (c : PassCommand) (e : NodeEntry) : Prop where
  entry : s.entry c.ref = some e
  role : e.role.accepts c.kind = true
  room : c.RoomOpen s e
  free : s.Unprotected e
  reach : c.Reaches s e
  place : c.Placed s

theorem passState_eq_none {s : State} {c : PassCommand} {e : NodeEntry} (h : passState s c e = none) :
    c.RoomOpen s e ∧ s.Unprotected e ∧ c.Reaches s e ∧ c.Placed s := by
  have room : c.RoomOpen s e := by
    by_contra k; rw [passState_state k] at h; cases h
  have free : s.Unprotected e := by
    by_contra k; rw [passState_guarded room k] at h; cases h
  have reach : c.Reaches s e := by
    by_contra k; rw [passState_offline room free k] at h; cases h
  have place : c.Placed s := by
    by_contra k; rw [passState_lineFull room free reach k] at h; cases h
  exact ⟨room, free, reach, place⟩

theorem judgePass_eq_ok {s : State} {payload : List Byte} {c : PassCommand} (h : judgePass s payload = .ok c) :
    ∃ e, PassAdmitted s c e := by
  unfold judgePass at h
  split at h
  · cases h
  split at h
  · cases h
  rename_i e entry
  split at h
  · rename_i role
    split at h
    · cases h
    · rename_i admitted
      cases h
      obtain ⟨room, free, reach, place⟩ := passState_eq_none admitted
      exact ⟨e, entry, role, room, free, reach, place⟩
  · cases h

/-- A kind that sets a value is that of the node's own targets (R10 check 3, R133). -/
theorem kind_of_accepts {role : Role} {k : CmdKind} (h : role.accepts k = true) (sets : k.setsValue = true) :
    role.kind = k := by
  cases k <;> cases role <;> simp_all [Role.accepts, Role.kind, CmdKind.setsValue]

theorem Item.rivals_comm (a b : Item) : a.rivals b = b.rivals a := by
  simp only [Item.rivals, BEq.comm (a := a.node), BEq.comm (a := a.kind)]

/-! ### A NORMAL item is offered where no URGENT one is its rival (R23, R24) -/

section
variable {x : Line} {it : Item}

/-- Nothing is displaced for it. -/
theorem Line.offer_normal_out (band : it.origin.band = .normal) (noRival : ∀ u ∈ x.urgent, u.rivals it = false) :
    (x.offer it).2.1 = [] := by
  have none : (x.urgent.any it.rivals) = false := by
    simpa [List.any_eq_false, Item.rivals_comm it] using noRival
  unfold Line.offer
  simp only [band, Band.other, Line.band, none, Bool.false_eq_true, if_false]
  split_ifs <;> rfl

theorem find_mergeInto {q : List Item} (h : q.any it.rivals = true) :
    ((mergeInto it q).find? fun y => y.node == it.node && y.kind == it.kind) = some it := by
  induction q with
  | nil => cases h
  | cons y q ih =>
    by_cases rival : y.rivals it = true
    · simp [mergeInto, rival]
    · have rest : q.any it.rivals = true := by
        simpa [Item.rivals_comm it, rival] using h
      have other : (y.node == it.node && y.kind == it.kind) = false := Bool.eq_false_iff.mpr rival
      have := ih rest
      simp only [mergeInto] at this
      rw [mergeInto, List.map_cons, if_neg rival, List.find?_cons, other, this]

theorem find_of_no_rival {q : List Item} (h : ∀ y ∈ q, y.rivals it = false) :
    (q.find? fun y => y.node == it.node && y.kind == it.kind) = none :=
  List.find?_eq_none.mpr fun y mem => Bool.eq_false_iff.mp (h y mem)

/-- It is then the item on its way for its node and kind. -/
theorem Line.offer_normal_onItsWay (band : it.origin.band = .normal) (up : x.down = false)
    (noRival : ∀ u ∈ x.urgent, u.rivals it = false)
    (place : x.queued.length < 32 ∨ ∃ y ∈ x.queued, y.rivals it = true) :
    (x.offer it).1.onItsWay it.node it.kind = some it := by
  have none : (x.urgent.any it.rivals) = false := by
    simpa [List.any_eq_false, Item.rivals_comm it] using noRival
  unfold Line.offer Line.onItsWay
  simp only [band, Band.other, Line.band, none, up, Bool.false_eq_true, if_false]
  by_cases merged : x.normal.any it.rivals = true
  · rw [if_pos merged]
    simp only [Line.withBand, Line.queued, List.find?_append, find_of_no_rival noRival, find_mergeInto merged,
      Option.none_or, Option.some_or]
  · have noNormal : ∀ y ∈ x.normal, y.rivals it = false := by
      simpa [List.any_eq_false, Item.rivals_comm it] using merged
    have room : x.queued.length < 32 := by
      refine place.resolve_right ?_
      rintro ⟨y, mem, rival⟩
      rcases List.mem_append.mp mem with urgent | normal
      · rw [noRival y urgent] at rival; cases rival
      · rw [noNormal y normal] at rival; cases rival
    rw [if_neg merged, if_pos room]
    simp [Line.withBand, Line.queued, List.find?_append, find_of_no_rival noRival, find_of_no_rival noNormal]

end

/-- An offer that displaces nothing is its line's alone. -/
theorem offer_of_out_nil {l : LineId} {it : Item} {s : State} (h : ((s.line l).offer it).2.1 = []) :
    (offer l it s).1 = onLine l (fun _ => ((s.line l).offer it).1) s := by
  unfold offer
  simp only [h]

/-! ### The node override, composed and examined (R122, R130, R133) -/

/-- Where nothing protects the node and no window is open for it, its override is its target. -/
theorem compose_override {s : State} {r : RoomId} {role : Role} {p : Plan} {value : Nat}
    (view : (s.view r).isSome = true) (free : ∀ f, role.family = some f → s.protection r f = none)
    (windows : role = .damper → (s.room r).windows = []) (override : p.override = some value) :
    compose s r role p = some (plain value) := by
  obtain ⟨v, hv⟩ := Option.isSome_iff_exists.mp view
  have unprotected : role.family.bind (s.protection r) = none := by
    cases f : role.family with
    | none => rfl
    | some f' => exact free f' f
  have shut : ¬ (role = .damper ∧ (s.room r).windows ≠ []) := fun h => h.2 (windows h.1)
  simp only [compose, hv, unprotected, if_neg shut, override]

theorem examine_of_none {link : Option RoomId} {n : NodeRef} {s : State}
    (h : ∀ e p, s.entry n = some e → s.plan n = some p → examined s n e p = none) : examine link n s = s := by
  unfold examine
  split
  · rename_i e p entry plan
    rw [h e p entry plan]
  · rfl

/-- A target that is on its way is not offered again (R133). -/
theorem examined_of_onItsWay {s : State} {n : NodeRef} {e : NodeEntry} {p : Plan} {t : Target} {it : Item}
    (target : p.target = some t) (way : (s.line n.line).onItsWay n.addr e.role.kind = some it)
    (same : it.value = t.value) : examined s n e p = none := by
  unfold examined
  simp only [target, way, same, ne_eq, not_true_eq_false, if_false, ite_self]

theorem composeNode_lc (n : NodeRef) (s : State) : (composeNode n s).lc = s.lc := by
  unfold composeNode; split <;> rfl

theorem composeNode_plan_ne {m n : NodeRef} (h : m ≠ n) (s : State) : (composeNode n s).plan m = s.plan m := by
  unfold composeNode
  split
  · exact plan_onPlan_ne h _ s
  · rfl

theorem composeNode_of_entry {n : NodeRef} {s : State} {e : NodeEntry} (h : s.entry n = some e) :
    composeNode n s = onPlan n (fun p => p.take (compose s e.room e.role p)) s := by
  simp only [composeNode, h]

/-- With an empty inbox and no NOTICE owed, the end of an event does nothing. -/
theorem endEvent_of_quiet {s : State} (handed : s.ap.handed = []) (freed : s.ap.freed = []) (settled : s.Settled) :
    endEvent s = s := by
  rw [endEvent, settle_of_empty handed freed, buildNotices_settled s settled]

/-- The item of an admitted PASS is on its way once offered. -/
theorem PassAdmitted.onItsWay {s : State} {c : PassCommand} {e : NodeEntry} (admitted : PassAdmitted s c e) (tag : Byte)
    (noRival : ∀ u ∈ (s.line c.ref.line).urgent, u.rivals (c.item tag) = false) :
    ((s.line c.ref.line).offer (c.item tag)).1.onItsWay c.ref.addr c.kind = some (c.item tag) := by
  have place : (s.line c.ref.line).queued.length < 32 ∨
      ∃ y ∈ (s.line c.ref.line).queued, y.rivals (c.item tag) = true := by
    refine admitted.place.imp_right ?_
    rintro ⟨y, mem, node, kind⟩
    exact ⟨y, mem, by simp [Item.rivals, PassCommand.item, node, kind]⟩
  exact Line.offer_normal_onItsWay (it := c.item tag) rfl admitted.reach.1 noRival place

/-- The state once the item is offered: its line has it, or has merged it. -/
def offeredPass (tag : Byte) (c : PassCommand) (s : State) : State :=
  onLine c.ref.line (fun _ => ((s.line c.ref.line).offer (c.item tag)).1) s

/-- The state once AP has taken the node override too. -/
def heldPass (tag : Byte) (c : PassCommand) (s : State) : State :=
  composeNode c.ref (onPlan c.ref (fun p => { p with override := some c.value }) (offeredPass tag c s))

theorem offeredPass_only (tag : Byte) (c : PassCommand) (s : State) : OnlyActuation s (offeredPass tag c s) :=
  onLine_only _ _ s (Line.offer_frame _ _) (Line.offer_fits _ _)

theorem heldPass_only (tag : Byte) (c : PassCommand) (s : State) : OnlyActuation s (heldPass tag c s) :=
  .trans (offeredPass_only tag c s)
    (.trans (onPlan_only c.ref (fun p => { p with override := some c.value }) _ fun _ _ => rfl) (composeNode_only _ _))

theorem heldPass_line (tag : Byte) (c : PassCommand) (s : State) (l : LineId) :
    (heldPass tag c s).line l = (offeredPass tag c s).line l := by
  simp only [State.line, heldPass, composeNode_lc, onPlan_lc]

theorem heldPass_plan_ne (tag : Byte) (c : PassCommand) (s : State) {n : NodeRef} (h : n ≠ c.ref) :
    (heldPass tag c s).plan n = s.plan n := by
  rw [heldPass, composeNode_plan_ne h, plan_onPlan_ne h]
  rfl

section
variable {s : State} {c : PassCommand} {e : NodeEntry} (tag : Byte) (admitted : PassAdmitted s c e)
  (noRival : ∀ u ∈ (s.line c.ref.line).urgent, u.rivals (c.item tag) = false)
  (view : (s.view e.room).isSome = true) (sets : c.kind.setsValue = true)

section
include admitted view sets

/-- What composition gives a node that holds the override of an admitted PASS (R122). -/
theorem PassAdmitted.compose {t : State} (only : OnlyActuation s t) (sameView : t.view e.room = s.view e.room)
    {p : Plan} (override : p.override = some c.value) : compose t e.room e.role p = some (plain c.value) := by
  refine compose_override (by rwa [sameView]) (fun f hf => ?_) (fun damper => ?_) override
  · have := admitted.free f hf
    simpa only [State.protection, State.source, only.pu] using this
  · have flow : c.kind = .setFlow := by rw [← kind_of_accepts admitted.role sets, damper]; rfl
    rw [only.room]
    exact admitted.room.2 flow

/-- The node's plan entry then has the override, and its value as the target. -/
theorem PassAdmitted.plan {p : Plan} (plan : s.plan c.ref = some p) :
    ∃ q, (heldPass tag c s).plan c.ref = some q ∧ q.override = some c.value ∧ q.target = some (plain c.value) := by
  have overridden := (offeredPass_only tag c s).trans
    (onPlan_only c.ref (fun p => { p with override := some c.value }) _ fun _ _ => rfl)
  have entry : (onPlan c.ref (fun p => { p with override := some c.value }) (offeredPass tag c s)).entry c.ref = some e :=
    (overridden.entry _).trans admitted.entry
  have planned : (offeredPass tag c s).plan c.ref = some p := plan
  have held : (heldPass tag c s).plan c.ref =
      some (Plan.take { p with override := some c.value } (some (plain c.value))) := by
    rw [heldPass, composeNode_of_entry entry, plan_onPlan, plan_onPlan, planned, Option.map_some, Option.map_some,
      admitted.compose view sets overridden rfl rfl]
  exact ⟨_, held, by simp, by simp⟩

end

include admitted noRival

/-- PF and AP carry out an admitted PASS that sets a value: AP's examination finds the item on its way, so that it offers
nothing more. -/
theorem admitPass_sets (view : (s.view e.room).isSome = true) (sets : c.kind.setsValue = true)
    (handed : s.ap.handed = []) (freed : s.ap.freed = []) (settled : s.Settled) :
    admitPass tag c s = heldPass tag c s := by
  have only := heldPass_only tag c s
  have examined : examine none c.ref (heldPass tag c s) = heldPass tag c s := by
    refine examine_of_none fun e' q entry plan => ?_
    rw [only.entry, admitted.entry] at entry
    cases entry
    obtain ⟨p, planned⟩ : ∃ p, s.plan c.ref = some p := by
      have := only.plans c.ref
      rw [plan, Option.map_some, eq_comm, Option.map_eq_some_iff] at this
      exact ⟨_, this.choose_spec.1⟩
    obtain ⟨q', held, -, target⟩ := admitted.plan tag view sets planned
    cases held.symm.trans plan
    refine examined_of_onItsWay target (it := c.item tag) ?_ rfl
    rw [heldPass_line, kind_of_accepts admitted.role sets, offeredPass, line_onLine]
    exact admitted.onItsWay tag noRival
  have quiet : endEvent (heldPass tag c s) = heldPass tag c s := by
    have ap : (heldPass tag c s).ap.handed = [] ∧ (heldPass tag c s).ap.freed = [] := by
      unfold heldPass composeNode
      split <;> exact ⟨handed, freed⟩
    exact endEvent_of_quiet ap.1 ap.2 (by rw [State.Settled, only.nu]; exact settled)
  unfold admitPass
  rw [offer_of_out_nil (Line.offer_normal_out rfl noRival)]
  simp only [sets, if_true]
  exact (congrArg endEvent examined).trans quiet

end

/-- PF carries out an admitted STOP or QUERY: its item is offered, and AP's plan is left alone. -/
theorem admitPass_asks {s : State} {c : PassCommand} (tag : Byte)
    (noRival : ∀ u ∈ (s.line c.ref.line).urgent, u.rivals (c.item tag) = false) (asks : c.kind.setsValue = false)
    (handed : s.ap.handed = []) (freed : s.ap.freed = []) (settled : s.Settled) :
    admitPass tag c s = offeredPass tag c s := by
  unfold admitPass
  rw [offer_of_out_nil (Line.offer_normal_out rfl noRival)]
  simp only [asks, Bool.false_eq_true, if_false]
  exact endEvent_of_quiet handed freed settled

theorem execPass_admitted {s : State} {tag : Byte} {payload : List Byte} {c : PassCommand}
    (taken : s.nextFrame = some { kind := .pass, tag := tag, payload := payload })
    (admitted : judgePass s payload = .ok c) : execPass s = .next (admitPass tag c (dropFrame s)) := by
  simp [execPass, taken, admitted]

theorem setsValue_iff (k : CmdKind) : k.setsValue = false ↔ k = .stop ∨ k = .query := by
  cases k <;> simp [CmdKind.setsValue]

/-- Settles O10, by `admitPass_sets` and `admitPass_asks`. -/
theorem admittedPassIsPlacedAndHeld : Obligations.AdmittedPassIsPlacedAndHeld := by
  intro s tag payload c taken judged settled handed freed item noRival views
  obtain ⟨e, admitted⟩ := judgePass_eq_ok judged
  have view := views e admitted.entry
  have here : PassAdmitted (dropFrame s) c e := { admitted with }
  have offered : ∀ l, l ≠ c.ref.line → (offeredPass tag c (dropFrame s)).line l = s.line l :=
    fun l other => line_onLine_ne other _ _
  have itsLine : (offeredPass tag c (dropFrame s)).line c.ref.line = ((s.line c.ref.line).offer item).1 :=
    line_onLine _ _ _
  refine ⟨_, execPass_admitted taken judged, ?_⟩
  cases sets : c.kind.setsValue with
  | true =>
    have value : ¬ (c.kind = .stop ∨ c.kind = .query) := by rw [← setsValue_iff, sets]; decide
    rw [admitPass_sets tag here noRival view sets handed freed settled]
    refine ⟨heldPass_only tag c _, (heldPass_line ..).trans itsLine, fun l other => (heldPass_line ..).trans (offered l other),
      fun n other => heldPass_plan_ne tag c _ other, fun asks => absurd asks value, fun _ _ e' p entry plan => ?_⟩
    cases admitted.entry.symm.trans entry
    obtain ⟨q, planned, override, target⟩ := here.plan tag view sets plan
    have sameView : (heldPass tag c (dropFrame s)).view e.room = (dropFrame s).view e.room := by
      unfold heldPass composeNode
      split <;> rfl
    exact ⟨q, planned, override, by
      rw [target, here.compose view sets (heldPass_only tag c _) sameView override]; rfl⟩
  | false =>
    have asks := (setsValue_iff c.kind).mp sets
    rw [admitPass_asks (s := dropFrame s) tag noRival sets handed freed settled]
    exact ⟨offeredPass_only tag c _, itsLine, offered, fun _ _ => rfl, fun _ => rfl,
      fun noStop noQuery => absurd asks (not_or.mpr ⟨noStop, noQuery⟩)⟩

end Sys2Proof.Machine
end

section
/-!
PROOFS. Line frames that deliver nothing, and the ECHO of the item in flight (R9, R14, R20, R28, R29, R31, R133, R135, R137,
R140). `Settles` says what examinations, a mirror frame and the end of an event leave of a state.
-/

namespace Sys2Proof.Machine

/-! ### Invalid frames (R9) -/

section
variable {l : LineId} {s : State} (hears : s.hears = true)
include hears

theorem exec_report (a : NodeAddr) (code : ReportCode) (v : Half) :
    exec (.report l a code v) s = .next (if a = 0 then countInvalid l s else takeReport ⟨l, a⟩ code v s) := by
  simp only [exec, execReport, heard, hears, if_true]

theorem exec_arrived (a : NodeAddr) (position : Byte) :
    exec (.arrived l a position) s =
      .next (if a = 0 ∨ 100 < position.toNat then countInvalid l s else takeArrived ⟨l, a⟩ position s) := by
  simp only [exec, execArrived, heard, hears, if_true]

theorem exec_echo (a : NodeAddr) (status current : Half) :
    exec (.echo l a status current) s =
      .next (if a = 0 then countInvalid l s else takeEcho ⟨l, a⟩ status current s) := by
  simp only [exec, execEcho, heard, hears, if_true]

theorem exec_invalidLineFrame {f : RawFrame} (invalid : lineMessage f = none) :
    exec (.invalidLineFrame l f) s = .next (countInvalid l s) := by
  simp only [exec, execInvalidLineFrame, heard, hears, invalid, Option.isNone_none, if_true]

end

/-- A frame of node 0, or of a kind no node sends, is invalid. -/
theorem lineMessage_of_bytes {f : RawFrame} {node kind : Byte} {rest : List Byte} (bytes : f.bytes = node :: kind :: rest)
    (h : node = 0 ∨ (kind ≠ 1 ∧ kind ≠ 2 ∧ kind ≠ 3)) : lineMessage f = none := by
  have noNode : nodeOf 0 = none := rfl
  have byte : ∀ x : Byte, kind ≠ x → kind.toNat ≠ x.toNat := fun x ne e => ne (BitVec.eq_of_toNat_eq e)
  unfold lineMessage
  split
  · rfl
  split
  · rfl
  rw [bytes]
  split
  · rename_i node' kind' len payload body
    have same : node' = node ∧ kind' = kind := by
      cases rest with
      | nil => cases body
      | cons x rest =>
        rw [List.dropLast_cons_of_ne_nil (by simp), List.dropLast_cons_of_ne_nil (by simp)] at body
        simp only [List.cons.injEq] at body
        exact ⟨body.1.symm, body.2.1.symm⟩
    obtain ⟨rfl, rfl⟩ := same
    rcases h with rfl | ⟨h1, h2, h3⟩
    · rw [noNode]
    · split
      · exact absurd ‹_› (byte 1 h1)
      · exact absurd ‹_› (byte 2 h2)
      · exact absurd ‹_› (byte 3 h3)
      · rfl
  · rfl

/-! ### What examinations and the end of an event leave -/

/-- From `u` to `t` AP examines, NOTICE and MIRROR frames are built, and nothing else happens: lines but for their queues, plan
entries but for the deferred flag, and the blocks that take no part, are as before. -/
structure Settles (u t : State) : Prop where
  lines : ∀ l, (t.line l).frame = (u.line l).frame
  plans : ∀ n, (t.plan n).map Plan.kept = (u.plan n).map Plan.kept
  notices : ∀ r, t.notice r = u.notice r
  re : t.re = u.re
  tu : t.tu = u.tu
  cl : t.cl = u.cl
  pu : t.pu = u.pu

namespace Settles

theorem refl (u : State) : Settles u u := ⟨fun _ => rfl, fun _ => rfl, fun _ => rfl, rfl, rfl, rfl, rfl⟩

theorem trans {a b c : State} (h : Settles a b) (k : Settles b c) : Settles a c where
  lines l := (k.lines l).trans (h.lines l)
  plans n := (k.plans n).trans (h.plans n)
  notices r := (k.notices r).trans (h.notices r)
  re := k.re.trans h.re
  tu := k.tu.trans h.tu
  cl := k.cl.trans h.cl
  pu := k.pu.trans h.pu

theorem examine (link : Option RoomId) (n : NodeRef) (u : State) : Settles u (Machine.examine link n u) :=
  have h := examine_only link n u
  ⟨h.lines, fun m => examine_kept link n m u, h.notice, h.re, h.tu, h.cl, h.pu⟩

theorem offerTx (f : TxFrame) (u : State) : Settles u (Machine.offerTx f u) := by
  have h := offerTx_work f u
  have rest := offerTx_rest f u
  have lc : (Machine.offerTx f u).lc = u.lc := have e := congrArg State.lc rest; e
  have ap : (Machine.offerTx f u).ap = u.ap := have e := congrArg State.ap rest; e
  have nu : (Machine.offerTx f u).nu = u.nu := have e := congrArg State.nu rest; e
  have re : (Machine.offerTx f u).re = u.re := have e := congrArg State.re rest; e
  exact ⟨fun l => by simp only [State.line, lc], fun n => by simp only [State.plan, ap],
    fun r => by simp only [State.notice, nu], re, h.tu, h.cl, h.pu⟩

theorem endEvent (u : State) : Settles u (Machine.endEvent u) :=
  have h := endEvent_work u
  ⟨h.lines, fun n => by rw [Machine.endEvent, buildNotices_plan]; exact settle_kept n u, fun r => endEvent_notice r u,
    endEvent_re u, h.tu, h.cl, h.pu⟩

variable {u t : State} (h : Settles u t)
include h

theorem entry (n : NodeRef) : t.entry n = u.entry n := by
  have nodes : (t.line n.line).nodes = (u.line n.line).nodes :=
    have e := congrArg Line.nodes (h.lines n.line); e
  simp only [State.entry, nodes]

theorem room (r : RoomId) : t.room r = u.room r := by simp only [State.room, h.re]

end Settles

/-! ### Node health (R20, R32) -/

theorem onLine_self {l : LineId} {f : Line → Line} {s : State} (h : f (s.line l) = s.line l) : onLine l f s = s := by
  unfold onLine
  rw [h]
  simp [State.line]

theorem setHealth_of_none {n : NodeRef} {s : State} (h : s.entry n = none) (health : Health) (missed : Bool) :
    setHealth n health missed s = s := by
  unfold setHealth onEntry setEntry
  refine onLine_self ?_
  rw [h, Option.map_none, ← h]
  simp [State.entry]

/-- A node that is heard becomes ONLINE, and AP examines it at most (R136). -/
theorem hearNode_settles (n : NodeRef) (s : State) : Settles (setHealth n .online false s) (hearNode n s) := by
  unfold hearNode
  split
  · split
    · exact .refl _
    · exact .examine none n _
  · rename_i absent
    rw [setHealth_of_none absent]
    exact .refl s

theorem onLine_onLine (l : LineId) (f g : Line → Line) (s : State) :
    onLine l f (onLine l g s) = onLine l (fun x => f (g x)) s := by
  have twice : put (put s.lc.lines l (g (s.line l))) l (f (g (s.line l))) = put s.lc.lines l (f (g (s.line l))) :=
    Vector.set_set _ l.isLt
  rw [onLine, line_onLine]
  simp only [onLine, twice]

theorem entry_onLine {l : LineId} {f : Line → Line} (keeps : ∀ x, (f x).nodes = x.nodes) (n : NodeRef) (s : State) :
    (onLine l f s).entry n = s.entry n := by
  unfold State.entry
  by_cases e : n.line = l
  · rw [e, line_onLine, keeps]
  · rw [line_onLine_ne e]

/-- A line's record after a change of one node's health: all but its node table. -/
theorem line_setHealth (n : NodeRef) (h : Health) (m : Bool) (s : State) (l : LineId) :
    { (setHealth n h m s).line l with nodes := (s.line l).nodes } = s.line l := by
  unfold setHealth onEntry setEntry
  by_cases e : l = n.line
  · rw [e, line_onLine]
  · rw [line_onLine_ne e]

theorem entry_setHealth (n : NodeRef) (h : Health) (m : Bool) (s : State) :
    (setHealth n h m s).entry n = (s.entry n).map fun e => { e with health := h, missed := m } :=
  entry_setEntry _ _ _

theorem entry_setHealth_ne {k n : NodeRef} (ne : k ≠ n) (h : Health) (m : Bool) (s : State) :
    (setHealth n h m s).entry k = s.entry k := entry_setEntry_ne ne _ _

/-! ### A late echo (R31) -/

/-- The line's own part in a valid frame while it is not DOWN (R20). -/
theorem validFrame_up {l : LineId} {sender : NodeAddr} {s : State} (up : (s.line l).down = false) :
    validFrame l sender s = onLine l (fun x =>
      { x with timeouts := 0, counts := { x.counts with validFrames := x.counts.validFrames + 1 } }) s := by
  unfold validFrame
  simp only [up, Bool.false_eq_true, if_false]

/-- The state of a late echo, before AP examines the node. -/
def lateHeard (n : NodeRef) (s : State) : State :=
  setHealth n .online false (countLine n.line (fun c => { c with lateEchoes := c.lateEchoes + 1 })
    (validFrame n.line n.addr s))

section
variable {n : NodeRef} {s : State} (up : (s.line n.line).down = false)
include up

theorem lateHeard_eq : lateHeard n s = setHealth n .online false (onLine n.line (fun x =>
    { x with
      timeouts := 0
      counts := { x.counts with validFrames := x.counts.validFrames + 1, lateEchoes := x.counts.lateEchoes + 1 } }) s) := by
  rw [lateHeard, validFrame_up up]
  simp [countLine, onLine_onLine]

/-- The line of a late echo: its counts and its timeouts in a row; its node table apart. -/
theorem lateHeard_line : { (lateHeard n s).line n.line with nodes := (s.line n.line).nodes } =
    { s.line n.line with
      timeouts := 0
      counts := { (s.line n.line).counts with
        validFrames := (s.line n.line).counts.validFrames + 1, lateEchoes := (s.line n.line).counts.lateEchoes + 1 } } := by
  rw [lateHeard_eq up]
  have h := line_setHealth n .online false (onLine n.line (fun x =>
    { x with
      timeouts := 0
      counts := { x.counts with validFrames := x.counts.validFrames + 1, lateEchoes := x.counts.lateEchoes + 1 } }) s) n.line
  rwa [line_onLine] at h

theorem lateHeard_entry : (lateHeard n s).entry n =
    (s.entry n).map fun e => { e with health := .online, missed := false } := by
  rw [lateHeard_eq up, entry_setHealth, entry_onLine (by simp)]

theorem lateHeard_entry_ne {m : NodeRef} (ne : m ≠ n) : (lateHeard n s).entry m = s.entry m := by
  rw [lateHeard_eq up, entry_setHealth_ne ne, entry_onLine (by simp)]

/-- No other block takes part. -/
theorem lateHeard_rest : { lateHeard n s with lc := s.lc } = s := by
  rw [lateHeard_eq up]
  rfl

theorem takeEcho_late (status current : Half)
    (other : ∀ it, (s.line n.line).inFlight = some it → it.node ≠ n.addr ∨ s.entry n = none) :
    Settles (lateHeard n s) (takeEcho n status current s) := by
  have entry : (validFrame n.line n.addr s).entry n = s.entry n := by
    rw [validFrame_up up]; exact entry_onLine (by simp) n s
  have late : takeEcho n status current s = endEvent (lateEcho n (validFrame n.line n.addr s)) := by
    unfold takeEcho
    dsimp only
    split
    · rename_i it flight
      rw [validFrame_up up, line_onLine] at flight
      refine if_neg fun mine => ?_
      rw [entry] at mine
      rcases other it flight with elsewhere | absent
      · exact elsewhere mine.1
      · rw [absent] at mine; cases mine.2
    · rfl
  rw [late]
  exact (hearNode_settles n _).trans (.endEvent _)

end

/-- Settles O18: what an invalid frame is, and a late echo by `takeEcho_late`. -/
theorem otherLineFramesDeliverNothing : Obligations.OtherLineFramesDeliverNothing := by
  constructor
  · intro l s hears counted
    exact ⟨fun f => exec_invalidLineFrame hears,
      fun f node kind rest bytes h => exec_invalidLineFrame hears (lineMessage_of_bytes bytes h),
      exec_report hears 0, exec_arrived hears 0,
      fun a pos high => (exec_arrived hears a pos).trans (by rw [if_pos (.inr high)]; rfl), exec_echo hears 0⟩
  · intro l a status current s hears node up other
    have settles := takeEcho_late (n := ⟨l, a⟩) up status current other
    have rest := lateHeard_rest (n := ⟨l, a⟩) up
    have line : { ((takeEcho ⟨l, a⟩ status current s).line l).frame with nodes := (s.line l).nodes } = Line.frame _ :=
      (congrArg (fun x : Line => { x with nodes := (s.line l).nodes }) (settles.lines l)).trans
        (congrArg Line.frame (lateHeard_line (n := ⟨l, a⟩) up))
    have plan : ∀ m, (lateHeard ⟨l, a⟩ s).plan m = s.plan m :=
      fun m => by have e := congrArg (State.plan · m) rest; exact e
    refine ⟨_, (exec_echo hears a status current).trans (by rw [if_neg node]), ?_⟩
    have field : ∀ {α : Type} (f : Line → α), f _ = f _ := fun f => congrArg f line
    refine ⟨field (·.counts.lateEchoes), field (·.counts.validFrames), field Line.timeouts, ?_, ?_, ?_, ?_,
      (settles.entry _).trans (lateHeard_entry up), fun m ne => (settles.entry m).trans (lateHeard_entry_ne up ne),
      fun m => (settles.plans m).trans (by rw [plan]), settles.re.trans ?_, settles.tu.trans ?_, settles.cl.trans ?_,
      settles.pu.trans ?_⟩
    · exact field (·.counts.delivered)
    · exact field Line.inFlight
    · exact field Line.echoTimer
    · exact field Line.follow
    · have e := congrArg State.re rest; exact e
    · have e := congrArg State.tu rest; exact e
    · have e := congrArg State.cl rest; exact e
    · have e := congrArg State.pu rest; exact e

end Sys2Proof.Machine
end

section
/-!
PROOFS. Where an offered item goes (R23, R24, R36), said once: an equation for each outcome of an offer, and the outcomes as the
only ones there are.
-/

namespace Sys2Proof.Machine

theorem Item.rivals_iff {a b : Item} : a.rivals b = true ↔ a.node = b.node ∧ a.kind = b.kind := by
  simp [Item.rivals]

theorem mergeInto_eq (it : Item) (q : List Item) :
    mergeInto it q = q.map fun r => if r.node = it.node ∧ r.kind = it.kind then it else r := by
  simp [mergeInto, Item.rivals_iff]

/-- Which band comes first is the only thing a queue's order says of the bands. -/
theorem Line.mem_queued_iff {x : Line} {r : Item} (b : Band) : r ∈ x.queued ↔ r ∈ x.band b ∨ r ∈ x.band b.other := by
  cases b <;> simp [Line.queued, Line.band, Band.other, or_comm]

/-! ### An equation for each outcome -/

section
variable {x : Line} {it : Item}

theorem Line.offer_down (down : x.down = true) : x.offer it = (x, [], .down) := by
  simp [Line.offer, down]

theorem Line.offer_merged (up : x.down = false) (rival : ∃ r ∈ x.band it.origin.band, it.rivals r = true) :
    x.offer it = ({ x.withBand it.origin.band (mergeInto it (x.band it.origin.band)) with
      counts := x.counts.addAccepted.addSuperseded 1 }, [], .merged) := by
  simp [Line.offer, up, List.any_eq_true.mpr rival]

theorem any_rivals_eq_false {q : List Item} (h : ∀ r ∈ q, it.rivals r = false) : q.any it.rivals = false := by
  simpa [List.any_eq_false] using h

theorem Line.offer_moved (up : x.down = false) (own : ∀ r ∈ x.band it.origin.band, it.rivals r = false)
    (rival : ∃ r ∈ x.band it.origin.band.other, it.rivals r = true) :
    x.offer it =
      ({ (x.withBand it.origin.band.other ((x.band it.origin.band.other).filter fun r => !it.rivals r)).withBand
            it.origin.band (x.band it.origin.band ++ [it]) with
          counts := x.counts.addAccepted.addSuperseded ((x.band it.origin.band.other).filter it.rivals).length },
        (x.band it.origin.band.other).filter it.rivals, .placed) := by
  simp [Line.offer, up, any_rivals_eq_false own, List.any_eq_true.mpr rival]

section
variable (up : x.down = false) (none : ∀ r ∈ x.queued, it.rivals r = false)
include up none

/-- Without a rival the number of items queued decides. -/
theorem Line.offer_of_no_rival : x.offer it =
    if x.queued.length < 32 then
      ({ x.withBand it.origin.band (x.band it.origin.band ++ [it]) with counts := x.counts.addAccepted }, [], .placed)
    else
      match it.origin.band, x.normal.getLast? with
      | .urgent, some newest =>
        ({ x with urgent := x.urgent ++ [it], normal := x.normal.dropLast
                  counts := x.counts.addAccepted.addSuperseded 1 }, [newest], .placed)
      | _, _ => (x, [], .full) := by
  have own := any_rivals_eq_false fun r mem => none r ((Line.mem_queued_iff it.origin.band).mpr (.inl mem))
  have other := any_rivals_eq_false fun r mem => none r ((Line.mem_queued_iff it.origin.band).mpr (.inr mem))
  unfold Line.offer
  dsimp only
  rw [if_neg (by simp [up]), if_neg (by simp [own]), if_neg (by simp [other])]
  cases it.origin.band <;> rfl

theorem Line.offer_joined (place : x.queued.length < 32) :
    x.offer it =
      ({ x.withBand it.origin.band (x.band it.origin.band ++ [it]) with counts := x.counts.addAccepted }, [], .placed) := by
  rw [Line.offer_of_no_rival up none, if_pos place]

theorem Line.offer_full (full : 32 ≤ x.queued.length) (h : it.origin.band = .normal ∨ x.normal = []) :
    x.offer it = (x, [], .full) := by
  rw [Line.offer_of_no_rival up none, if_neg (by omega)]
  rcases h with band | empty
  · simp [band]
  · simp [empty]

theorem Line.offer_displaced (full : 32 ≤ x.queued.length) (urgent : it.origin.band = .urgent) {older : List Item}
    {newest : Item} (last : x.normal = older ++ [newest]) :
    x.offer it = ({ x with urgent := x.urgent ++ [it], normal := older
                           counts := x.counts.addAccepted.addSuperseded 1 }, [newest], .placed) := by
  rw [Line.offer_of_no_rival up none, if_neg (by omega)]
  simp [urgent, last]

end

end

/-- Settles O15, by the equation of each outcome. -/
theorem offeredItemIsPlacedByItsRivals : Obligations.OfferedItemIsPlacedByItsRivals := by
  intro x it c own mine theirs
  refine ⟨Line.offer_down, fun up rival => ?_, Line.offer_moved, Line.offer_joined, fun up none full => ?_⟩
  · rw [Line.offer_merged up rival, mergeInto_eq]
    rfl
  · exact ⟨Line.offer_full up none full, fun urgent older newest => Line.offer_displaced up none full urgent⟩

/-! ### There is no other outcome -/

/-- The outcomes of an offer: the line afterwards, what left its queue, the answer. -/
inductive Line.Offered (x : Line) (it : Item) : Line × List Item × OfferAnswer → Prop
  | down (down : x.down = true) : Offered x it (x, [], .down)
  | merged (up : x.down = false) (rival : ∃ r ∈ x.band it.origin.band, it.rivals r = true) :
    Offered x it ({ x.withBand it.origin.band (mergeInto it (x.band it.origin.band)) with
      counts := x.counts.addAccepted.addSuperseded 1 }, [], .merged)
  | moved (up : x.down = false) (own : ∀ r ∈ x.band it.origin.band, it.rivals r = false)
    (rival : ∃ r ∈ x.band it.origin.band.other, it.rivals r = true) :
    Offered x it
      ({ (x.withBand it.origin.band.other ((x.band it.origin.band.other).filter fun r => !it.rivals r)).withBand
            it.origin.band (x.band it.origin.band ++ [it]) with
          counts := x.counts.addAccepted.addSuperseded ((x.band it.origin.band.other).filter it.rivals).length },
        (x.band it.origin.band.other).filter it.rivals, .placed)
  | joined (up : x.down = false) (none : ∀ r ∈ x.queued, it.rivals r = false) (place : x.queued.length < 32) :
    Offered x it
      ({ x.withBand it.origin.band (x.band it.origin.band ++ [it]) with counts := x.counts.addAccepted }, [], .placed)
  | full (up : x.down = false) (none : ∀ r ∈ x.queued, it.rivals r = false) (full : 32 ≤ x.queued.length)
    (h : it.origin.band = .normal ∨ x.normal = []) : Offered x it (x, [], .full)
  | displaced (up : x.down = false) (none : ∀ r ∈ x.queued, it.rivals r = false) (full : 32 ≤ x.queued.length)
    (urgent : it.origin.band = .urgent) (older : List Item) (newest : Item) (last : x.normal = older ++ [newest]) :
    Offered x it ({ x with urgent := x.urgent ++ [it], normal := older
                           counts := x.counts.addAccepted.addSuperseded 1 }, [newest], .placed)

theorem Line.offer_offered (x : Line) (it : Item) : x.Offered it (x.offer it) := by
  cases down : x.down with
  | true => rw [Line.offer_down down]; exact .down down
  | false =>
    by_cases own : ∃ r ∈ x.band it.origin.band, it.rivals r = true
    · rw [Line.offer_merged down own]; exact .merged down own
    have own : ∀ r ∈ x.band it.origin.band, it.rivals r = false := by simpa using own
    by_cases other : ∃ r ∈ x.band it.origin.band.other, it.rivals r = true
    · rw [Line.offer_moved down own other]; exact .moved down own other
    have none : ∀ r ∈ x.queued, it.rivals r = false := fun r mem =>
      ((Line.mem_queued_iff it.origin.band).mp mem).elim (own r) ((by simpa using other : ∀ r ∈ x.band _, it.rivals r = false) r)
    by_cases place : x.queued.length < 32
    · rw [Line.offer_joined down none place]; exact .joined down none place
    have full : 32 ≤ x.queued.length := by omega
    by_cases refused : it.origin.band = .normal ∨ x.normal = []
    · rw [Line.offer_full down none full refused]; exact .full down none full refused
    · rw [not_or] at refused
      have urgent : it.origin.band = .urgent := by
        cases band : it.origin.band with
        | urgent => rfl
        | normal => exact absurd band refused.1
      have last := (List.dropLast_append_getLast refused.2).symm
      rw [Line.offer_displaced down none full urgent last]
      exact .displaced down none full urgent _ _ last

end Sys2Proof.Machine
end

section
/-!
PROOFS. The line queues and the sum of R42 that every step keeps (R21, R22, R42). `KeepsQueues` says it of a piece of work; an
offer, a removal and the end of an item in flight keep both on their line, all other work leaves both alone, and the step
follows by its commands.
-/

namespace Sys2Proof.Machine

/-! ### The two laws of a line, in the form the proofs use -/

/-- What makes two items rivals (R22, R23). -/
def Item.key (it : Item) : NodeAddr × CmdKind := (it.node, it.kind)

theorem Item.rivals_eq_false_iff {a b : Item} : a.rivals b = false ↔ a.key ≠ b.key := by
  simp [← Bool.not_eq_true, Item.rivals_iff, Item.key]

/-- A line queue in terms of its bands and its items' keys (R21, R22). -/
theorem Line.queue_iff (x : Line) :
    x.Queue ↔ (∀ b, ∀ it ∈ x.band b, it.origin.band = b) ∧ (x.queued.map Item.key).Nodup := by
  have single : (x.queued.Pairwise fun a b => a.rivals b = false) ↔ (x.queued.map Item.key).Nodup := by
    rw [List.Nodup, List.pairwise_map]
    simp only [Item.rivals_eq_false_iff]
  refine ⟨fun ⟨urgent, normal, h⟩ => ⟨fun b => ?_, single.mp h⟩, fun ⟨bands, h⟩ =>
    ⟨bands .urgent, bands .normal, single.mpr h⟩⟩
  cases b
  · exact urgent
  · exact normal

/-- The items that have been accepted and have not ended (R42). -/
def Line.pending (x : Line) : Nat := x.queued.length + if x.inFlight.isSome then 1 else 0

/-- The items that have ended, one count for each way (R42). -/
def LineCounts.ended (c : LineCounts) : Word := c.delivered + c.timedOut + c.superseded + c.flushed

theorem Line.balanced_iff (x : Line) :
    x.Balanced ↔ x.counts.accepted = x.counts.ended + BitVec.ofNat 32 x.pending := Iff.rfl

/-- What joins is accepted, and what is no longer pending has ended. -/
theorem Line.Balanced.moves {x y : Line} (h : x.Balanced) {joined left : Nat}
    (accepted : y.counts.accepted = x.counts.accepted + BitVec.ofNat 32 joined)
    (ended : y.counts.ended = x.counts.ended + BitVec.ofNat 32 left) (pending : y.pending + left = x.pending + joined) :
    y.Balanced := by
  rw [Line.balanced_iff] at h ⊢
  calc y.counts.accepted
    _ = x.counts.ended + (BitVec.ofNat 32 x.pending + BitVec.ofNat 32 joined) := by rw [accepted, h, BitVec.add_assoc]
    _ = x.counts.ended + (BitVec.ofNat 32 y.pending + BitVec.ofNat 32 left) := by
      rw [← BitVec.ofNat_add, ← pending, BitVec.ofNat_add]
    _ = y.counts.ended + BitVec.ofNat 32 y.pending := by
      rw [ended, BitVec.add_assoc, BitVec.add_comm (BitVec.ofNat 32 left)]

/-- From `x` to `y` a line keeps both laws. -/
structure Line.KeepsLaws (x y : Line) : Prop where
  queue : x.Queue → y.Queue
  sum : x.Balanced → y.Balanced

/-- What the two laws speak of. -/
def Line.ledger (x : Line) : List Item × List Item × Bool × Word × Word :=
  (x.urgent, x.normal, x.inFlight.isSome, x.counts.accepted, x.counts.ended)

theorem Line.KeepsLaws.of_ledger {x y : Line} (h : y.ledger = x.ledger) : x.KeepsLaws y := by
  simp only [Line.ledger, Prod.mk.injEq] at h
  obtain ⟨urgent, normal, flight, accepted, ended⟩ := h
  have queued : y.queued = x.queued := by simp only [Line.queued, urgent, normal]
  refine ⟨fun ⟨u, n, s⟩ => ⟨urgent ▸ u, normal ▸ n, queued ▸ s⟩, fun b => ?_⟩
  rw [Line.balanced_iff] at b ⊢
  simpa only [Line.pending, accepted, ended, queued, flight] using b

/-! ### Bands -/

@[simp] theorem Line.band_withBand (x : Line) (b : Band) (q : List Item) : (x.withBand b q).band b = q := by
  cases b <;> rfl

@[simp] theorem Line.band_withBand_other (x : Line) (b : Band) (q : List Item) :
    (x.withBand b q).band b.other = x.band b.other := by
  cases b <;> rfl

@[simp] theorem Line.band_other_withBand (x : Line) (b : Band) (q : List Item) :
    (x.withBand b.other q).band b = x.band b := by
  cases b <;> rfl

/-- An item at the end of its band is one more queued item. -/
theorem Line.queued_join (x : Line) (b : Band) (it : Item) :
    (x.withBand b (x.band b ++ [it])).queued.Perm (it :: x.queued) := by
  cases b
  · simp [Line.queued, Line.withBand, Line.band]
  · simpa [Line.queued, Line.withBand, Line.band] using List.perm_append_comm (l₁ := x.urgent ++ x.normal) (l₂ := [it])

theorem band_cases {P : Band → Prop} (b : Band) (own : P b) (other : P b.other) : ∀ c, P c := by
  intro c
  cases b <;> cases c <;> assumption

/-! ### What leaves a queue -/

/-- A line that keeps some of its items in their order, and accepts none, keeps the law of its queue. -/
theorem Line.Queue.sublist {x y : Line} (h : x.Queue) (urgent : y.urgent.Sublist x.urgent)
    (normal : y.normal.Sublist x.normal) : y.Queue :=
  ⟨fun it mem => h.urgent it (urgent.subset mem), fun it mem => h.normal it (normal.subset mem),
    h.single.sublist (urgent.append normal)⟩

/-- An item that joins its own band, in a queue without a rival, keeps the law of the queue. -/
theorem Line.Queue.join {x : Line} {it : Item} (h : x.Queue) (none : ∀ r ∈ x.queued, it.rivals r = false) :
    (x.withBand it.origin.band (x.band it.origin.band ++ [it])).Queue := by
  obtain ⟨bands, single⟩ := x.queue_iff.mp h
  refine (Line.queue_iff _).mpr ⟨band_cases it.origin.band ?_ ?_, ?_⟩
  · rw [Line.band_withBand]
    intro r mem
    rcases List.mem_append.mp mem with old | new
    · exact bands _ r old
    · rw [List.mem_singleton.mp new]
  · rw [Line.band_withBand_other]
    exact bands _
  · rw [((x.queued_join it.origin.band it).map Item.key).nodup_iff, List.map_cons, List.nodup_cons]
    refine ⟨fun mem => ?_, single⟩
    obtain ⟨r, queued, same⟩ := List.mem_map.mp mem
    exact Item.rivals_eq_false_iff.mp (none r queued) same.symm

/-! ### Offers (R23, R24) -/

theorem mergeInto_keys (it : Item) (q : List Item) : (mergeInto it q).map Item.key = q.map Item.key := by
  rw [mergeInto, List.map_map]
  refine List.map_congr_left fun r _ => ?_
  by_cases rival : r.rivals it = true
  · obtain ⟨node, kind⟩ := Item.rivals_iff.mp rival
    simp [rival, Item.key, node, kind]
  · simp [rival]

theorem Line.keys_merge (x : Line) (b : Band) (it : Item) :
    (x.withBand b (mergeInto it (x.band b))).queued.map Item.key = x.queued.map Item.key := by
  cases b <;> simp [Line.queued, Line.withBand, Line.band, mergeInto_keys]

/-- What a change of one band makes pending. -/
theorem Line.pending_withBand (x : Line) (b : Band) (q : List Item) (c : LineCounts) :
    ({ x.withBand b q with counts := c } : Line).pending =
      (x.withBand b q).queued.length + if x.inFlight.isSome then 1 else 0 := by
  cases b <;> rfl

/-- The line of a moved item, before the item joins: its rivals have left the other band. -/
theorem Line.length_queued_filter (x : Line) (b : Band) (p : Item → Bool) :
    (x.withBand b ((x.band b).filter fun r => !p r)).queued.length + ((x.band b).filter p).length = x.queued.length := by
  have split : ∀ q : List Item, (q.filter fun r => !p r).length + (q.filter p).length = q.length := fun q => by
    have := List.length_eq_length_filter_add (l := q) p
    omega
  cases b <;> simp only [Line.queued, Line.withBand, Line.band, List.length_append]
  · have := split x.urgent; omega
  · have := split x.normal; omega

theorem Line.offer_queue {x : Line} {it : Item} (h : x.Queue) : (x.offer it).1.Queue := by
  have outcome := x.offer_offered it
  generalize x.offer it = r at outcome ⊢
  obtain ⟨bands, single⟩ := x.queue_iff.mp h
  cases outcome with
  | down => exact h
  | merged up rival =>
    refine (Line.queue_iff _).mpr ⟨?_, ?_⟩
    · show ∀ b, ∀ r ∈ (x.withBand it.origin.band (mergeInto it (x.band it.origin.band))).band b, r.origin.band = b
      refine band_cases it.origin.band ?_ ?_
      · rw [Line.band_withBand, mergeInto]
        intro r mem
        obtain ⟨y, queued, rfl⟩ := List.mem_map.mp mem
        split
        · rfl
        · exact bands _ y queued
      · rw [Line.band_withBand_other]
        exact bands _
    · show ((x.withBand it.origin.band (mergeInto it (x.band it.origin.band))).queued.map Item.key).Nodup
      rwa [Line.keys_merge]
  | moved up own rival =>
    have cleared : (x.withBand it.origin.band.other
        ((x.band it.origin.band.other).filter fun r => !it.rivals r)).Queue := by
      cases it.origin.band
      · exact h.sublist (List.Sublist.refl _) List.filter_sublist
      · exact h.sublist List.filter_sublist (List.Sublist.refl _)
    have joined := cleared.join (it := it) fun r mem => ?_
    · rw [Line.band_other_withBand] at joined
      exact ⟨joined.urgent, joined.normal, joined.single⟩
    · rcases (Line.mem_queued_iff it.origin.band).mp mem with mine | theirs
      · rw [Line.band_other_withBand] at mine; exact own r mine
      · rw [Line.band_withBand] at theirs; simpa using (List.mem_filter.mp theirs).2
  | joined up none place =>
    have joined := h.join none
    exact ⟨joined.urgent, joined.normal, joined.single⟩
  | full => exact h
  | displaced up none full urgent older newest last =>
    have cleared : ({ x with normal := older } : Line).Queue :=
      h.sublist (List.Sublist.refl _) (by rw [last]; exact List.sublist_append_left _ _)
    have joined := cleared.join (it := it) fun r mem => none r ?_
    · rw [urgent] at joined
      exact ⟨joined.urgent, joined.normal, joined.single⟩
    · simp only [Line.queued, last, List.mem_append] at mem ⊢
      tauto

theorem Line.offer_balanced {x : Line} {it : Item} (h : x.Balanced) : (x.offer it).1.Balanced := by
  have superseded : ∀ (c : LineCounts) (n : Nat),
      (c.addAccepted.addSuperseded n).ended = c.ended + BitVec.ofNat 32 n := fun c n => by
    simp only [LineCounts.ended, LineCounts.addAccepted, LineCounts.addSuperseded]
    ac_rfl
  have outcome := x.offer_offered it
  generalize x.offer it = r at outcome ⊢
  cases outcome with
  | down => exact h
  | merged up rival =>
    refine h.moves (joined := 1) (left := 1) rfl (superseded _ _) ?_
    have := congrArg List.length (x.keys_merge it.origin.band it)
    simp only [List.length_map] at this
    rw [Line.pending_withBand, this, Line.pending]
  | moved up own rival =>
    refine h.moves (joined := 1) (left := _) rfl (superseded _ _) ?_
    have joins := Line.queued_join (x.withBand it.origin.band.other
      ((x.band it.origin.band.other).filter fun r => !it.rivals r)) it.origin.band it
    have leaves := x.length_queued_filter it.origin.band.other it.rivals
    have length := joins.length_eq
    rw [Line.band_other_withBand, List.length_cons] at length
    have flight : (x.withBand it.origin.band.other ((x.band it.origin.band.other).filter fun r => !it.rivals r)).inFlight =
        x.inFlight := by cases it.origin.band <;> rfl
    rw [Line.pending_withBand, flight, Line.pending]
    omega
  | joined up none place =>
    refine h.moves (joined := 1) (left := 0) rfl ?_ ?_
    · simp [LineCounts.ended, LineCounts.addAccepted]
    · have length := (x.queued_join it.origin.band it).length_eq
      rw [List.length_cons] at length
      rw [Line.pending_withBand, Line.pending]
      omega
  | full => exact h
  | displaced up none full urgent older newest last =>
    refine h.moves (joined := 1) (left := 1) rfl (superseded _ _) ?_
    simp only [Line.pending, Line.queued, last, List.length_append, List.length_singleton]
    omega

end Sys2Proof.Machine
end

section
/-!
PROOFS. The line queues and their sums through the operations of the blocks (R21, R22, R42): `KeepsQueues` for each of them, up
to the line events.
-/

namespace Sys2Proof.Machine

/-! ### The relation on the part -/

/-- Work from `s` to `t` that keeps both laws on every line. -/
def KeepsQueues (s t : State) : Prop := ∀ l, (s.line l).KeepsLaws (t.line l)

namespace KeepsQueues

theorem refl (s : State) : KeepsQueues s s := fun _ => ⟨id, id⟩

theorem trans {a b c : State} (h : KeepsQueues a b) (k : KeepsQueues b c) : KeepsQueues a c :=
  fun l => ⟨(k l).queue ∘ (h l).queue, (k l).sum ∘ (h l).sum⟩

/-- The same, the later work named first. -/
theorem after {a b c : State} (k : KeepsQueues b c) (h : KeepsQueues a b) : KeepsQueues a c := h.trans k

/-- Work that leaves the lines alone. -/
theorem of_lc {s t : State} (h : t.lc = s.lc) : KeepsQueues s t := fun l => by
  rw [State.line, State.line, h]
  exact ⟨id, id⟩

theorem ite {c : Prop} [Decidable c] {s a b : State} (h : KeepsQueues s a) (k : KeepsQueues s b) :
    KeepsQueues s (if c then a else b) := by
  split
  · exact h
  · exact k

theorem forEach {α : Type} {f : α → State → State} (h : ∀ x s, KeepsQueues s (f x s)) (xs : List α) (s : State) :
    KeepsQueues s (Machine.forEach xs f s) :=
  forEach_rel KeepsQueues refl trans h xs s

theorem forEachFree {α : Type} {f : α → State → State} (h : ∀ x s, KeepsQueues s (f x s)) (xs : List α) (s : State) :
    KeepsQueues s (Machine.forEachFree xs f s) :=
  forEachFree_rel KeepsQueues refl trans (fun _ => .of_lc rfl) h xs s

/-- Work on one line. -/
theorem onLine {l : LineId} {f : Line → Line} {s : State} (h : (s.line l).KeepsLaws (f (s.line l))) :
    KeepsQueues s (Machine.onLine l f s) := by
  intro k
  by_cases e : k = l
  · subst e; rwa [line_onLine]
  · rw [line_onLine_ne e]; exact ⟨id, id⟩

/-- Work on one line that leaves alone what the laws speak of. -/
theorem of_ledger {l : LineId} {f : Line → Line} {s : State} (h : (f (s.line l)).ledger = (s.line l).ledger) :
    KeepsQueues s (Machine.onLine l f s) :=
  onLine (.of_ledger h)

end KeepsQueues

/-! ### The operations that work on the queues -/

@[simp] theorem tellFreed_lc (l : LineId) (s : State) : (tellFreed l s).lc = s.lc := by
  unfold tellFreed; split <;> rfl

/-- An offer is its line's alone. -/
theorem offer_lc (l : LineId) (it : Item) (s : State) :
    (offer l it s).1.lc = (onLine l (fun _ => ((s.line l).offer it).1) s).lc := by
  unfold offer
  dsimp only
  split
  · rfl
  · rw [tellFreed_lc, handNodes_lc]
    refine forEach_keeps State.lc (fun o t => ?_) _ _
    split_ifs <;> rfl

theorem offer_queues (l : LineId) (it : Item) (s : State) : KeepsQueues s (offer l it s).1 :=
  .trans (.onLine ⟨Line.offer_queue, Line.offer_balanced⟩) (.of_lc (offer_lc l it s))

/-- A line after a removal claim (R25). -/
def Line.remove (x : Line) (p : Item → Bool) (k : RemovalKind) : Line :=
  { x with
    urgent := x.urgent.filter fun i => !p i, normal := x.normal.filter fun i => !p i
    counts := match k with
      | .superseded => x.counts.addSuperseded (x.queued.filter p).length
      | .flushed => x.counts.addFlushed (x.queued.filter p).length }

/-- A claim that meets no item leaves the line as it is. -/
theorem Line.remove_of_none {x : Line} {p : Item → Bool} (h : x.queued.filter p = []) (k : RemovalKind) : x.remove p k = x := by
  have stays : ∀ q : List Item, (∀ i ∈ q, i ∈ x.queued) → (q.filter fun i => !p i) = q := fun q sub =>
    List.filter_eq_self.mpr fun i mem => by simpa using List.filter_eq_nil_iff.mp h i (sub i mem)
  have urgent := stays x.urgent fun i mem => List.mem_append_left _ mem
  have normal := stays x.normal fun i mem => List.mem_append_right _ mem
  cases k <;> simp [Line.remove, h, urgent, normal, LineCounts.addSuperseded, LineCounts.addFlushed]

/-- A removal claim is its line's alone. -/
theorem removeItems_lc (l : LineId) (p : Item → Bool) (k : RemovalKind) (s : State) :
    (removeItems l p k s).lc = (onLine l (fun x => x.remove p k) s).lc := by
  unfold removeItems
  dsimp only
  split
  · rename_i none
    rw [onLine_self (Line.remove_of_none none k)]
  · rw [tellFreed_lc, handNodes_lc]
    cases k <;> rfl

theorem Line.remove_laws (x : Line) (p : Item → Bool) (k : RemovalKind) : x.KeepsLaws (x.remove p k) where
  queue h := h.sublist List.filter_sublist List.filter_sublist
  sum h := by
    have leaves : (x.remove p k).queued.length + (x.queued.filter p).length = x.queued.length := by
      have gone := List.length_eq_length_filter_add (l := x.queued) p
      have stay : (x.remove p k).queued = x.queued.filter fun i => !p i := by
        simp [Line.queued, Line.remove]
      rw [stay]
      omega
    refine h.moves (joined := 0) (left := (x.queued.filter p).length) ?_ ?_ ?_
    · cases k <;> exact (BitVec.add_zero _).symm
    · cases k <;> simp only [LineCounts.ended, Line.remove, LineCounts.addSuperseded, LineCounts.addFlushed] <;> ac_rfl
    · have flight : (x.remove p k).inFlight = x.inFlight := rfl
      rw [Line.pending, Line.pending, flight]
      omega

theorem removeItems_queues (l : LineId) (p : Item → Bool) (k : RemovalKind) (s : State) :
    KeepsQueues s (removeItems l p k s) :=
  .trans (.onLine (Line.remove_laws _ p k)) (.of_lc (removeItems_lc l p k s))

theorem flushNode_queues (n : NodeRef) (s : State) : KeepsQueues s (flushNode n s) := removeItems_queues _ _ _ s

theorem setEntry_queues (n : NodeRef) (x : Option NodeEntry) (s : State) : KeepsQueues s (setEntry n x s) :=
  .of_ledger (by rfl)

theorem setHealth_queues (n : NodeRef) (h : Health) (m : Bool) (s : State) : KeepsQueues s (setHealth n h m s) :=
  setEntry_queues n _ s

theorem countLine_queues (l : LineId) (f : LineCounts → LineCounts) (s : State)
    (h : ∀ c, (f c).accepted = c.accepted ∧ (f c).ended = c.ended) : KeepsQueues s (countLine l f s) :=
  .of_ledger (by simp only [Line.ledger, h])

/-! ### AP -/

@[simp] theorem noteAnswer_lc (n : NodeRef) (a : OfferAnswer) (s : State) : (noteAnswer n a s).lc = s.lc := by
  cases a <;> rfl

theorem examine_queues (link : Option RoomId) (n : NodeRef) (s : State) : KeepsQueues s (examine link n s) := by
  unfold examine
  split
  · split
    · exact (offer_queues _ _ s).trans (.of_lc (noteAnswer_lc _ _ _))
    · exact .refl s
  · exact .refl s

theorem retryDeferred_queues (l : LineId) (s : State) : KeepsQueues s (retryDeferred l s) := by
  refine .forEach (fun a t => ?_) _ s
  split
  · exact .ite (.trans (.of_lc (by rfl)) (examine_queues none _ _)) (.refl t)
  · exact .refl t

theorem settleRound_queues (s : State) : KeepsQueues s (settleRound s) :=
  .trans (.trans (b := { s with ap := { s.ap with handed := [] } }) (.of_lc rfl) (.forEach (examine_queues none) _ _))
    (.trans (b := { takeHanded s with ap := { (takeHanded s).ap with freed := [] } }) (.of_lc rfl)
      (.forEach retryDeferred_queues _ _))

theorem settle_queues (s : State) : KeepsQueues s (settle s) :=
  (settleRound_queues s).trans ((settleRound_queues _).trans (settleRound_queues _))

@[simp] theorem buildNotices_lc (s : State) : (buildNotices s).lc = s.lc :=
  have e := congrArg State.lc (buildNotices_rest s).1; e

theorem endEvent_queues (s : State) : KeepsQueues s (endEvent s) := (settle_queues s).trans (.of_lc (buildNotices_lc _))

@[simp] theorem clearOverrides_lc (p : Family → Bool) (r : RoomId) (s : State) : (clearOverrides p r s).lc = s.lc :=
  forEach_keeps State.lc (fun n t => by unfold clearOverride; split <;> rfl) _ s

@[simp] theorem updateAirMode_lc (r : RoomId) (s : State) : (updateAirMode r s).lc = s.lc := by
  unfold updateAirMode; split <;> rfl

@[simp] theorem composeRoom_lc (r : RoomId) (s : State) : (composeRoom r s).lc = s.lc :=
  (forEach_keeps State.lc composeNode_lc _ _).trans (updateAirMode_lc r s)

theorem recompose_queues (r : RoomId) (s : State) : KeepsQueues s (recompose r s) :=
  .ite (.refl s) (.trans (.of_lc (composeRoom_lc r s))
    (.trans (.forEach (examine_queues (some r)) _ _) (.forEach (examine_queues (some r)) _ _)))

theorem recomposeMembers_queues (g : SuiteId) (s : State) : KeepsQueues s (recomposeMembers g s) :=
  .forEach recompose_queues _ s

theorem recomposeAll_queues (s : State) : KeepsQueues s (recomposeAll s) := .forEachFree recompose_queues _ s

/-! ### The room engine, whose machines leave the lines to AP -/

@[simp] theorem setRoomState_lc (r : RoomId) (st : RoomState) (s : State) : (setRoomState r st s).lc = s.lc := by
  unfold setRoomState enterVacant
  split_ifs <;> simp

@[simp] theorem moveRoom_lc (r : RoomId) (f : OccState → OccState) (s : State) : (moveRoom r f s).lc = s.lc := by
  unfold moveRoom
  split
  · split_ifs <;> simp
  · rfl
  · rfl

@[simp] theorem forEach_raise_lc (c : Condition) (rs : List RoomId) (s : State) : (forEach rs (raise c) s).lc = s.lc :=
  forEach_keeps State.lc (fun r t => raise_lc c r t) rs s

@[simp] theorem moveSuite_lc (g : SuiteId) (f : OccState → OccState) (s : State) : (moveSuite g f s).lc = s.lc := by
  have vacated : ∀ (rs : List RoomId) (t : State), (forEach rs (fun m t =>
      clearOverrides (fun _ => true) m (onRoom m (fun x => { x with boost := false }) t)) t).lc = t.lc :=
    forEach_keeps State.lc fun m t => by simp
  unfold moveSuite
  split
  · split_ifs <;> simp [vacated]
  · rfl

@[simp] theorem presenceEdge_lc (s0 : State) (r : RoomId) (s : State) : (presenceEdge s0 r s).lc = s.lc := by
  have seen : ∀ b : Bool, (if b then onRoom r (fun x => { x with seen := true }) s else s).lc = s.lc := fun b => by
    cases b <;> rfl
  unfold presenceEdge
  dsimp only
  split
  · split_ifs <;> simp
  · split_ifs <;> simp

@[simp] theorem dutyEdge_lc (was : Bool) (r : RoomId) (s : State) : (dutyEdge was r s).lc = s.lc := by
  unfold dutyEdge; split_ifs <;> rfl

theorem recomposeAfter_queues (s0 : State) (r : RoomId) (s : State) : KeepsQueues s (recomposeAfter s0 r s) := by
  have own := KeepsQueues.ite (c := (s.room r).drives = (s0.room r).drives) (.refl s) (recompose_queues r s)
  unfold recomposeAfter
  dsimp only
  split
  · exact .ite own (recomposeMembers_queues _ s)
  · exact own

theorem afterRoomEvent_queues (s0 : State) (r : RoomId) (s : State) : KeepsQueues s (afterRoomEvent s0 r s) :=
  .trans (.of_lc (by simp)) ((recomposeAfter_queues s0 r (dutyEdge (s0.inDuty r) r (presenceEdge s0 r s))).trans
    (endEvent_queues _))

@[simp] theorem overcrowdTest_lc (r : RoomId) (s : State) : (overcrowdTest r s).lc = s.lc := by
  unfold overcrowdTest
  dsimp only
  split_ifs <;> simp

theorem setOverrideScene_queues (n : SceneNum) (r : RoomId) (s : State) : KeepsQueues s (setOverrideScene n r s) :=
  .after (recompose_queues r _) (.of_lc (by simp))

theorem panel_queues (n : SceneNum) (r : RoomId) (s : State) : KeepsQueues s (panel n r s) :=
  .ite (.refl s) (setOverrideScene_queues n r s)

theorem takeRoomAct_queues (act : RoomAct) (n : NodeRef) (value : Half) (r : RoomId) (s : State) :
    KeepsQueues s (takeRoomAct act n value r s) := by
  have event : ∀ t : State, t.lc = s.lc → KeepsQueues s (afterRoomEvent s r t) := fun t h =>
    .trans (.of_lc h) (afterRoomEvent_queues s r t)
  unfold takeRoomAct
  split
  · exact event _ rfl
  · exact event _ (by simp)
  · exact event _ (by rw [overcrowdTest_lc]; split_ifs <;> simp)
  · exact event _ rfl
  · exact event _ rfl
  · exact event _ rfl
  · exact (panel_queues _ r s).trans (endEvent_queues _)
  · refine .trans ?_ (endEvent_queues _)
    split
    · exact panel_queues _ r s
    · exact .refl s
  · exact (panel_queues _ r s).trans (endEvent_queues _)

theorem roomAction_queues (act : RoomAct) (n : NodeRef) (value : Half) (r : RoomId) (s : State) :
    KeepsQueues s (roomAction act n value r s) := .ite (.refl s) (takeRoomAct_queues act n value r s)

theorem suitePhase_queues (g : SuiteId) (p before : Phase) (s : State) : KeepsQueues s (suitePhase g p before s) := by
  unfold suitePhase
  refine .after (recomposeMembers_queues g _) (.of_lc ?_)
  split_ifs <;> simp

theorem phaseReport_queues (r : RoomId) (p : Phase) (k : Option Booking) (s : State) :
    KeepsQueues s (phaseReport r p k s) := by
  unfold phaseReport
  dsimp only
  split
  · exact .refl s
  · refine .after (recompose_queues r _) (.of_lc ?_)
    split_ifs <;> simp
  · split
    · exact .trans (b := onRoom r (Room.storePhase p k) s) (.of_lc rfl) (suitePhase_queues _ _ _ _)
    · exact .of_lc rfl

@[simp] theorem joinMember_lc (r : RoomId) (s : State) : (joinMember r s).lc = s.lc := by
  unfold joinMember
  dsimp only
  split_ifs <;> simp

theorem joinSuite_queues (g : SuiteId) (s : State) : KeepsQueues s (joinSuite g s) :=
  .after (recomposeMembers_queues g _) (.of_lc (forEach_keeps State.lc joinMember_lc (s.members g) s))

theorem splitMember_queues (r : RoomId) (s : State) : KeepsQueues s (splitMember r s) :=
  .after (recompose_queues r _) (.of_lc (by simp))

theorem splitSuite_queues (g : SuiteId) (s : State) : KeepsQueues s (splitSuite g s) :=
  .trans (b := onSuite g (fun x => { x with occ := none, seen := false, linger := none }) s) (.of_lc rfl)
    (.forEach splitMember_queues _ _)

theorem partitionAction_queues (opens : Bool) (g : SuiteId) (s : State) : KeepsQueues s (partitionAction opens g s) := by
  unfold partitionAction
  split
  · exact .refl s
  · exact .ite ((joinSuite_queues g s).trans (endEvent_queues _))
      (.ite ((splitSuite_queues g s).trans (endEvent_queues _)) (.refl s))

theorem stillnessEnds_queues (r : RoomId) (s : State) : KeepsQueues s (stillnessEnds r s) :=
  .trans (.of_lc (by simp)) (afterRoomEvent_queues s r (raise .countDrift r
    (onRoom r (fun x => { x with head := 0, stillness := none, aboveCapacity := false }) s)))

theorem lingerEnds_queues (r : RoomId) (s : State) : KeepsQueues s (lingerEnds r s) :=
  .after (afterRoomEvent_queues s r _) (.of_lc (by simp))

theorem suiteLingerEnds_queues (g : SuiteId) (s : State) : KeepsQueues s (suiteLingerEnds g s) :=
  .after ((recomposeMembers_queues g _).trans (endEvent_queues _)) (.of_lc (by simp))

theorem recomposePart_queues (b : Option DutyPart) (r : RoomId) (s : State) : KeepsQueues s (recomposePart b r s) :=
  .ite (.refl s) ((recompose_queues r s).trans (endEvent_queues _))

theorem travelEnds_queues (n : NodeRef) (s : State) : KeepsQueues s (travelEnds n s) := by
  unfold travelEnds
  dsimp only
  split
  · exact .after (endEvent_queues _) (.of_lc (by simp))
  · exact .of_lc rfl

/-! ### TU -/

theorem giveCursor_queues (r : RoomId) (found : Option (Booking × Nat)) (s : State) : KeepsQueues s (giveCursor r found s) :=
  .after (phaseReport_queues r _ _ _) (.of_lc rfl)

theorem passOccurrence_queues (early : Bool) (r : RoomId) (s : State) : KeepsQueues s (passOccurrence early r s) := by
  unfold passOccurrence
  split
  · exact .refl s
  · split
    · exact .refl s
    · refine .after (giveCursor_queues r _ _) (.of_lc ?_)
      split_ifs <;> rfl

theorem reselect_queues (changed : Option Nat) (r : RoomId) (s : State) : KeepsQueues s (reselect changed r s) := by
  unfold reselect
  refine .ite (.refl s) ?_
  split
  · exact .refl s
  · exact .ite (.refl s) (giveCursor_queues r _ s)
  · exact giveCursor_queues r _ s

theorem takeMark_queues (r : RoomId) (o : Occurrence) (k : MarkName) (s : State) :
    KeepsQueues s (takeMark r o k s).1 := by
  cases k with
  | prep => exact phaseReport_queues r _ _ s
  | start => exact phaseReport_queues r _ _ s
  | confirm =>
    unfold takeMark
    dsimp only
    split
    · exact .refl s
    · exact .after (passOccurrence_queues true r _) (.of_lc (raise_lc _ _ _))
  | finish =>
    unfold takeMark
    dsimp only
    split
    · exact passOccurrence_queues false r s
    · exact phaseReport_queues r _ _ s
  | release => exact passOccurrence_queues false r s

theorem takeMarks_queues (r : RoomId) (minute week : Nat) (ks : List MarkName) (s : State) :
    KeepsQueues s (takeMarks r minute week ks s) := by
  induction ks generalizing s with
  | nil => exact .refl s
  | cons k ks ih =>
    unfold takeMarks
    split
    · exact .refl s
    · rename_i c _
      have taken : KeepsQueues s (endEvent (takeMark r c.occ k
          (onTime r (fun t => { t with cursor := some { c with marks := c.marks.spend k } }) s)).1) :=
        .trans (.of_lc (onTime_lc r _ s)) ((takeMark_queues r c.occ k _).trans (endEvent_queues _))
      exact .ite (.ite taken (taken.trans (ih _))) (ih s)

theorem selectIfNone_queues (r : RoomId) (s : State) : KeepsQueues s (selectIfNone r s) := by
  unfold selectIfNone
  split
  · exact (giveCursor_queues r _ s).trans (endEvent_queues _)
  · exact .refl s

theorem weekBoundary_queues (ended : Nat) (s : State) : KeepsQueues s (weekBoundary ended s) := by
  unfold weekBoundary
  exact .after (.forEachFree selectIfNone_queues _ _) (.of_lc rfl)

theorem minutePasses_queues (c : Clock) (s : State) : KeepsQueues s (minutePasses c s) :=
  .trans (b := { s with tu := { s.tu with clock := some c.nextMinute } }) (.of_lc rfl)
    (.trans (.ite (weekBoundary_queues _ _) (.refl _)) (.forEachFree (fun r => takeMarks_queues r _ _ allMarks) _ _))

@[simp] theorem writeWing_lc (k : WingKind) (s : State) : (writeWing k s).lc = s.lc := by
  have e := congrArg State.lc (writeWing_rest k s).1; exact e

theorem setClock_queues (c : Clock) (s : State) : KeepsQueues s (setClock c s) := by
  unfold setClock
  exact .after (.after (endEvent_queues _) (.of_lc (writeWing_lc _ _)))
    (.after (.forEachFree (fun r t => giveCursor_queues r _ t) _ _) (.of_lc rfl))

theorem clockEvent_queues {p : Nat → Bool} {f : Clock → State → State} (s : State) (h : ∀ c t, KeepsQueues t (f c t)) :
    KeepsQueues s (clockEvent p f s) := by
  unfold clockEvent
  refine .ite (.of_lc rfl) ?_
  split
  · exact .ite (.after (h _ _) (.of_lc rfl)) (.refl s)
  · exact .refl s

/-! ### PU and CL -/

theorem protectionChange_queues (old : Pu) (r : RoomId) (s : State) : KeepsQueues s (protectionChange old r s) := by
  unfold protectionChange
  refine .ite (.refl s) (.ite (.refl s) ?_)
  have removed : KeepsQueues s (removeFamily (enters old s.pu r) r s) := .forEach (fun l t => removeItems_queues l _ _ t) _ s
  have recomposed := removed.trans (.trans (.of_lc (clearOverrides_lc (enters old s.pu r) r _)) (recompose_queues r _))
  refine recomposed.trans (.after (endEvent_queues _) (.of_lc ?_))
  split_ifs <;> simp

theorem sourceMoves_queues (i : SourceId) (f : Source → Source) (k : WingKind) (s : State) :
    KeepsQueues s (sourceMoves i f k s) :=
  .after (.forEach (protectionChange_queues _) _ _) (.of_lc (writeWing_lc k (onSource i f s)))

theorem testAssertion_queues (i : SourceId) (s : State) : KeepsQueues s (testAssertion i s) := by
  unfold testAssertion
  dsimp only
  split
  · exact sourceMoves_queues i _ _ s
  · split
    · exact .of_lc rfl
    · exact .ite (sourceMoves_queues i _ _ s) (.of_lc rfl)
  · exact .of_lc rfl
  · exact .of_lc rfl
  · exact .refl s

theorem claimFault_queues (i : SourceId) (sets : Bool) (s : State) : KeepsQueues s (claimFault i sets s) :=
  .ite (.refl s) (.after (testAssertion_queues i _) (.of_lc rfl))

theorem pinChanges_queues (p : PinId) (low : Bool) (s : State) : KeepsQueues s (pinChanges p low s) :=
  .ite (.refl s) (.after (.forEachFree testAssertion_queues _ _) (.of_lc rfl))

theorem deliver_queues (rep : LineReport) (home : Option RoomId) (x : Rule) (s : State) :
    KeepsQueues s (deliver rep home x s) := by
  unfold deliver
  split
  · split
    · exact roomAction_queues _ _ _ _ s
    · exact .refl s
  · exact partitionAction_queues _ _ s
  · exact claimFault_queues _ _ s
  · exact .refl s

@[simp] theorem noteStranger_lc (n : NodeRef) (s : State) : (noteStranger n s).lc = s.lc := by
  unfold noteStranger
  dsimp only
  split_ifs <;> simp

@[simp] theorem offerTx_lc (f : TxFrame) (s : State) : (offerTx f s).lc = s.lc := by
  have e := congrArg State.lc (offerTx_rest f s); exact e

theorem classify_queues (rep : LineReport) (s : State) : KeepsQueues s (classify rep s) := by
  have stranger : KeepsQueues s
      (if ((s.entry rep.ref).map NodeEntry.room).isNone then noteStranger rep.ref s else s) :=
    .ite (.of_lc (noteStranger_lc _ s)) (.refl s)
  unfold classify
  exact stranger.trans (.trans (.forEach (deliver_queues rep _) _ _) (.ite (.of_lc (offerTx_lc _ _)) (.refl _)))

/-! ### The lines' own events -/

theorem goOffline_queues (n : NodeRef) (s : State) : KeepsQueues s (goOffline n s) := by
  unfold goOffline
  split
  · have flushed := (setHealth_queues n .offline false s).trans (flushNode_queues n _)
    exact flushed.trans (.of_lc (by simp))
  · exact .refl s

theorem hearNode_queues (n : NodeRef) (s : State) : KeepsQueues s (hearNode n s) := by
  unfold hearNode
  split
  · exact .ite (setHealth_queues n _ _ s) ((setHealth_queues n _ _ s).trans (examine_queues none n _))
  · exact .refl s

theorem lineGoesDown_queues (l : LineId) (s : State) : KeepsQueues s (lineGoesDown l s) := by
  unfold lineGoesDown
  exact .trans (.of_ledger (by rfl)) (.trans (removeItems_queues l _ _ _)
    (.trans (.forEach (fun n t => .ite (.refl t) (goOffline_queues n t)) _ _)
      (.after (.of_lc (writeWing_lc _ _)) (countLine_queues l _ _ fun _ => ⟨rfl, rfl⟩))))

theorem lineComesUp_queues (l : LineId) (sender : NodeAddr) (s : State) : KeepsQueues s (lineComesUp l sender s) := by
  unfold lineComesUp
  exact .trans (.of_ledger (by rfl)) ((setHealth_queues _ _ _ _).trans
    (.trans (.forEach (fun n t => setHealth_queues n _ _ t) _ _) (.trans (.of_lc (writeWing_lc _ _))
      ((examine_queues none _ _).trans (.forEach (examine_queues none) _ _)))))

theorem validFrame_queues (l : LineId) (sender : NodeAddr) (s : State) : KeepsQueues s (validFrame l sender s) := by
  unfold validFrame
  exact .trans (.of_ledger (by rfl)) (.ite (lineComesUp_queues l sender _) (.refl _))

theorem heardFrom_queues (n : NodeRef) (s : State) : KeepsQueues s (heardFrom n s) :=
  (validFrame_queues _ _ s).trans (hearNode_queues n _)

theorem takeReport_queues (n : NodeRef) (code : ReportCode) (value : Half) (s : State) :
    KeepsQueues s (takeReport n code value s) :=
  (heardFrom_queues n s).trans ((classify_queues _ _).trans (endEvent_queues _))

theorem judgeArrival_queues (n : NodeRef) (room : RoomId) (p : Plan) (position : Nat) (s : State) :
    KeepsQueues s (judgeArrival n room p position s) :=
  .ite (.ite (.of_lc rfl) (.of_lc (by simp))) (.after (examine_queues none n _) (.of_lc rfl))

theorem takeArrived_queues (n : NodeRef) (position : Byte) (s : State) : KeepsQueues s (takeArrived n position s) := by
  refine (heardFrom_queues n s).trans ?_
  unfold takeArrived
  dsimp only
  split
  · exact (judgeArrival_queues n _ _ _ _).trans (endEvent_queues _)
  · exact endEvent_queues _

theorem deliverPlan_queues (n : NodeRef) (it : Item) (status current : Half) (s : State) :
    KeepsQueues s (deliverPlan n it status current s) := by
  unfold deliverPlan
  split
  · refine .after (examine_queues none n _) (.of_lc ?_)
    unfold compareStatus
    dsimp only
    split_ifs <;> simp
  · exact .refl s

@[simp] theorem mirrorEcho_lc (n : NodeRef) (it : Item) (status current : Half) (s : State) :
    (mirrorEcho n it status current s).lc = s.lc := by
  unfold mirrorEcho
  split <;> simp

/-- The item in flight ends in one of the ways that are counted. -/
theorem endItem_laws {x y : Line} {it : Item} (flight : x.inFlight = some it) (gone : y.inFlight = none)
    (urgent : y.urgent = x.urgent) (normal : y.normal = x.normal) (accepted : y.counts.accepted = x.counts.accepted)
    (ended : y.counts.ended = x.counts.ended + 1) : x.KeepsLaws y where
  queue h := h.sublist (urgent ▸ List.Sublist.refl _) (normal ▸ List.Sublist.refl _)
  sum h := by
    refine h.moves (joined := 0) (left := 1) (accepted.trans (BitVec.add_zero _).symm) ended ?_
    simp [Line.pending, Line.queued, flight, gone, urgent, normal]

theorem deliverItem_queues {n : NodeRef} {it : Item} {s : State} (flight : (s.line n.line).inFlight = some it)
    (status current : Half) : KeepsQueues s (deliverItem n it status current s) := by
  have ended : KeepsQueues s (endInFlight n.line it (countLine n.line (fun c => { c with delivered := c.delivered + 1 }) s)) := by
    rw [endInFlight, countLine, onLine_onLine]
    refine .onLine (endItem_laws flight rfl rfl rfl rfl ?_)
    simp only [LineCounts.ended]
    ac_rfl
  exact ended.trans ((setHealth_queues n _ _ _).trans ((deliverPlan_queues n it status current _).trans
    (.of_lc (mirrorEcho_lc _ _ _ _ _))))

theorem lateEcho_queues (n : NodeRef) (s : State) : KeepsQueues s (lateEcho n s) :=
  (countLine_queues n.line (fun c => { c with lateEchoes := c.lateEchoes + 1 }) s fun _ => ⟨rfl, rfl⟩).trans (hearNode_queues n _)

theorem takeEcho_queues (n : NodeRef) (status current : Half) (s : State) : KeepsQueues s (takeEcho n status current s) := by
  refine (validFrame_queues n.line n.addr s).trans ?_
  unfold takeEcho
  dsimp only
  split
  · rename_i it flight
    exact .ite ((deliverItem_queues flight status current).trans (endEvent_queues _))
      ((lateEcho_queues n _).trans (endEvent_queues _))
  · exact (lateEcho_queues n _).trans (endEvent_queues _)

/-- The next item is one of those queued, and its departure leaves the others. -/
theorem Line.nextItem_mem {x : Line} {it : Item} (h : x.nextItem = some it) :
    it ∈ x.queued ∧ (x.urgent = [] → it ∈ x.normal) := by
  unfold Line.nextItem at h
  split at h
  · rename_i rest urgent
    cases h
    exact ⟨by simp [Line.queued, urgent], fun e => absurd e (by simp [urgent])⟩
  · rename_i urgent
    have normal : it ∈ x.normal := by
      split at h
      · rename_i m _
        cases found : x.normal.find? fun y => y.link == some m with
        | some y => rw [found] at h; cases h; exact List.mem_of_find?_eq_some found
        | none => rw [found] at h; exact List.mem_of_head? h
      · exact List.mem_of_head? h
    exact ⟨List.mem_append_right _ normal, fun _ => normal⟩

theorem Line.without_laws {x : Line} {it : Item} (idle : x.inFlight = none) (next : x.nextItem = some it) :
    x.KeepsLaws { x.without it with inFlight := some it, driving := true } := by
  have mem := (Line.nextItem_mem next).2
  unfold Line.without
  split
  · rename_i rest urgent
    refine ⟨fun h => h.sublist (urgent ▸ List.sublist_cons_self _ _) (List.Sublist.refl _), fun h => ?_⟩
    refine h.moves (joined := 0) (left := 0) (BitVec.add_zero _).symm (BitVec.add_zero _).symm ?_
    simp only [Line.pending, Line.queued, urgent, idle, List.length_append, List.length_cons, Option.isSome_some,
      Option.isSome_none, if_true, Bool.false_eq_true, if_false]
    omega
  · rename_i urgent
    refine ⟨fun h => h.sublist (urgent ▸ List.Sublist.refl _) List.erase_sublist, fun h => ?_⟩
    refine h.moves (joined := 0) (left := 0) (BitVec.add_zero _).symm (BitVec.add_zero _).symm ?_
    have normal := mem urgent
    have length := List.length_erase_of_mem normal
    have := List.length_pos_of_mem normal
    simp only [Line.pending, Line.queued, urgent, idle, List.nil_append, Option.isSome_some, Option.isSome_none, if_true,
      Bool.false_eq_true, if_false]
    omega

theorem Line.inFlight_of_idle {x : Line} (h : x.state = .idle) : x.inFlight = none := by
  unfold Line.state at h
  cases flight : x.inFlight with
  | none => rfl
  | some it => rw [flight] at h; split at h <;> cases h

theorem itemTakenForSending_queues (l : LineId) (s : State) :
    KeepsQueues s (if (s.line l).state = .idle then
      match (s.line l).nextItem with
      | some it => takeItem l it s
      | none => s
    else s) := by
  split
  · rename_i idle
    split
    · rename_i it next
      exact .trans (.onLine (Line.without_laws (Line.inFlight_of_idle idle) next))
        (.trans (.of_lc (tellFreed_lc l _)) (endEvent_queues _))
    · exact .refl s
  · exact .refl s

theorem missNode_queues (n : NodeRef) (s : State) : KeepsQueues s (missNode n s) := by
  unfold missNode
  split
  · split
    · exact setHealth_queues n _ _ s
    · exact .ite (goOffline_queues n s) (setHealth_queues n _ _ s)
    · exact .refl s
  · exact .refl s

/-- The line of an item that has timed out (R30). -/
theorem endTimedOut_eq (l : LineId) (it : Item) (s : State) :
    endInFlight l it (onLine l (fun x => { x with timeouts := x.timeouts + 1 })
      (countLine l (fun c => { c with timedOut := c.timedOut + 1 }) s)) =
    onLine l (fun x => { x with
      inFlight := none, echoTimer := none, driving := false, follow := it.link, timeouts := x.timeouts + 1
      counts := { x.counts with timedOut := x.counts.timedOut + 1 } }) s := by
  rw [endInFlight, countLine, onLine_onLine, onLine_onLine]

theorem echoTimerEnds_queues (l : LineId) (s : State) : KeepsQueues s (echoTimerEnds l s) := by
  unfold echoTimerEnds
  split
  · rename_i it flight
    unfold timeOut
    dsimp only
    rw [endTimedOut_eq]
    refine .trans (.onLine (endItem_laws flight rfl rfl rfl rfl ?_)) ((missNode_queues _ _).trans (.trans (.of_lc (by rfl))
      ((examine_queues none _ _).trans (.trans (.ite (lineGoesDown_queues l _) (.refl _)) (endEvent_queues _)))))
    simp only [LineCounts.ended]
    ac_rfl
  · exact .refl s

end Sys2Proof.Machine
end

section
/-!
PROOFS. The line queues and their sums through the owners' work: what every request leaves of them (R21, R22, R42).
-/

namespace Sys2Proof.Machine

/-! ### The owners' work -/

/-- Every state an owner answers with keeps the laws of the state it was given. -/
def HandlerKeepsQueues (h : Handler) : Prop :=
  ∀ ps s t data, h ps s = .ok (t, data) → KeepsQueues s t

/-- An owner whose answer is its parameters, tests that may refuse, and then a piece of work. -/
theorem HandlerKeepsQueues.of_parsed {α : Type} {parse : List Byte → Except ResultCode α}
    {answer : α → State → Except ResultCode (State × List Byte)}
    (h : ∀ x s t data, answer x s = .ok (t, data) → KeepsQueues s t) :
    HandlerKeepsQueues fun ps s => parse ps >>= fun x => answer x s := by
  intro ps s t data e
  obtain ⟨x, _, k⟩ := bind_eq_ok_iff.mp e
  exact h x s t data k

/-- An answer given without a test. -/
theorem pure_queues {s u t : State} {d data : List Byte} (h : KeepsQueues s u)
    (e : (pure (u, d) : Except ResultCode _) = .ok (t, data)) : KeepsQueues s t := by
  obtain ⟨rfl, -⟩ := Prod.mk.inj (pure_eq_ok_iff.mp e)
  exact h

/-- A test that may refuse comes first. -/
theorem refuse_queues {bad : Bool} {r : ResultCode} {answer : Except ResultCode (State × List Byte)} {s t : State}
    {data : List Byte} (h : answer = .ok (t, data) → KeepsQueues s t)
    (e : (refuseWhen bad r >>= fun _ => answer) = .ok (t, data)) : KeepsQueues s t := by
  obtain ⟨_, _, k⟩ := bind_eq_ok_iff.mp e
  exact h k

theorem loadNodeWork_queues (x : NodeLoad) (s : State) : KeepsQueues s (loadNodeWork x s) := by
  unfold loadNodeWork
  exact .trans (.ite (flushNode_queues x.ref s) (.refl s)) (.trans (setEntry_queues x.ref _ _)
    (.trans (.of_lc (setPlan_lc _ _ _)) ((settle_queues _).trans (.trans (.of_lc (composeNode_lc x.ref _))
      ((examine_queues none x.ref _).trans (endEvent_queues _))))))

theorem dropNodeWork_queues (n : NodeRef) (s : State) : KeepsQueues s (dropNodeWork n s) :=
  (flushNode_queues n s).trans (.trans (.of_lc (setPlan_lc n none _)) ((setEntry_queues n none _).trans (endEvent_queues _)))

theorem lineControl_queues {work : LineId → Byte → State → State} (h : ∀ l b s, KeepsQueues s (work l b s)) :
    HandlerKeepsQueues (lineControl work) :=
  .of_parsed fun x s _ _ => pure_queues (h x.1 x.2.2 s)

/-- A line with nothing pending and counts of 0 keeps both laws (R40, R42; log 12). -/
theorem Line.laws_of_empty {x : Line} (queue : x.queued = []) (flight : x.inFlight = none)
    (counts : x.counts = LineCounts.zero) : x.Queue ∧ x.Balanced := by
  obtain ⟨urgent, normal⟩ := List.append_eq_nil_iff.mp queue
  refine ⟨⟨by simp [urgent], by simp [normal], by simp [queue]⟩, ?_⟩
  simp [Line.balanced_iff, Line.pending, queue, flight, counts, LineCounts.zero, LineCounts.ended]

/-- A removal claim on every item leaves none. -/
theorem removeItems_all (l : LineId) (k : RemovalKind) (s : State) : ((removeItems l (fun _ => true) k s).line l).queued = [] := by
  rw [State.line, removeItems_lc, ← State.line, line_onLine]
  simp [Line.remove, Line.queued]

/-- What every piece of work in the list keeps, all of them keep. -/
theorem forEach_keeps_mem {α β : Type} (π : State → β) {f : α → State → State} {xs : List α}
    (h : ∀ x ∈ xs, ∀ s, π (f x s) = π s) (s : State) : π (forEach xs f s) = π s := by
  induction xs generalizing s with
  | nil => rfl
  | cons x xs ih => exact (ih (fun y mem => h y (List.mem_cons_of_mem x mem)) _).trans (h x (by simp) s)

/-- Steps 3 and 4 of R40 on one node. -/
def cleanNode (n : NodeRef) (s : State) : State := onPlan n Plan.restarted (setHealth n .online false s)

/-- Steps 3 to 5 of R40, the line's own part before and after its nodes'. -/
theorem cleanLine_eq (l : LineId) (s : State) :
    cleanLine l s = countLine l (fun _ => LineCounts.zero) (forEach (s.nodesOn l) cleanNode
      (onLine l (fun x => { x with suspended := false, follow := none, timeouts := 0, down := false }) s)) := by
  have nodes : (onLine l (fun x => { x with suspended := false, follow := none, timeouts := 0, down := false }) s).nodesOn l =
      s.nodesOn l := by
    unfold State.nodesOn
    refine List.filter_congr fun n _ => ?_
    rw [entry_onLine (by simp)]
  rw [← nodes]
  rfl

theorem line_of_mem_nodesOn {l : LineId} {n : NodeRef} {s : State} (h : n ∈ s.nodesOn l) : n.line = l := by
  simp only [State.nodesOn, List.mem_filter, List.mem_map] at h
  obtain ⟨⟨a, _, rfl⟩, _⟩ := h
  rfl

/-- The line after steps 3 to 5, its node table apart. -/
theorem cleanLine_line (l : LineId) (s : State) :
    { (cleanLine l s).line l with nodes := (s.line l).nodes } =
      { s.line l with suspended := false, follow := none, timeouts := 0, down := false, counts := LineCounts.zero } := by
  have nodes : ∀ (ns : List NodeRef) (t : State),
      { (forEach ns cleanNode t).line l with nodes := (s.line l).nodes } = { t.line l with nodes := (s.line l).nodes } :=
    forEach_keeps (f := cleanNode) (fun t => { t.line l with nodes := (s.line l).nodes }) fun n t =>
      congrArg (fun x : Line => { x with nodes := (s.line l).nodes }) (line_setHealth n .online false t l)
  rw [cleanLine_eq, countLine, line_onLine]
  have cleaned := nodes (s.nodesOn l)
    (onLine l (fun x => { x with suspended := false, follow := none, timeouts := 0, down := false }) s)
  rw [line_onLine] at cleaned
  exact congrArg (fun x : Line => { x with counts := LineCounts.zero }) cleaned

theorem cleanLine_queued (l : LineId) (s : State) : ((cleanLine l s).line l).queued = (s.line l).queued := by
  have kept := cleanLine_line l s
  simp only [Line.mk.injEq] at kept
  simp only [Line.queued, kept]

theorem cleanLine_inFlight (l : LineId) (s : State) : ((cleanLine l s).line l).inFlight = (s.line l).inFlight := by
  have kept := cleanLine_line l s
  simp only [Line.mk.injEq] at kept
  simp only [kept]

theorem cleanLine_line_ne (l : LineId) (s : State) {k : LineId} (h : k ≠ l) : (cleanLine l s).line k = s.line k := by
  rw [cleanLine_eq, countLine, line_onLine_ne h]
  refine (forEach_keeps_mem (State.line · k) (fun n mem t => ?_) _).trans (line_onLine_ne h _ s)
  exact (congrArg (fun c : Lc => look c.lines k) (onPlan_lc n _ _)).trans (line_onLine_ne (line_of_mem_nodesOn mem ▸ h) _ t)

theorem restartLine_queues (l : LineId) (s : State) : KeepsQueues s (restartLine l s) := by
  obtain ⟨_, others, flight, queue⟩ := dropInFlight_rest l (removeItems l (fun _ => true) .flushed s)
  have clean : KeepsQueues s (cleanLine l (flushLine l s)) := by
    intro k
    by_cases e : k = l
    · subst e
      have laws := Line.laws_of_empty ((cleanLine_queued k (flushLine k s)).trans (queue.trans (removeItems_all k .flushed s)))
        ((cleanLine_inFlight k (flushLine k s)).trans flight) (cleanLine_counts k (flushLine k s))
      exact ⟨fun _ => laws.1, fun _ => laws.2⟩
    · rw [cleanLine_line_ne l _ e, flushLine, others k e]
      exact removeItems_queues l _ _ s k
  unfold restartLine
  exact clean.trans (.trans (.forEach (examine_queues none) _ _) (endEvent_queues _))

theorem roomIntoService_queues (x : RoomLoad) (s : State) : KeepsQueues s (roomIntoService x s) := by
  unfold roomIntoService
  exact .after ((recompose_queues x.room _).trans (endEvent_queues _)) (.of_lc (by simp [writeNotice]))

theorem recomposeFrom_queues (r : RoomId) (s : State) : KeepsQueues s (recomposeFrom r s) := by
  unfold recomposeFrom
  split
  · exact recomposeMembers_queues _ s
  · exact recompose_queues r s

theorem reloadRoom_queues (x : RoomLoad) (s : State) : KeepsQueues s (reloadRoom x s) := by
  unfold reloadRoom
  exact .after ((recomposeFrom_queues x.room _).trans (endEvent_queues _)) (.of_lc (by simp [writeNotice]))

@[simp] theorem renewPlans_lc (r : RoomId) (s : State) : (renewPlans r s).lc = s.lc :=
  forEach_keeps State.lc (fun n t => by split <;> rfl) _ s

theorem disableRoomWork_queues (r : RoomId) (s : State) : KeepsQueues s (disableRoomWork r s) := by
  have off : KeepsQueues s (onTime r (fun _ => RoomTime.empty) (onRoom r (fun _ => Room.off) s)) := .of_lc (by simp)
  have renewed (t : State) : KeepsQueues t
      (unlist r (onNotice r (fun _ => RoomNotice.empty) (onAir r (fun _ => RoomAir.initial) (renewPlans r t)))) :=
    .of_lc (by simp)
  unfold disableRoomWork
  exact .after (endEvent_queues _) (.after (renewed _) (off.trans (.forEach flushNode_queues _ _)))

@[simp] theorem setOverrides_lc (os : List (NodeRef × Nat)) (s : State) : (setOverrides os s).lc = s.lc := by
  unfold setOverrides
  exact forEach_keeps State.lc (fun o t => onPlan_lc o.1 _ t) os s

theorem restoreRoomWork_queues (r : RoomId) (c : Context) (s : State) : KeepsQueues s (restoreRoomWork r c s) := by
  unfold restoreRoomWork
  exact .after ((recompose_queues r _).trans (endEvent_queues _)) (.of_lc (by simp))

@[simp] theorem setMembership_lc (rooms : List RoomId) (g : Option SuiteId) (s : State) : (setMembership rooms g s).lc = s.lc :=
  forEach_keeps State.lc (fun r t => onRoom_lc r _ t) rooms s

theorem dropSuiteWork_queues (g : SuiteId) (s : State) : KeepsQueues s (dropSuiteWork g s) := by
  unfold dropSuiteWork
  exact .trans (.ite (splitSuite_queues g s) (.refl s)) (.after (.after (endEvent_queues _)
    (.forEachFree (reselect_queues none) _ _)) (.of_lc (setMembership_lc (s.members g) none _)))

theorem loadBookingWork_queues (b : Booking) (s : State) : KeepsQueues s (loadBookingWork b s) := by
  unfold loadBookingWork
  exact .after (.after (endEvent_queues _) (.forEachFree (reselect_queues _) _ _)) (.of_lc (by rfl))

theorem cancelBooking_queues : HandlerKeepsQueues cancelBooking := by
  refine .of_parsed fun id s t data e => ?_
  split at e
  · cases e
  · exact pure_queues (.after (.after (endEvent_queues _) (.forEachFree (reselect_queues none) _ _)) (.of_lc (by rfl))) e

theorem setAirDutyWork_queues (r : RoomId) (d : Duty) (s : State) : KeepsQueues s (setAirDutyWork r d s) :=
  .trans (b := onAir r (fun a => { a with waiting := some d }) s) (.of_lc (by rfl))
    (.ite (.after (recomposePart_queues _ r _) (.of_lc (by rfl))) (.refl _))

theorem roomSceneWork_queues (r : RoomId) (n : Option SceneNum) (s : State) : KeepsQueues s (roomSceneWork r n s) := by
  cases n with
  | some n => exact (setOverrideScene_queues n r s).trans (endEvent_queues _)
  | none => exact .trans (.of_lc (onRoom_lc r _ s)) ((recompose_queues r _).trans (endEvent_queues _))

theorem cancelTravel_queues : HandlerKeepsQueues cancelTravel := by
  refine .of_parsed fun n s t data e => ?_
  split at e
  · cases e
  · exact refuse_queues (refuse_queues <| pure_queues <|
      .trans (.of_lc (onPlan_lc n _ s)) ((offer_queues _ _ _).trans (endEvent_queues _))) e

@[simp] theorem setMaskWork_lc (m : BitVec 4) (s : State) : (setMaskWork m s).lc = s.lc := by
  unfold setMaskWork
  exact forEach_keeps State.lc (fun r t => offerTx_lc (t.noticeFrame r) t) _ _

@[simp] theorem forgetStranger_lc (k : WingKind) (s : State) : (forgetStranger k s).lc = s.lc := by
  unfold forgetStranger; split <;> rfl

theorem nextPending_queues : HandlerKeepsQueues nextPending := by
  refine .of_parsed fun _ s t data e => ?_
  split at e
  · exact pure_queues (.of_lc (by rfl)) e
  · exact pure_queues (.refl s) e

theorem readWingReport_queues : HandlerKeepsQueues readWingReport := by
  refine .of_parsed fun _ s t data e => ?_
  split at e
  · exact pure_queues (.refl s) e
  · exact pure_queues (.of_lc (by simp)) e

theorem resetPart_queues : HandlerKeepsQueues resetPart := .of_parsed fun _ _ _ _ => pure_queues (.of_lc (by rfl))

theorem readTrunkCounters_queues : HandlerKeepsQueues readTrunkCounters := .of_parsed fun _ s _ _ => pure_queues (.refl s)

theorem loadNode_queues : HandlerKeepsQueues loadNode :=
  .of_parsed fun x s _ _ => refuse_queues <| pure_queues (loadNodeWork_queues x s)

theorem dropNode_queues : HandlerKeepsQueues dropNode :=
  .of_parsed fun n s _ _ => refuse_queues <| refuse_queues <| pure_queues (dropNodeWork_queues n s)

theorem suspendLine_queues : HandlerKeepsQueues (lineControl fun l _ => suspendLine l) :=
  lineControl_queues fun _ _ _ => .of_ledger (by rfl)

theorem resumeLine_queues : HandlerKeepsQueues (lineControl fun l _ => resumeLine l) :=
  lineControl_queues fun _ _ _ => .of_ledger (by rfl)

theorem restartLineRequest_queues : HandlerKeepsQueues (lineControl fun l _ => restartLine l) :=
  lineControl_queues fun l _ s => restartLine_queues l s

theorem setLineTimeout_queues : HandlerKeepsQueues (lineControl setLineTimeout) :=
  lineControl_queues fun _ _ _ => .of_ledger (by rfl)

theorem readLineCounters_queues : HandlerKeepsQueues readLineCounters := .of_parsed fun _ s _ _ => pure_queues (.refl s)

theorem loadRule_queues : HandlerKeepsQueues loadRule := .of_parsed fun _ _ _ _ => pure_queues (.of_lc (setRule_lc _ _ _))

theorem dropRule_queues : HandlerKeepsQueues dropRule :=
  .of_parsed fun _ _ _ _ => refuse_queues <| pure_queues (.of_lc (setRule_lc _ _ _))

theorem loadRoom_queues : HandlerKeepsQueues loadRoom :=
  .of_parsed fun x s _ _ => pure_queues (.ite (roomIntoService_queues x s) (reloadRoom_queues x s))

theorem disableRoom_queues : HandlerKeepsQueues disableRoom :=
  .of_parsed fun r s _ _ => refuse_queues <| pure_queues (disableRoomWork_queues r s)

theorem saveRoom_queues : HandlerKeepsQueues saveRoom := .of_parsed fun _ s _ _ => refuse_queues <| pure_queues (.refl s)

theorem restoreRoom_queues : HandlerKeepsQueues restoreRoom :=
  .of_parsed fun x s _ _ => refuse_queues <| refuse_queues <| pure_queues (restoreRoomWork_queues x.1 x.2 s)

theorem setClockRequest_queues : HandlerKeepsQueues setClockRequest :=
  .of_parsed fun c s _ _ => pure_queues (setClock_queues c s)

theorem readClock_queues : HandlerKeepsQueues readClock := .of_parsed fun _ s _ _ => pure_queues (.refl s)

theorem loadBooking_queues : HandlerKeepsQueues loadBooking :=
  .of_parsed fun b s _ _ => refuse_queues <| refuse_queues <| refuse_queues <|
    pure_queues (loadBookingWork_queues b s)

theorem listBookings_queues : HandlerKeepsQueues listBookings := .of_parsed fun _ s _ _ => pure_queues (.refl s)

theorem roomRelease_queues : HandlerKeepsQueues roomRelease := .of_parsed fun r s _ _ => refuse_queues <|
    pure_queues ((passOccurrence_queues true r s).trans (endEvent_queues _))

theorem loadScene_queues : HandlerKeepsQueues loadScene := .of_parsed fun _ _ _ _ =>
    pure_queues (.after ((recomposeAll_queues _).trans (endEvent_queues _)) (.of_lc (by rfl)))

theorem loadWing_queues : HandlerKeepsQueues loadWing := .of_parsed fun x s _ _ => pure_queues <|
    .trans (b := { s with ap := { s.ap with rounding := x.1, mirrorUnclassified := x.2 } }) (.of_lc (by rfl))
      (.ite (.refl _) ((recomposeAll_queues _).trans (endEvent_queues _)))

theorem setAirDuty_queues : HandlerKeepsQueues setAirDuty :=
  .of_parsed fun x s _ _ => refuse_queues <| pure_queues (setAirDutyWork_queues x.1 x.2 s)

theorem roomScene_queues : HandlerKeepsQueues roomScene :=
  .of_parsed fun x s _ _ => refuse_queues <| refuse_queues <| pure_queues (roomSceneWork_queues x.1 x.2 s)

theorem loadFault_queues : HandlerKeepsQueues loadFault :=
  .of_parsed fun x _ _ _ => refuse_queues <| pure_queues (.after (testAssertion_queues x.1 _) (.of_lc (by rfl)))

theorem raiseFault_queues : HandlerKeepsQueues raiseFault :=
  .of_parsed fun i s _ _ => pure_queues (.ite (.refl s) (.after (testAssertion_queues i _) (.of_lc (by rfl))))

theorem dropFault_queues : HandlerKeepsQueues dropFault :=
  .of_parsed fun i s _ _ => pure_queues (.ite (.after (testAssertion_queues i _) (.of_lc (by rfl))) (.refl s))

theorem clearFault_queues : HandlerKeepsQueues clearFault :=
  .of_parsed fun i s _ _ => refuse_queues <| pure_queues (sourceMoves_queues i _ _ s)

theorem loadSuite_queues : HandlerKeepsQueues loadSuite :=
  .of_parsed fun x s _ _ => refuse_queues <| pure_queues (.of_lc (by simp [loadSuiteWork]))

theorem dropSuite_queues : HandlerKeepsQueues dropSuite :=
  .of_parsed fun g s _ _ => refuse_queues <| pure_queues (dropSuiteWork_queues g s)

theorem collectStatus_queues : HandlerKeepsQueues collectStatus :=
  .of_parsed fun _ s _ _ => refuse_queues <| pure_queues (.ite (.of_lc (by rfl)) (.refl s))

theorem sampleStatus_queues : HandlerKeepsQueues sampleStatus := .of_parsed fun _ s _ _ => pure_queues (.refl s)

theorem setNoticeMask_queues : HandlerKeepsQueues setNoticeMask :=
  .of_parsed fun _ s _ _ => pure_queues (.of_lc (setMaskWork_lc _ s))

theorem lineRows_queues : ∀ row ∈ lineRows, HandlerKeepsQueues row.handler := by
  simp only [lineRows, plainRow, lineRow, List.forall_mem_cons, List.not_mem_nil, false_imp_iff, implies_true, and_true]
  exact ⟨resetPart_queues, readTrunkCounters_queues, loadNode_queues, dropNode_queues, suspendLine_queues,
    resumeLine_queues, restartLineRequest_queues, setLineTimeout_queues, readLineCounters_queues,
    loadRule_queues, dropRule_queues⟩

theorem roomRows_queues : ∀ row ∈ roomRows, HandlerKeepsQueues row.handler := by
  simp only [roomRows, plainRow, List.forall_mem_cons, List.not_mem_nil, false_imp_iff, implies_true, and_true]
  exact ⟨loadRoom_queues, disableRoom_queues, saveRoom_queues, restoreRoom_queues, setClockRequest_queues,
    readClock_queues, loadBooking_queues, cancelBooking_queues, listBookings_queues, roomRelease_queues⟩

theorem actuationRows_queues : ∀ row ∈ actuationRows, HandlerKeepsQueues row.handler := by
  simp only [actuationRows, plainRow, List.forall_mem_cons, List.not_mem_nil, false_imp_iff, implies_true, and_true]
  exact ⟨loadScene_queues, loadWing_queues, setAirDuty_queues, roomScene_queues, cancelTravel_queues, loadFault_queues,
    raiseFault_queues, dropFault_queues, clearFault_queues⟩

theorem noticeRows_queues : ∀ row ∈ noticeRows, HandlerKeepsQueues row.handler := by
  simp only [noticeRows, plainRow, List.forall_mem_cons, List.not_mem_nil, false_imp_iff, implies_true, and_true]
  exact ⟨loadSuite_queues, dropSuite_queues, collectStatus_queues, sampleStatus_queues, nextPending_queues,
    setNoticeMask_queues, readWingReport_queues⟩

/-- Every request's owner keeps the laws of the queues. -/
theorem requestRows_queues : ∀ row ∈ requestRows, HandlerKeepsQueues row.handler := by
  intro row mem
  simp only [requestRows, List.mem_append] at mem
  obtain ((mem | mem) | mem) | mem := mem
  · exact lineRows_queues row mem
  · exact roomRows_queues row mem
  · exact actuationRows_queues row mem
  · exact noticeRows_queues row mem

end Sys2Proof.Machine
end

section
/-!
PROOFS. The line queues and their sums through the commands, the crystal and the step (R21, R22, R42).
-/

namespace Sys2Proof.Machine

/-! ### Commands and the crystal -/

/-- Whatever a command answers keeps the laws of the queues. -/
def AnswersKeeping (s : State) (a : Answer) : Prop := ∀ t, a = .next t → KeepsQueues s t

theorem KeepsQueues.answers {s t : State} (k : KeepsQueues s t) : AnswersKeeping s (.next t) := by
  rintro _ ⟨⟩
  exact k

theorem whenReady_keeping {f : State → State} {s : State} (k : KeepsQueues s (f s)) : AnswersKeeping s (whenReady f s) :=
  (KeepsQueues.ite k (.refl s)).answers

theorem heard_keeping {f : State → State} {s : State} (k : KeepsQueues s (f s)) : AnswersKeeping s (heard f s) :=
  (KeepsQueues.ite k (.refl s)).answers

theorem ifExpired_queues (t : Timer) {f : State → State} {s : State} (k : KeepsQueues s (f s)) :
    KeepsQueues s (ifExpired t f s) := .ite k (.refl s)

theorem requestRow_keeping {row : RequestRow} (mem : row ∈ requestRows) (s : State) :
    AnswersKeeping s (exec row.command s) := by
  have owner := requestRows_queues row mem
  rw [exec_requestRow row mem]
  unfold requestWhen
  split
  · rename_i tag c params taken
    split
    · cases judged : row.handler params (dropFrame s) with
      | error r => rw [serve_refused judged]; exact (KeepsQueues.of_lc (by simp)).answers
      | ok answer =>
        rw [serve_done judged]
        exact (KeepsQueues.trans (.of_lc (dropFrame_lc s)) ((owner _ _ _ _ judged).trans (.of_lc (pushTx_lc _ _)))).answers
    · exact (KeepsQueues.refl s).answers
  · exact (KeepsQueues.refl s).answers

theorem unknownRequestCode_keeping (s : State) : AnswersKeeping s (execUnknownRequestCode s) := by
  unfold execUnknownRequestCode
  split
  · exact (KeepsQueues.of_lc (by simp)).answers
  · exact KeepsQueues.answers (.ite (.refl s) (.of_lc (by simp)))
  · exact (KeepsQueues.refl s).answers

theorem admitPass_queues (tag : Byte) (c : PassCommand) (s : State) : KeepsQueues s (admitPass tag c s) := by
  unfold admitPass
  have composed (t : State) :
      KeepsQueues t (composeNode c.ref (onPlan c.ref (fun p => { p with override := some c.value }) t)) :=
    .of_lc (by rw [composeNode_lc, onPlan_lc])
  refine (offer_queues c.ref.line (c.item tag) s).trans ?_
  split
  · exact (composed _).trans ((examine_queues none c.ref _).trans (endEvent_queues _))
  · exact endEvent_queues _

theorem pass_keeping (s : State) : AnswersKeeping s (execPass s) := by
  unfold execPass
  split
  · split
    · exact ((KeepsQueues.of_lc (by simp)).trans (admitPass_queues _ _ _)).answers
    · exact (KeepsQueues.of_lc (by simp)).answers
  · exact (KeepsQueues.refl s).answers

theorem frameSent_lc {s t : State} (h : execFrameSent s = .next t) : t.lc = s.lc := by
  unfold execFrameSent at h
  split at h
  · cases h; rfl
  · split at h
    · cases h
      dsimp only
      split <;> rfl
    · cases h; rfl

/-- Power-on and reset leave every line as it is at the start (R197). -/
theorem fresh_queues (s : State) (power : Power) (deaf : Timer) (address : BitVec 6) (pins : Vector Bool 4)
    (wing : List WingReport) (pending : List Instr) (choices : Nat) :
    KeepsQueues s (State.fresh power deaf address pins wing pending choices) := by
  intro l
  have start : (State.fresh power deaf address pins wing pending choices).line l = Line.initial := look_filled _ l
  have laws : Line.initial.Queue ∧ Line.initial.Balanced := Line.laws_of_empty rfl rfl rfl
  rw [start]
  exact ⟨fun _ => laws.1, fun _ => laws.2⟩

theorem countInvalid_queues (l : LineId) (s : State) : KeepsQueues s (countInvalid l s) :=
  countLine_queues l _ s fun _ => ⟨rfl, rfl⟩

/-- A command that starts the part afresh, where it does anything. -/
theorem fresh_keeping {c : Prop} [Decidable c] {s t : State} (h : KeepsQueues s t) :
    AnswersKeeping s (.next (if c then t else s)) := (KeepsQueues.ite h (.refl s)).answers

theorem resetTakesEffect_keeping (straps : BitVec 6) (s : State) : AnswersKeeping s (execResetTakesEffect straps s) :=
  fresh_keeping (fresh_queues s .ready (some 2) straps s.pu.pins [WingReport.started .startedRequest] s.pending s.choices)

/-- A line frame that is counted as invalid, or taken. -/
theorem lineFrame_keeping {c : Prop} [Decidable c] {l : LineId} {take : State → State} (h : ∀ s, KeepsQueues s (take s))
    (s : State) : AnswersKeeping s (heard (fun s => if c then countInvalid l s else take s) s) :=
  heard_keeping (.ite (countInvalid_queues l s) (h s))

theorem exec_keeping (c : Instr) (s : State) : AnswersKeeping s (exec c s) := by
  by_cases request : ∃ row ∈ requestRows, row.command = c
  · obtain ⟨row, mem, rfl⟩ := request
    exact requestRow_keeping mem s
  cases c with
  | trunkFrameReceived f => exact (KeepsQueues.ite (.of_lc (by rfl)) (.refl s)).answers
  | frameSent => exact fun t h => .of_lc (frameSent_lc h)
  | unknownRequestCode => exact unknownRequestCode_keeping s
  | pass => exact pass_keeping s
  | resetTakesEffect => exact resetTakesEffect_keeping _ s
  | takesFramesAgain => exact (ifExpired_queues s.deaf (.of_lc (by rfl))).answers
  | powerOn => exact (KeepsQueues.ite (fresh_queues s _ _ _ _ _ _ _) (.refl s)).answers
  | partReady => exact (KeepsQueues.ite (fresh_queues s _ _ _ _ _ _ _) (.refl s)).answers
  | powerLoss => exact (KeepsQueues.ite (.refl s) (fresh_queues s _ _ _ _ _ _ _)).answers
  | report l a code value => exact lineFrame_keeping (takeReport_queues ⟨l, a⟩ code value) s
  | arrived l a position => exact lineFrame_keeping (takeArrived_queues ⟨l, a⟩ position) s
  | echo l a status current => exact lineFrame_keeping (takeEcho_queues ⟨l, a⟩ status current) s
  | invalidLineFrame l f => exact heard_keeping (.ite (countInvalid_queues l s) (.refl s))
  | itemTakenForSending l => exact whenReady_keeping (itemTakenForSending_queues l s)
  | commandFrameSent l => exact whenReady_keeping (.ite (.of_ledger (by rfl)) (.refl s))
  | echoTimerExpiry l => exact whenReady_keeping (ifExpired_queues _ (echoTimerEnds_queues l s))
  | motionHoldExpiry r => exact whenReady_keeping (ifExpired_queues _ (.after (afterRoomEvent_queues s r _) (.of_lc (by rfl))))
  | stillnessExpiry r => exact whenReady_keeping (ifExpired_queues _ (stillnessEnds_queues r s))
  | lingerExpiry r => exact whenReady_keeping (ifExpired_queues _ (lingerEnds_queues r s))
  | suiteLingerExpiry g => exact whenReady_keeping (ifExpired_queues _ (suiteLingerEnds_queues g s))
  | dutyTimerExpiry r => exact whenReady_keeping (ifExpired_queues _ (.after (recomposePart_queues _ r _) (.of_lc (by rfl))))
  | travelTimerExpiry l a => exact whenReady_keeping (ifExpired_queues _ (travelEnds_queues ⟨l, a⟩ s))
  | holdOffExpiry i => exact whenReady_keeping (ifExpired_queues _ (sourceMoves_queues i _ _ s))
  | minuteBoundary => exact whenReady_keeping (clockEvent_queues s minutePasses_queues)
  | faultPinChange p low => exact whenReady_keeping (pinChanges_queues p low s)
  | clockSecondAdvance => exact whenReady_keeping (clockEvent_queues s fun _ _ => .of_lc (by rfl))
  | _ => exact absurd (by simp [requestRows, lineRows, roomRows, actuationRows, noticeRows, plainRow, lineRow]) request

theorem tick_queues (s : State) : KeepsQueues s (tick s) := by
  have clock : ∀ t : State, (tickClock t).1.lc = t.lc := fun t => by
    unfold tickClock; split
    · rfl
    · split <;> rfl
  have timers : KeepsQueues s (tickTimers s) := fun l => .of_ledger (by simp [tickTimers, State.line, Line.ledger])
  refine .ite (.trans (timers.trans (.of_lc (clock _))) (.ite (.refl _) (.of_lc (by rfl)))) (.refl s)

theorem step_queues {s t : State} (h : step s = .next t) : KeepsQueues s t := by
  unfold step at h
  split at h
  · exact (tick_queues s).answers t h
  · rename_i c rest _
    exact .trans (.of_lc (by rfl)) (exec_keeping c { s with pending := rest } t h)

/-- Settles O58: each command keeps both laws of every line, and so does a millisecond of the crystal. -/
theorem lineQueuesAndSumsAreKept : Obligations.LineQueuesAndSumsAreKept :=
  ⟨fun _ _ laws h l => (step_queues h l).queue (laws l), fun _ _ laws h l => (step_queues h l).sum (laws l)⟩

end Sys2Proof.Machine
end

section
/-!
PROOFS. The requests of one line (R38 to R43) and READ CLOCK (R94): LINE CONTROL and what the two reads answer.
-/

namespace Sys2Proof.Machine

/-- A LINE CONTROL of the row's action is carried out and answered DONE (R38 to R41). -/
theorem lineControl_done {c : Instr} {act : LineAction} {work : LineId → Byte → State → State} {s : State} {tag : Byte}
    {ps : List Byte} {l : LineId} {n : Byte} (row : exec c s = requestWhen (takesAction act) 0x12 (lineControl work) s)
    (takes : s.Takes 0x12 tag ps) (parsed : lineControlOf ps = .ok (l, act, n)) :
    AnswersDone c s 0x12 tag [] (work l n (dropFrame s)) := by
  have mine : takesAction act ps = true := by simp [takesAction, parsed]
  have done : lineControl work ps (dropFrame s) = .ok (work l n (dropFrame s), []) := by
    simp [lineControl, parsed, bind, Except.bind, pure, Except.pure]
  unfold AnswersDone
  rw [row]
  exact (requestWhen_takes (lineControl work) takes mine).trans (by rw [serve_done done]; rfl)

/-- Settles O12, by the LINE CONTROL row of each action. -/
theorem lineControlSetsItsLine : Obligations.LineControlSetsItsLine := by
  intro s tag ps l n takes
  refine ⟨fun parsed => ⟨_, lineControl_done rfl takes parsed, rfl⟩, fun parsed => ⟨_, lineControl_done rfl takes parsed, rfl⟩,
    fun parsed => ⟨_, lineControl_done rfl takes parsed, rfl, ?_⟩⟩
  rw [setLineTimeout, line_onLine]
  rfl

/-- A refused request is answered with its code and the result alone (R187). -/
theorem request_error {c : Instr} {code tag : Byte} {ps : List Byte} {h : Handler} {s : State} {r : ResultCode}
    (row : exec c s = request code.toNat h s) (takes : s.Takes code tag ps) (refused : h ps (dropFrame s) = .error r) :
    exec c s = .next (pushTx (replyFrame tag code r []) (dropFrame s)) := by
  rw [row, request, requestWhen_takes h takes rfl, serve_refused refused]

theorem oneByte_of_length {n : Nat} {ps : List Byte} (h : ps.length ≠ 1) : oneByte n ps = .error .format := by
  unfold oneByte
  split
  · exact absurd rfl h
  · rfl

theorem oneByte_of_large {n : Nat} {b : Byte} (h : n ≤ b.toNat) : oneByte n [b] = .error .range := by
  simp [oneByte, below_eq_none (Nat.not_lt.mpr h)]

theorem oneByte_of_toNat {n : Nat} {b : Byte} {i : Fin n} (h : b.toNat = i.val) : oneByte n [b] = .ok i := by
  simp [oneByte, below_of_toNat h]

/-- The line state's code as R34 defines it. -/
theorem stateCode_eq (x : Line) :
    byteOf x.state.code = if x.down then 3 else if x.inFlight.isSome then 1 else if x.suspended then 2 else 0 := by
  unfold Line.state
  split_ifs <;> rfl

theorem countersRecord_eq (x : Line) :
    x.countersRecord =
      [(if x.down then 3 else if x.inFlight.isSome then 1 else if x.suspended then 2 else 0), byteOf x.queued.length,
        if x.inFlight.isSome then 1 else 0] ++
        bytes4 x.counts.accepted ++ bytes4 x.counts.delivered ++ bytes4 x.counts.timedOut ++ bytes4 x.counts.superseded ++
        bytes4 x.counts.flushed ++ bytes4 x.counts.lateEchoes ++ bytes4 x.counts.validFrames ++
        bytes4 x.counts.invalidFrames ++ bytes4 x.counts.timesDown := by
  rw [Line.countersRecord, stateCode_eq, LineCounts.bytes]
  simp only [List.append_assoc]
  rfl

/-- READ LINE COUNTERS, judged (R43, R187). -/
theorem readLineCounters_error {ps : List Byte} {r : ResultCode} (s : State) (h : oneByte 4 ps = .error r) :
    readLineCounters ps s = .error r := by
  simp [readLineCounters, h, bind, Except.bind]

theorem readLineCounters_ok {ps : List Byte} {l : LineId} (s : State) (h : oneByte 4 ps = .ok l) :
    readLineCounters ps s = .ok (s, (s.line l).countersRecord) := by
  simp [readLineCounters, h, bind, Except.bind, pure, Except.pure]

theorem readClock_nil (s : State) : readClock [] s = .ok (s, flagByte s.tu.clock.isSome :: clockBytes s.tu.clock) := rfl

theorem readClock_of_ne_nil {ps : List Byte} (s : State) (h : ps ≠ []) : readClock ps s = .error .format := by
  cases ps with
  | nil => exact absurd rfl h
  | cons b ps => rfl

/-- Settles O14: what each read's owner refuses and answers, its line taken as it stands. -/
theorem lineCountersAndClockAreRead : Obligations.LineCountersAndClockAreRead := by
  refine ⟨fun s tag ps takes => ⟨fun length => ?_, fun b parameters large => ?_, fun b l parameters line => ?_⟩,
    fun s tag ps takes => ⟨fun parameters => ?_, fun parameters unset => ?_, fun c parameters set => ?_⟩⟩
  · exact request_error rfl takes (readLineCounters_error _ (oneByte_of_length length))
  · subst parameters
    exact request_error rfl takes (readLineCounters_error _ (oneByte_of_large large))
  · subst parameters
    have done := request_done (c := .readLineCounters) rfl takes (readLineCounters_ok (dropFrame s) (oneByte_of_toNat line))
    rwa [show (dropFrame s).line l = s.line l from rfl, countersRecord_eq] at done
  · exact request_error rfl takes (readClock_of_ne_nil _ parameters)
  · subst parameters
    have done := request_done (c := .readClock) rfl takes (readClock_nil (dropFrame s))
    rwa [show (dropFrame s).tu.clock = none from unset] at done
  · subst parameters
    have done := request_done (c := .readClock) rfl takes (readClock_nil (dropFrame s))
    rwa [show (dropFrame s).tu.clock = some c from set] at done

end Sys2Proof.Machine
end

section
/-!
PROOFS. What an offer and an examination do to each part of the state, exactly (R23, R24, R133): the line, the plans, AP's
inbox and the answer.
-/

namespace Sys2Proof.Machine

/-! ### An offer (R23, R24) -/

/-- The node of a displaced ROOM item, which AP marks deferred (R24). -/
def displaces (l : LineId) (it : Item) (out : List Item) (m : NodeRef) : Bool :=
  m.line == l && out.any fun o => o.node == m.addr && o.origin == .room && !o.rivals it

theorem displaces_cons (l : LineId) (it o : Item) (out : List Item) (m : NodeRef) :
    displaces l it (o :: out) m = (displaces l it [o] m || displaces l it out m) := by
  simp [displaces, Bool.and_or_distrib_left]

/-- The node of one item that left the queue is marked, when the item was displaced. -/
def markItem (l : LineId) (it o : Item) (s : State) : State :=
  if o.origin = .room ∧ ¬ o.rivals it then onPlan ⟨l, o.node⟩ (fun p => { p with deferred := true }) s else s

theorem markItem_plan (l : LineId) (it o : Item) (m : NodeRef) (s : State) :
    (markItem l it o s).plan m = (s.plan m).map fun p => { p with deferred := p.deferred || displaces l it [o] m } := by
  unfold markItem
  by_cases e : m = ⟨l, o.node⟩
  · subst e
    split
    · rename_i room
      rw [plan_onPlan]
      simp [displaces, room.1, room.2]
    · rename_i room
      have spared : displaces l it [o] ⟨l, o.node⟩ = false := by simpa [displaces] using room
      simp [spared]
  · have spared : displaces l it [o] m = false := by
      by_contra marked
      simp only [displaces, List.any_cons, List.any_nil, Bool.or_false, Bool.not_eq_false, Bool.and_eq_true,
        beq_iff_eq] at marked
      obtain ⟨line, ⟨node, -⟩, -⟩ := marked
      exact e (by rw [← line, node])
    rw [spared]
    split
    · simp [plan_onPlan_ne e]
    · simp

theorem markItem_inbox (l : LineId) (it o : Item) (s : State) :
    (markItem l it o s).ap.handed = s.ap.handed ∧ (markItem l it o s).ap.freed = s.ap.freed := by
  unfold markItem; split <;> exact ⟨rfl, rfl⟩

/-- The displaced nodes are marked, each in its plan. -/
def markDisplaced (l : LineId) (it : Item) (out : List Item) (s : State) : State := forEach out (markItem l it) s

theorem markDisplaced_plan (l : LineId) (it : Item) (out : List Item) (m : NodeRef) (s : State) :
    (markDisplaced l it out s).plan m =
      (s.plan m).map fun p => { p with deferred := p.deferred || displaces l it out m } := by
  induction out generalizing s with
  | nil => simp [markDisplaced, forEach, displaces]
  | cons o out ih =>
    refine (ih (markItem l it o s)).trans ?_
    rw [markItem_plan, Option.map_map, displaces_cons l it o out]
    simp [Function.comp_def, Bool.or_assoc]

theorem markDisplaced_inbox (l : LineId) (it : Item) (out : List Item) (s : State) :
    (markDisplaced l it out s).ap.handed = s.ap.handed ∧ (markDisplaced l it out s).ap.freed = s.ap.freed :=
  ⟨forEach_keeps (fun t => t.ap.handed) (fun o t => (markItem_inbox l it o t).1) out s,
    forEach_keeps (fun t => t.ap.freed) (fun o t => (markItem_inbox l it o t).2) out s⟩

/-- An offer's parts, by whether an item leaves the queue. -/
theorem offer_eq (l : LineId) (it : Item) (s : State) :
    (offer l it s).1 =
      let r := (s.line l).offer it
      let u := onLine l (fun _ => r.1) s
      if r.2.1 = [] then u else tellFreed l (handNodes l r.2.1 (markDisplaced l it r.2.1 u)) := by
  unfold offer markDisplaced
  generalize (s.line l).offer it = r
  obtain ⟨x, out, answer⟩ := r
  cases out <;> rfl

theorem offer_answer (l : LineId) (it : Item) (s : State) : (offer l it s).2 = ((s.line l).offer it).2.2 := by
  unfold offer
  generalize (s.line l).offer it = r
  obtain ⟨x, out, answer⟩ := r
  cases out <;> rfl

theorem offer_line (l : LineId) (it : Item) (s : State) : (offer l it s).1.line l = ((s.line l).offer it).1 := by
  rw [State.line, offer_lc, ← State.line, line_onLine]

theorem offer_line_ne {k l : LineId} (h : k ≠ l) (it : Item) (s : State) : (offer l it s).1.line k = s.line k := by
  rw [State.line, offer_lc, ← State.line, line_onLine_ne h]

@[simp] theorem tellFreed_plan (l : LineId) (s : State) (m : NodeRef) : (tellFreed l s).plan m = s.plan m := by
  unfold tellFreed; split <;> rfl

@[simp] theorem handNodes_plan (l : LineId) (its : List Item) (s : State) (m : NodeRef) :
    (handNodes l its s).plan m = s.plan m := rfl

@[simp] theorem onLine_plan (l : LineId) (f : Line → Line) (s : State) (m : NodeRef) : (onLine l f s).plan m = s.plan m := rfl

theorem offer_plan (l : LineId) (it : Item) (s : State) (m : NodeRef) :
    (offer l it s).1.plan m = (s.plan m).map fun p =>
      { p with deferred := p.deferred || displaces l it ((s.line l).offer it).2.1 m } := by
  rw [offer_eq]
  dsimp only
  split
  · rename_i none
    simp [none, displaces]
  · rw [tellFreed_plan, handNodes_plan, markDisplaced_plan, onLine_plan]

@[simp] theorem tellFreed_handed (l : LineId) (s : State) : (tellFreed l s).ap.handed = s.ap.handed := by
  unfold tellFreed; split <;> rfl

theorem tellFreed_freed (l : LineId) (s : State) :
    (tellFreed l s).ap.freed = if l ∈ s.ap.freed then s.ap.freed else s.ap.freed ++ [l] := by
  unfold tellFreed; split <;> rfl

theorem handNodes_handed (l : LineId) (its : List Item) (s : State) :
    (handNodes l its s).ap.handed = s.ap.handed ++ its.map fun o => ⟨l, o.node⟩ := rfl

theorem handNodes_freed (l : LineId) (its : List Item) (s : State) : (handNodes l its s).ap.freed = s.ap.freed := rfl

theorem offer_handed (l : LineId) (it : Item) (s : State) :
    (offer l it s).1.ap.handed = s.ap.handed ++ ((s.line l).offer it).2.1.map fun o => ⟨l, o.node⟩ := by
  rw [offer_eq]
  dsimp only
  split
  · rename_i none
    simp [none, onLine]
  · rw [tellFreed_handed, handNodes_handed, (markDisplaced_inbox l it _ _).1]
    rfl

theorem offer_freed (l : LineId) (it : Item) (s : State) :
    (offer l it s).1.ap.freed =
      if ((s.line l).offer it).2.1 = [] ∨ l ∈ s.ap.freed then s.ap.freed else s.ap.freed ++ [l] := by
  rw [offer_eq]
  dsimp only
  by_cases none : ((s.line l).offer it).2.1 = []
  · rw [if_pos none, if_pos (.inl none)]; rfl
  · rw [if_neg none, tellFreed_freed, handNodes_freed, (markDisplaced_inbox l it _ _).2]
    by_cases told : l ∈ s.ap.freed <;> simp [none, told, onLine]

/-! ### An examination (R133) -/

theorem examine_eq {link : Option RoomId} {n : NodeRef} {s : State} {e : NodeEntry} {p : Plan} (entry : s.entry n = some e)
    (plan : s.plan n = some p) :
    examine link n s =
      match examined s n e p with
      | some t => noteAnswer n ((s.line n.line).offer (targetItem n e.role t link)).2.2
          (offer n.line (targetItem n e.role t link) s).1
      | none => s := by
  unfold examine
  simp only [entry, plan, offer_answer] <;> rfl

/-- What the answer makes of the deferred flag (R133). -/
def OfferAnswer.defers (a : OfferAnswer) (deferred : Bool) : Bool :=
  match a with
  | .merged => false
  | .placed => false
  | .full => true
  | .down => deferred

theorem noteAnswer_plan (n : NodeRef) (a : OfferAnswer) (s : State) :
    (noteAnswer n a s).plan n = (s.plan n).map fun p => { p with deferred := a.defers p.deferred } := by
  cases a with
  | down => simp [noteAnswer, OfferAnswer.defers]
  | _ => exact plan_onPlan n _ s

theorem noteAnswer_plan_ne {m n : NodeRef} (h : m ≠ n) (a : OfferAnswer) (s : State) :
    (noteAnswer n a s).plan m = s.plan m := by
  cases a with
  | down => rfl
  | _ => exact plan_onPlan_ne h _ s

theorem noteAnswer_inbox (n : NodeRef) (a : OfferAnswer) (s : State) :
    (noteAnswer n a s).ap.handed = s.ap.handed ∧ (noteAnswer n a s).ap.freed = s.ap.freed := by
  cases a <;> exact ⟨rfl, rfl⟩

/-- An item leaves the queue only for one that is placed or merged. -/
theorem Line.offer_down_out {x : Line} {it : Item} (h : (x.offer it).2.2 = .down ∨ (x.offer it).2.2 = .full) :
    (x.offer it).2.1 = [] := by
  have outcome := x.offer_offered it
  generalize x.offer it = r at outcome h ⊢
  cases outcome <;> simp_all

section
variable {link : Option RoomId} {n : NodeRef} {s : State} {e : NodeEntry} {p : Plan} {t : Target}
  (entry : s.entry n = some e) (plan : s.plan n = some p) (due : examined s n e p = some t)
include entry plan due

theorem examine_of_due :
    examine link n s = noteAnswer n ((s.line n.line).offer (targetItem n e.role t link)).2.2
      (offer n.line (targetItem n e.role t link) s).1 := by
  rw [examine_eq entry plan, due]

theorem examine_line : (examine link n s).line n.line = ((s.line n.line).offer (targetItem n e.role t link)).1 := by
  rw [examine_of_due entry plan due, State.line, noteAnswer_lc, ← State.line, offer_line]

theorem examine_plan_self :
    (examine link n s).plan n =
      some { p with deferred := ((s.line n.line).offer (targetItem n e.role t link)).2.2.defers p.deferred } := by
  rw [examine_of_due entry plan due, noteAnswer_plan, offer_plan, plan]
  cases answer : ((s.line n.line).offer (targetItem n e.role t link)).2.2 with
  | down => simp [OfferAnswer.defers, Line.offer_down_out (.inl answer), displaces]
  | _ => rfl

theorem examine_plan_ne {m : NodeRef} (h : m ≠ n) :
    (examine link n s).plan m = (s.plan m).map fun q =>
      let out := ((s.line n.line).offer (targetItem n e.role t link)).2.1
      { q with deferred := q.deferred || displaces n.line (targetItem n e.role t link) out m } := by
  rw [examine_of_due entry plan due, noteAnswer_plan_ne h, offer_plan]

end

/-- An examination concerns its node's line alone. -/
theorem examine_line_ne {k : LineId} {n : NodeRef} (h : k ≠ n.line) (link : Option RoomId) (s : State) :
    (examine link n s).line k = s.line k := by
  unfold examine
  split
  · split
    · rw [State.line, noteAnswer_lc, ← State.line, offer_line_ne h]
    · rfl
  · rfl

end Sys2Proof.Machine
end

section
/-!
PROOFS. Recomposition and examination of a room (R122, R125, R132, R133): what composition reads, the state in which a room's
nodes are composed, and what one examination offers.
-/

namespace Sys2Proof.Machine

/-! ### What composition reads (R122 to R125, R169) -/

/-- The parts that composition reads are the same in both states. -/
structure SameComposition (s t : State) : Prop where
  re : t.re = s.re
  pu : t.pu = s.pu
  scenes : t.ap.scenes = s.ap.scenes
  rounding : t.ap.rounding = s.ap.rounding
  part : ∀ r, (t.air r).part = (s.air r).part

namespace SameComposition

variable {s t : State} (h : SameComposition s t)
include h

theorem room (r : RoomId) : t.room r = s.room r := by simp only [State.room, h.re]

theorem scene (n : SceneNum) : t.scene n = s.scene n := by simp only [State.scene, State.loadedScene, h.scenes]

theorem bookingScene (r : RoomId) : t.bookingScene r = s.bookingScene r := by
  simp only [State.bookingScene, h.room, h.scene]

theorem view (r : RoomId) : t.view r = s.view r := by
  have phase (g : SuiteId) : t.effectivePhase g = s.effectivePhase g := by
    simp only [State.effectivePhase, State.members, State.suite, State.room, h.re]
  have strongest (g : SuiteId) : t.strongest g = s.strongest g := by
    simp only [State.strongest, State.members, State.suite, State.room, h.re, phase]
  have suite (g : SuiteId) : t.suite g = s.suite g := by simp only [State.suite, h.re]
  simp only [State.view, State.dutyFlow, h.room, h.scene, h.bookingScene, h.part, phase, strongest, suite]

theorem protection (r : RoomId) (f : Family) : t.protection r f = s.protection r f := by
  simp only [State.protection, State.source, h.pu]

theorem compose (r : RoomId) (role : Role) (p : Plan) : Machine.compose t r role p = Machine.compose s r role p := by
  have light (lingers : Bool) (level : Nat) (x : Scene) (group : Fin 4) (step : Nat) :
      lightFrom t lingers level x group step = lightFrom s lingers level x group step := by
    simp only [lightFrom, h.rounding]
  have four (v : View) : layer4 t v r role = layer4 s v r role := by
    cases role <;> simp only [layer4, h.room, h.scene, light]
  have five (v : View) : layer5 t v r role = layer5 s v r role := by
    cases role <;> simp only [layer5, h.room, light]
  have shield : role.family.bind (t.protection r) = role.family.bind (s.protection r) :=
    congrArg _ (funext (h.protection r))
  simp only [Machine.compose, h.view, h.room, four, five, shield]

end SameComposition

theorem OnlyActuation.composition {s t : State} (h : OnlyActuation s t) : SameComposition s t where
  re := h.re
  pu := h.pu
  scenes := h.tables.1
  rounding := h.tables.2.1
  part r := have e := congrArg RoomAir.part (h.air r); e

/-! ### A room's nodes (R17, R132) -/

theorem mem_nodesOf_iff {s : State} {r : RoomId} {n : NodeRef} :
    n ∈ s.nodesOf r ↔ ∃ e, s.entry n = some e ∧ e.room = r := by
  rw [State.nodesOf, List.mem_filter, and_iff_right (mem_allNodes n)]
  cases s.entry n <;> simp

/-- Node-table order: by line, and by address on one line (R17). -/
theorem allNodes_sorted : allNodes.Pairwise fun m n => m.line < n.line ∨ (m.line = n.line ∧ m.addr < n.addr) := by
  unfold allNodes
  refine List.pairwise_flatMap.mpr ⟨fun l _ => ?_, ?_⟩
  · refine List.pairwise_map.mpr ((List.pairwise_lt_finRange 32).imp fun less => .inr ⟨rfl, less⟩)
  · refine (List.pairwise_lt_finRange 4).imp fun less m hm n hn => .inl ?_
    simp only [List.mem_map] at hm hn
    obtain ⟨_, _, rfl⟩ := hm
    obtain ⟨_, _, rfl⟩ := hn
    exact less

theorem allNodes_nodup : allNodes.Nodup :=
  allNodes_sorted.imp fun before same => by
    subst same
    exact before.elim (lt_irrefl _) fun h => lt_irrefl _ h.2

theorem nodesOf_nodup (s : State) (r : RoomId) : (s.nodesOf r).Nodup := allNodes_nodup.filter _

/-! ### The room composed (R122, R125) -/

theorem updateAirMode_ap (r : RoomId) (s : State) : { (updateAirMode r s).ap with air := s.ap.air } = s.ap := by
  unfold updateAirMode
  split <;> rfl

theorem updateAirMode_air (r : RoomId) (s : State) :
    (updateAirMode r s).air r =
      { s.air r with mode := ((s.view r).bind View.airMode).orElse fun _ => (s.air r).mode } := by
  unfold updateAirMode
  split
  · rename_i m given
    rw [air_onAir, given]; rfl
  · rename_i kept
    rw [kept]; rfl

theorem updateAirMode_air_ne {q r : RoomId} (h : q ≠ r) (s : State) : (updateAirMode r s).air q = s.air q := by
  unfold updateAirMode
  split
  · simp [State.air, onAir, look_put_ne _ h]
  · rfl

theorem composeNode_ap (n : NodeRef) (s : State) : { (composeNode n s).ap with plans := s.ap.plans } = s.ap := by
  unfold composeNode; split <;> rfl

/-- Composition writes plans and nothing else of AP's. -/
theorem composeNodes_ap (ns : List NodeRef) (s : State) :
    { (forEach ns composeNode s).ap with plans := s.ap.plans } = s.ap :=
  forEach_rel (fun a b => { b.ap with plans := a.ap.plans } = a.ap) (fun _ => rfl)
    (fun {a b c} first second => by rw [← first, ← second]) composeNode_ap ns s

/-- A node that is composed once among others takes its own composition of the state before (R122). -/
theorem composeNodes_plan {ns : List NodeRef} (once : ns.Nodup) {n : NodeRef} (mem : n ∈ ns) {s : State} {e : NodeEntry}
    {p : Plan} (entry : s.entry n = some e) (plan : s.plan n = some p) :
    (forEach ns composeNode s).plan n = some (p.take (compose s e.room e.role p)) := by
  induction ns generalizing s with
  | nil => simp at mem
  | cons m ns ih =>
    obtain ⟨fresh, once⟩ := List.nodup_cons.mp once
    have only := composeNode_only m s
    obtain rfl | later := List.mem_cons.mp mem
    · have spared := forEach_keeps_mem (f := composeNode) (xs := ns) (State.plan · n)
        (fun k mem t => composeNode_plan_ne (m := n) (n := k) (fun same => fresh (same ▸ mem)) t) (composeNode n s)
      refine spared.trans ?_
      rw [composeNode_of_entry entry, plan_onPlan, plan]; rfl
    · have apart : n ≠ m := fun e => fresh (e ▸ later)
      refine (ih once later (only.entry n ▸ entry) ((composeNode_plan_ne apart s).trans plan)).trans ?_
      rw [only.composition.compose]

/-- What composition makes of a plan (R132, R139). -/
theorem Plan.take_eq (p : Plan) (given : Option Target) :
    p.take given = match given with
      | none => p
      | some t => { p with
          target := some t, stalled := p.stalled && decide (p.target.map Target.value = some t.value) } := by
  cases given with
  | none => rfl
  | some t =>
    have same : p.sameValue t = decide (p.target.map Target.value = some t.value) := by
      unfold Plan.sameValue
      cases p.target with
      | none => simp
      | some old => exact Bool.eq_iff_iff.mpr (by simp)
    simp only [Plan.take, same]

section
variable (r : RoomId) (s : State)

theorem composeRoom_rest : { composeRoom r s with ap := s.ap } = s := by
  have rest := (composeRoom_only r s).rest
  rw [← composeRoom_lc r s] at rest
  exact rest

theorem composeRoom_ap : { (composeRoom r s).ap with plans := s.ap.plans, air := s.ap.air } = s.ap := by
  have composed := composeNodes_ap (s.nodesOf r) (updateAirMode r s)
  have mode := updateAirMode_ap r s
  rw [← mode, ← composed]
  rfl

theorem composeRoom_air : (composeRoom r s).air = (updateAirMode r s).air := by
  have composed := congrArg Ap.air (composeNodes_ap (s.nodesOf r) (updateAirMode r s))
  funext q
  exact congrArg (look · q) composed

theorem updateAirMode_plan (n : NodeRef) : (updateAirMode r s).plan n = s.plan n := by
  unfold updateAirMode; split <;> rfl

variable {r s}

theorem composeRoom_plan_of_other {n : NodeRef} (h : ∀ e, s.entry n = some e → e.room ≠ r) :
    (composeRoom r s).plan n = s.plan n := by
  refine (forEach_keeps_mem (State.plan · n) (fun m mem t => composeNode_plan_ne (fun same => ?_) t) _).trans
    (updateAirMode_plan r s n)
  obtain ⟨e, entry, room⟩ := mem_nodesOf_iff.mp mem
  exact h e (same ▸ entry) room

theorem composeRoom_plan {n : NodeRef} {e : NodeEntry} {p : Plan} (entry : s.entry n = some e) (room : e.room = r)
    (plan : s.plan n = some p) : (composeRoom r s).plan n = some (p.take (compose s r e.role p)) := by
  have only := updateAirMode_only r s
  refine (composeNodes_plan (nodesOf_nodup s r) (mem_nodesOf_iff.mpr ⟨e, entry, room⟩)
    (only.entry n ▸ entry) ((updateAirMode_plan r s n).trans plan)).trans ?_
  rw [only.composition.compose, room]

end

/-- The order in which a recomposition examines: the nodes that hold an item first (R132). -/
theorem recompose_eq {r : RoomId} {s : State} (loaded : (s.room r).state ≠ .off) :
    let busy : NodeRef → Bool := fun n => ((s.line n.line).queued ++ (s.line n.line).inFlight.toList).any (·.node == n.addr)
    recompose r s = ((s.nodesOf r).filter busy ++ (s.nodesOf r).filter fun n => !busy n).foldl
      (fun u n => examine (some r) n u) (composeRoom r s) := by
  have lines (l : LineId) : (composeRoom r s).line l = s.line l := by rw [State.line, composeRoom_lc, ← State.line]
  rw [recompose, if_neg loaded]
  simp only [examineRoom, (composeRoom_only r s).nodesOf, lines, Line.holds, forEach, List.foldl_append]

/-! ### One examination (R133) -/

/-- The item that a node's target gives, by the family of its role (R133). -/
theorem targetItem_eq {n : NodeRef} {role : Role} (t : Target) (link : Option RoomId) (actuator : role.family ≠ none) :
    targetItem n role t link =
      let light : Bool := role.family == some .lights
      { node := n.addr
        kind := match role.family with
          | some .lights => .setLevel
          | some .blinds => .setPosition
          | _ => .setFlow
        value := t.value, ramp := if light then t.ramp else 0
        origin := if t.protect then .protect else .room, link := if light then link else none
        passTag := none } := by
  cases role with
  | light => rfl
  | blind => rfl
  | damper => rfl
  | panel => exact absurd rfl actuator
  | sensor => exact absurd rfl actuator

theorem Role.isBlind_iff (role : Role) : role.isBlind = true ↔ role.family = some .blinds := by
  cases role <;> simp [Role.isBlind, Role.family]

/-- An examination offers nothing, whatever the target: the room is OFF, the node OFFLINE, the plan stalled, or the blind
travels to it (R133, R155). -/
def Barred (s : State) (e : NodeEntry) (p : Plan) (t : Target) : Prop :=
  (s.room e.room).state = .off ∨ e.health = .offline ∨ p.stalled = true ∨
    (e.role.isBlind = true ∧ p.travel.isSome = true ∧ p.lastSent = some t.value)

/-- The target is not what the node has, nor what is on its way to it (R133). -/
def Due (way : Option Item) (p : Plan) (t : Target) : Prop :=
  match way with
  | some it => it.value ≠ t.value
  | none => p.lastSent ≠ some t.value ∨ p.confirmed = false

theorem examined_of_no_target {s : State} {n : NodeRef} {e : NodeEntry} {p : Plan} (h : p.target = none) :
    examined s n e p = none := by
  simp only [examined, h]

section
variable {s : State} {n : NodeRef} {e : NodeEntry} {p : Plan} {t : Target} (target : p.target = some t)
include target

theorem examined_of_barred (h : Barred s e p t) : examined s n e p = none := by
  simp only [examined, target]
  obtain off | offline | stalled | travels := h
  · rw [if_pos (.inl off)]
  · rw [if_pos (.inr (.inl offline))]
  · rw [if_pos (.inr (.inr stalled))]
  · rw [if_pos travels, ite_self]

theorem examined_of_free (h : ¬ Barred s e p t) :
    (Due ((s.line n.line).onItsWay n.addr e.role.kind) p t → examined s n e p = some t) ∧
      (¬ Due ((s.line n.line).onItsWay n.addr e.role.kind) p t → examined s n e p = none) := by
  obtain ⟨on, online, free, stays⟩ : (s.room e.room).state ≠ .off ∧ e.health ≠ .offline ∧ ¬ p.stalled = true ∧
      ¬ (e.role.isBlind = true ∧ p.travel.isSome = true ∧ p.lastSent = some t.value) := by
    simpa only [Barred, not_or] using h
  have offers : ¬ ((s.room e.room).state = .off ∨ e.health = .offline ∨ p.stalled = true) := by
    rintro (off | offline | stalled)
    · exact on off
    · exact online offline
    · exact free stalled
  simp only [examined, target, if_neg offers, if_neg stays, Due]
  cases (s.line n.line).onItsWay n.addr e.role.kind with
  | none => exact ⟨fun due => if_pos due, fun rests => if_neg rests⟩
  | some it => exact ⟨fun due => if_pos due, fun rests => if_neg rests⟩

/-- When an examination offers, it offers the target to a node that is neither barred nor served (R133). -/
theorem examined_eq_some_iff {v : Target} :
    examined s n e p = some v ↔ v = t ∧ ¬ Barred s e p t ∧ Due ((s.line n.line).onItsWay n.addr e.role.kind) p t := by
  by_cases barred : Barred s e p t
  · simp [examined_of_barred target barred, barred]
  · obtain ⟨offers, rests⟩ := examined_of_free (n := n) target barred
    by_cases due : Due ((s.line n.line).onItsWay n.addr e.role.kind) p t
    · simp [offers due, barred, due, eq_comm]
    · simp [rests due, due]

end

theorem Line.onItsWay_eq (x : Line) (a : NodeAddr) (k : CmdKind) :
    x.onItsWay a k = match x.queued.find? fun it => it.node == a && it.kind == k with
      | some it => some it
      | none => x.inFlight.filter fun it => it.node == a && it.kind == k := by
  rw [Line.onItsWay, List.find?_append]
  cases x.queued.find? fun it => it.node == a && it.kind == k with
  | some it => rfl
  | none => cases x.inFlight with
    | none => rfl
    | some it => cases matched : (it.node == a && it.kind == k) <;> simp [Option.filter, matched]

/-- Settles O54: the recomposition by `composeRoom` and its order, the examination by the offer it makes. -/
theorem examinationOffersItsTarget : Obligations.ExaminationOffersItsTarget := by
  refine ⟨fun r s => ⟨fun off => if_pos off, fun loaded => ?_⟩, fun link s n e p entry plan actuator =>
    ⟨fun target => ?_, fun t target => ?_⟩⟩
  · refine ⟨fun n => mem_nodesOf_iff, allNodes_sorted.filter _, composeRoom r s, recompose_eq loaded, composeRoom_rest r s,
      composeRoom_ap r s, ?_, fun q other => ?_, fun n => composeRoom_plan_of_other, fun n e p entry room plan => ?_⟩
    · rw [composeRoom_air, updateAirMode_air]
    · rw [composeRoom_air, updateAirMode_air_ne other]
    · rw [composeRoom_plan entry room plan, Plan.take_eq]
      cases compose s r e.role p <;> rfl
  · refine examine_of_none fun e' p' entry' plan' => examined_of_no_target ?_
    rw [plan] at plan'
    obtain rfl := Option.some.inj plan'
    exact target
  · intro x light kind item barred onItsWay due
    have way : onItsWay = x.onItsWay n.addr e.role.kind := by
      have same : kind = e.role.kind := congrArg Item.kind (targetItem_eq (n := n) t link actuator).symm
      rw [← same]
      exact (x.onItsWay_eq n.addr kind).symm
    have barred_iff : barred ↔ Barred s e p t := by
      simp only [barred, Barred, Role.isBlind_iff, Option.isSome_iff_ne_none]
    have due_iff : due ↔ Due (x.onItsWay n.addr e.role.kind) p t := by
      rw [← way]
      exact Iff.rfl
    have offered : targetItem n e.role t link = item := targetItem_eq t link actuator
    have examined_iff := examined_eq_some_iff (s := s) (n := n) (e := e) target (v := t)
    rw [← barred_iff, ← due_iff] at examined_iff
    refine ⟨fun rests => examine_of_none fun e' p' entry' plan' => ?_, fun free isDue => ?_⟩
    · obtain rfl := Option.some.inj (entry.symm.trans entry')
      obtain rfl := Option.some.inj (plan.symm.trans plan')
      by_contra offers
      obtain ⟨v, offers⟩ := Option.ne_none_iff_exists'.mp offers
      obtain ⟨rfl, free, isDue⟩ := (examined_eq_some_iff target).mp offers
      exact rests.elim (fun b => free (barred_iff.mp b)) fun d => d (due_iff.mpr isDue)
    · have offers := examined_iff.mpr ⟨rfl, free, isDue⟩
      have line := examine_line (link := link) entry plan offers
      have self := examine_plan_self (link := link) entry plan offers
      rw [offered] at line self
      refine ⟨examine_only link n s, line, fun k other => examine_line_ne other link s, self, fun m q other plan' => ?_⟩
      have marked := examine_plan_ne (link := link) entry plan offers other
      rwa [offered, plan'] at marked

end Sys2Proof.Machine
end

section
/-!
PROOFS. The crystal (R64, R90, R126, R137, R148; logs 4 and 38): what a millisecond makes of the timers and of the wing clock's
count, and the commands that it puts in the queue.
-/

namespace Sys2Proof.Machine

/-! ### The expiries due -/

theorem mem_dueCommand {t : Timer} {c d : Instr} : c ∈ dueCommand t d ↔ t = some 0 ∧ c = d := by
  unfold dueCommand
  split <;> simp [*]

/-- The timer whose expiry a command is. -/
def State.timerOf (s : State) : Instr → Timer
  | .takesFramesAgain => s.deaf
  | .echoTimerExpiry l => (s.line l).echoTimer
  | .motionHoldExpiry r => (s.room r).motionHold
  | .stillnessExpiry r => (s.room r).stillness
  | .lingerExpiry r => (s.room r).linger
  | .dutyTimerExpiry r => (s.air r).timer
  | .suiteLingerExpiry g => (s.suite g).bind Suite.linger
  | .travelTimerExpiry l a => (s.plan ⟨l, a⟩).bind Plan.travel
  | .holdOffExpiry i => (s.source i).timer
  | _ => none

theorem dueCommand_timer {s : State} {t : Timer} {c d : Instr} (h : c ∈ dueCommand t d) (timer : s.timerOf d = t) :
    s.timerOf c = some 0 := by
  obtain ⟨zero, rfl⟩ := mem_dueCommand.mp h
  exact timer.trans zero

theorem dueCommand_self {t : Timer} {c : Instr} (zero : t = some 0) : c ∈ dueCommand t c := mem_dueCommand.mpr ⟨zero, rfl⟩

/-- What falls due is the expiry of a timer at 0. -/
theorem mem_dueCommands {s : State} {c : Instr} : c ∈ dueCommands s ↔ s.timerOf c = some 0 := by
  simp only [dueCommands, List.mem_append, List.mem_flatMap, allRooms, allSources, List.mem_finRange, true_and]
  constructor
  · rintro (((((h | ⟨l, h⟩) | ⟨r, ((h | h) | h) | h⟩) | ⟨g, h⟩) | ⟨n, _, h⟩) | ⟨i, h⟩)
    all_goals exact dueCommand_timer h rfl
  · intro zero
    cases c with
    | takesFramesAgain => exact .inl (.inl (.inl (.inl (.inl (dueCommand_self zero)))))
    | echoTimerExpiry l => exact .inl (.inl (.inl (.inl (.inr ⟨l, dueCommand_self zero⟩))))
    | motionHoldExpiry r => exact .inl (.inl (.inl (.inr ⟨r, .inl (.inl (.inl (dueCommand_self zero)))⟩)))
    | stillnessExpiry r => exact .inl (.inl (.inl (.inr ⟨r, .inl (.inl (.inr (dueCommand_self zero)))⟩)))
    | lingerExpiry r => exact .inl (.inl (.inl (.inr ⟨r, .inl (.inr (dueCommand_self zero))⟩)))
    | dutyTimerExpiry r => exact .inl (.inl (.inl (.inr ⟨r, .inr (dueCommand_self zero)⟩)))
    | suiteLingerExpiry g => exact .inl (.inl (.inr ⟨g, dueCommand_self zero⟩))
    | travelTimerExpiry l a => exact .inl (.inr ⟨⟨l, a⟩, mem_allNodes _, dueCommand_self zero⟩)
    | holdOffExpiry i => exact .inr ⟨i, dueCommand_self zero⟩
    | _ => exact nomatch (show (none : Timer) = some 0 from zero)

/-- Every expiry there is, once. -/
def expiries : List Instr :=
  [Instr.takesFramesAgain] ++ (List.finRange 4).flatMap (fun l => [Instr.echoTimerExpiry l]) ++
  allRooms.flatMap (fun r =>
    [Instr.motionHoldExpiry r] ++ [Instr.stillnessExpiry r] ++ [Instr.lingerExpiry r] ++ [Instr.dutyTimerExpiry r]) ++
  (List.finRange 8).flatMap (fun g => [Instr.suiteLingerExpiry g]) ++
  allNodes.flatMap (fun n => [Instr.travelTimerExpiry n.line n.addr]) ++ allSources.flatMap (fun i => [Instr.holdOffExpiry i])

theorem dueCommand_sublist (t : Timer) (c : Instr) : (dueCommand t c).Sublist [c] := by
  unfold dueCommand
  split
  · exact .refl _
  · exact List.nil_sublist _

theorem dueCommands_sublist (s : State) : (dueCommands s).Sublist expiries := by
  have one := dueCommand_sublist
  have each {ι : Type} (xs : List ι) {f g : ι → List Instr} (h : ∀ i, (f i).Sublist (g i)) :
      (xs.flatMap f).Sublist (xs.flatMap g) := List.Sublist.flatMap_right xs fun i _ => h i
  refine .append (.append (.append (.append (.append (one _ _) (each _ fun l => one _ _)) (each _ fun r => ?_))
    (each _ fun g => one _ _)) (each _ fun n => one _ _)) (each _ fun i => one _ _)
  exact .append (.append (.append (one _ _) (one _ _)) (one _ _)) (one _ _)

/-- The part of `expiries` that an expiry stands in. -/
def expiryPart : Instr → Nat
  | .takesFramesAgain => 0
  | .echoTimerExpiry _ => 1
  | .motionHoldExpiry _ => 2
  | .stillnessExpiry _ => 2
  | .lingerExpiry _ => 2
  | .dutyTimerExpiry _ => 2
  | .suiteLingerExpiry _ => 3
  | .travelTimerExpiry _ _ => 4
  | .holdOffExpiry _ => 5
  | _ => 6

/-- The expiries of one part, each once. -/
structure OnePart (k : Nat) (cs : List Instr) : Prop where
  once : cs.Nodup
  part : ∀ c ∈ cs, expiryPart c = k

theorem OnePart.flatMap {ι : Type} {k : Nat} {xs : List ι} {f : ι → List Instr} (once : xs.Nodup) (each : ∀ i, OnePart k (f i))
    (apart : ∀ i j c, c ∈ f i → c ∈ f j → i = j) : OnePart k (xs.flatMap f) where
  once := List.nodup_flatMap.mpr ⟨fun i _ => (each i).once, once.imp fun ne c first second => ne (apart _ _ c first second)⟩
  part c mem := by
    obtain ⟨i, _, mem⟩ := List.mem_flatMap.mp mem
    exact (each i).part c mem

theorem OnePart.single {k : Nat} {c : Instr} (h : expiryPart c = k) : OnePart k [c] :=
  ⟨List.nodup_singleton c, fun _ mem => List.mem_singleton.mp mem ▸ h⟩

/-- A part that stands behind the parts before it. -/
theorem nodup_append_part {k : Nat} {xs ys : List Instr} (before : xs.Nodup ∧ ∀ c ∈ xs, expiryPart c < k) (next : OnePart k ys) :
    (xs ++ ys).Nodup ∧ ∀ c ∈ xs ++ ys, expiryPart c < k + 1 := by
  refine ⟨before.1.append next.once fun c first second => ?_, fun c mem => ?_⟩
  · have one := before.2 c first
    have two := next.part c second
    omega
  · obtain mem | mem := List.mem_append.mp mem
    · exact (before.2 c mem).trans k.lt_succ_self
    · exact (next.part c mem).trans_lt k.lt_succ_self

theorem expiries_nodup : expiries.Nodup := by
  have first : [Instr.takesFramesAgain].Nodup ∧ ∀ c ∈ [Instr.takesFramesAgain], expiryPart c < 1 := by simp [expiryPart]
  have lines : OnePart 1 ((List.finRange 4).flatMap fun l => [Instr.echoTimerExpiry l]) :=
    .flatMap (List.nodup_finRange 4) (fun l => .single rfl) (by simp)
  have rooms : OnePart 2 (allRooms.flatMap fun r => [Instr.motionHoldExpiry r] ++ [Instr.stillnessExpiry r] ++
      [Instr.lingerExpiry r] ++ [Instr.dutyTimerExpiry r]) :=
    .flatMap (List.nodup_finRange 48) (fun r => ⟨by simp, by simp [expiryPart]⟩) (by simp)
  have suites : OnePart 3 ((List.finRange 8).flatMap fun g => [Instr.suiteLingerExpiry g]) :=
    .flatMap (List.nodup_finRange 8) (fun g => .single rfl) (by simp)
  have nodes : OnePart 4 (allNodes.flatMap fun n => [Instr.travelTimerExpiry n.line n.addr]) :=
    .flatMap allNodes_nodup (fun n => .single rfl) fun ⟨l, a⟩ ⟨k, b⟩ c => by
      rintro (_ | ⟨_, ⟨⟩⟩) (_ | ⟨_, ⟨⟩⟩)
      rfl
  have sources : OnePart 5 (allSources.flatMap fun i => [Instr.holdOffExpiry i]) :=
    .flatMap (List.nodup_finRange 8) (fun i => .single rfl) (by simp)
  exact (nodup_append_part (nodup_append_part (nodup_append_part (nodup_append_part (nodup_append_part first lines) rooms)
    suites) nodes) sources).1

/-! ### A millisecond -/

/-- The wing clock's count, at most the second that waits to be taken (logs 17 and 38). -/
theorem tickClock_eq (s : State) :
    (tickClock s).1 = { s with tu := { s.tu with ms := if s.tu.clock = none then s.tu.ms else min 1000 (s.tu.ms + 1) } } := by
  unfold tickClock
  split
  · rename_i unset
    rw [if_pos unset]
  · rename_i c set
    have runs : (if s.tu.clock = none then s.tu.ms else min 1000 (s.tu.ms + 1)) = min 1000 (s.tu.ms + 1) :=
      if_neg (by simp [set])
    rw [runs]
    by_cases running : s.tu.ms < 999
    · rw [if_pos running, Nat.min_eq_right (by omega)]
    · rw [if_neg running, Nat.min_eq_left (by omega)]

theorem mem_tickClock {s : State} {c : Instr} :
    c ∈ (tickClock s).2 ↔ ∃ k, s.tu.clock = some k ∧ 999 ≤ s.tu.ms ∧
      c = if k.second < 59 then .clockSecondAdvance else .minuteBoundary := by
  unfold tickClock
  split
  · rename_i unset
    simp [unset]
  · rename_i k set
    split
    · rename_i running
      simp [set, running]
    · rename_i passed
      simp [set, Nat.not_lt.mp passed]

/-- The state of the timers and of the clock's count after a millisecond (R64, R90). -/
def ticked (s : State) : State := (tickClock (tickTimers s)).1

/-- The commands that a millisecond brings. -/
def tickDue (s : State) : List Instr := dueCommands (ticked s) ++ (tickClock (tickTimers s)).2

/-- The milliseconds of the second after this one (R90; log 17). -/
def State.nextMs (s : State) : Nat := if s.tu.clock = none then s.tu.ms else min 1000 (s.tu.ms + 1)

theorem ticked_eq (s : State) : ticked s = { tickTimers s with tu := { s.tu with ms := s.nextMs } } := tickClock_eq _

/-- A millisecond of a part with no command waiting: `ticked`, and what is due in the queue. -/
theorem tick_eq {s : State} (ready : s.power = .ready) (idle : s.pending = []) :
    ∃ n k, tick s = { ticked s with pending := freeOrder n (tickDue s), choices := k } := by
  have kept : (ticked s).pending = [] := by rw [ticked_eq]; exact idle
  unfold tick
  rw [if_pos ready]
  dsimp only
  split
  · rename_i none
    refine ⟨0, (ticked s).choices, ?_⟩
    rw [show tickDue s = [] from none, show freeOrder 0 ([] : List Instr) = (ticked s).pending from kept.symm]
    rfl
  · refine ⟨(ticked s).choices, (ticked s).choices + 1, ?_⟩
    exact congrArg (fun queue => { ticked s with pending := queue ++ freeOrder (ticked s).choices (tickDue s)
                                                 choices := (ticked s).choices + 1 }) kept

theorem mem_tickDue {s : State} {c : Instr} :
    c ∈ tickDue s ↔ (ticked s).timerOf c = some 0 ∨ ∃ k, s.tu.clock = some k ∧ 999 ≤ s.tu.ms ∧
      c = if k.second < 59 then .clockSecondAdvance else .minuteBoundary := by
  rw [tickDue, List.mem_append, mem_dueCommands, mem_tickClock]
  rfl

/-- A command that the wing clock does not bring is due with its timer. -/
theorem mem_tickDue_of_timer {s : State} {c : Instr} (second : c ≠ .clockSecondAdvance) (minute : c ≠ .minuteBoundary) :
    c ∈ tickDue s ↔ (ticked s).timerOf c = some 0 := by
  rw [mem_tickDue, or_iff_left]
  rintro ⟨k, -, -, event⟩
  split at event
  · exact second event
  · exact minute event

/-- The second has passed once its count is 1000 (R90; log 17). -/
theorem nextMs_eq_iff {s : State} {p : Clock → Prop} :
    (s.nextMs = 1000 ∧ ∃ k, s.tu.clock = some k ∧ p k) ↔ ∃ k, s.tu.clock = some k ∧ 999 ≤ s.tu.ms ∧ p k := by
  have passed {k : Clock} (set : s.tu.clock = some k) : s.nextMs = 1000 ↔ 999 ≤ s.tu.ms := by
    rw [State.nextMs, if_neg (by simp [set])]
    omega
  constructor
  · rintro ⟨ms, k, set, h⟩
    exact ⟨k, set, (passed set).mp ms, h⟩
  · rintro ⟨k, set, ms, h⟩
    exact ⟨(passed set).mpr ms, k, set, h⟩

theorem clockSecondAdvance_due {s : State} :
    Instr.clockSecondAdvance ∈ tickDue s ↔ s.nextMs = 1000 ∧ ∃ k, s.tu.clock = some k ∧ k.second < 59 := by
  rw [nextMs_eq_iff, mem_tickDue, or_iff_right (nofun : ¬ (ticked s).timerOf .clockSecondAdvance = some 0)]
  refine exists_congr fun k => and_congr_right fun _ => and_congr_right fun _ => ?_
  split <;> simp [*]

theorem minuteBoundary_due {s : State} :
    Instr.minuteBoundary ∈ tickDue s ↔ s.nextMs = 1000 ∧ ∃ k, s.tu.clock = some k ∧ 59 ≤ k.second := by
  rw [nextMs_eq_iff, mem_tickDue, or_iff_right (nofun : ¬ (ticked s).timerOf .minuteBoundary = some 0)]
  refine exists_congr fun k => and_congr_right fun _ => and_congr_right fun _ => ?_
  rw [← Nat.not_lt]
  split <;> simp [*]

theorem tickDue_nodup (s : State) : (tickDue s).Nodup := by
  refine (expiries_nodup.sublist (dueCommands_sublist _)).append ?_ ?_
  · unfold tickClock
    split
    · exact List.nodup_nil
    · split
      · exact List.nodup_nil
      · exact List.nodup_singleton _
  · intro c due event
    obtain ⟨k, -, -, rfl⟩ := mem_tickClock.mp event
    have timer := mem_dueCommands.mp due
    split at timer
    · exact nomatch (show (none : Timer) = some 0 from timer)
    · exact nomatch (show (none : Timer) = some 0 from timer)

theorem step_idle {s : State} (idle : s.pending = []) : step s = .next (tick s) := by
  unfold step
  rw [idle]

/-- Settles O35: the fields from `ticked_eq`, the queue from `mem_tickDue`, and each expiry's own test. -/
theorem crystalRunsTheTimers : Obligations.CrystalRunsTheTimers := by
  refine ⟨fun s idle => ⟨fun off => ?_, fun ready => ?_⟩, fun s => ⟨fun h => ?_, fun l h => ?_, fun r =>
    ⟨fun h => ?_, fun h => ?_, fun h => ?_, fun h => ?_⟩, fun g h => ?_, fun l a h => ?_, fun i h => ?_⟩⟩
  · rw [step_idle idle, tick, if_neg off]
  · obtain ⟨n, k, tick⟩ := tick_eq ready idle
    rw [ticked_eq] at tick
    refine ⟨_, (step_idle idle).trans (congrArg _ tick), ready, rfl, rfl, rfl, rfl, rfl, rfl, fun l => look_map _ _ l,
      fun r => look_map _ _ r, fun g => look_map _ _ g, fun n => ?_, fun r => look_map _ _ r, rfl, fun i => look_map _ _ i, rfl,
      (freeOrder_perm n _).nodup_iff.mpr (tickDue_nodup s), fun c => mem_freeOrder.trans ?_⟩
    · simp [State.plan, tickTimers, Timer.tick]
    have due := mem_tickDue_of_timer (s := s) (c := c)
    rw [ticked_eq] at due
    cases c with
    | clockSecondAdvance => exact clockSecondAdvance_due
    | minuteBoundary => exact minuteBoundary_due
    | suiteLingerExpiry g => exact (due nofun nofun).trans Option.bind_eq_some_iff
    | travelTimerExpiry l a => exact (due nofun nofun).trans Option.bind_eq_some_iff
    | takesFramesAgain => exact due nofun nofun
    | echoTimerExpiry l => exact due nofun nofun
    | motionHoldExpiry r => exact due nofun nofun
    | stillnessExpiry r => exact due nofun nofun
    | lingerExpiry r => exact due nofun nofun
    | dutyTimerExpiry r => exact due nofun nofun
    | holdOffExpiry i => exact due nofun nofun
    | _ => exact (due nofun nofun).trans (iff_of_false nofun id)
  · exact congrArg Host.Outcome.next (ifExpired_ne h _ s)
  · exact whenReady_unchanged (ifExpired_ne h _ s)
  · exact whenReady_unchanged (ifExpired_ne h _ s)
  · exact whenReady_unchanged (ifExpired_ne h _ s)
  · exact whenReady_unchanged (ifExpired_ne h _ s)
  · exact whenReady_unchanged (ifExpired_ne h _ s)
  · refine whenReady_unchanged (ifExpired_ne ?_ _ s)
    simpa [Option.bind_eq_some_iff] using h
  · refine whenReady_unchanged (ifExpired_ne ?_ _ s)
    simpa [Option.bind_eq_some_iff] using h
  · exact whenReady_unchanged (ifExpired_ne h _ s)

end Sys2Proof.Machine
end

section
/-!
PROOFS. What taking AP's inbox leaves (R22, R133 to R135; log 9): an induction for it, the plans and the air, a node that is
offered nothing, a line whose nodes are all at rest, and an inbox in which nothing is to do.
-/

namespace Sys2Proof.Machine

/-! ### Examinations offer and defer, and change nothing else -/

/-- From `s` to `t` AP offers and line controllers place and remove items; plans lose or gain the deferred flag alone. -/
structure OnlyOffers (s t : State) : Prop where
  only : OnlyActuation s t
  kept : ∀ m, (t.plan m).map Plan.kept = (s.plan m).map Plan.kept
  air : t.ap.air = s.ap.air

namespace OnlyOffers

theorem refl (s : State) : OnlyOffers s s := ⟨.refl s, fun _ => rfl, rfl⟩

theorem trans {a b c : State} (h : OnlyOffers a b) (k : OnlyOffers b c) : OnlyOffers a c :=
  ⟨h.only.trans k.only, fun m => (k.kept m).trans (h.kept m), k.air.trans h.air⟩

theorem forEach {α : Type} {f : α → State → State} (h : ∀ x s, OnlyOffers s (f x s)) (xs : List α) (s : State) :
    OnlyOffers s (Machine.forEach xs f s) := forEach_rel OnlyOffers refl (fun h k => h.trans k) h xs s

/-- AP's inbox is no part of it. -/
theorem inbox (s : State) (handed : List NodeRef) (freed : List LineId) :
    OnlyOffers s { s with ap := { s.ap with handed := handed, freed := freed } } :=
  ⟨⟨rfl, fun _ => rfl, fun _ => rfl, fun _ => rfl, ⟨rfl, rfl, rfl⟩, fun _ h => h⟩, fun _ => rfl, rfl⟩

/-- The deferred flag is what may change. -/
theorem defer (n : NodeRef) (b : Plan → Bool) (s : State) :
    OnlyOffers s (onPlan n (fun p => { p with deferred := b p }) s) :=
  ⟨onPlan_only n _ s fun _ _ => rfl, fun m => onPlan_kept n m _ s fun _ => rfl, rfl⟩

end OnlyOffers

theorem offer_air (l : LineId) (it : Item) (s : State) : (offer l it s).1.ap.air = s.ap.air := by
  rw [offer_eq]
  dsimp only
  split
  · rfl
  · have told (u : State) : (tellFreed l u).ap.air = u.ap.air := by unfold tellFreed; split <;> rfl
    rw [told]
    exact forEach_keeps (fun u => u.ap.air) (fun o t => by unfold markItem; split <;> rfl) _ (onLine l _ s)

theorem offer_offers (l : LineId) (it : Item) (s : State) : OnlyOffers s (offer l it s).1 :=
  ⟨offer_only l it s, fun m => offer_kept l it m s, offer_air l it s⟩

theorem noteAnswer_offers (n : NodeRef) (a : OfferAnswer) (s : State) : OnlyOffers s (noteAnswer n a s) :=
  ⟨noteAnswer_only n a s, fun m => noteAnswer_kept n m a s, by cases a <;> rfl⟩

theorem examine_offers (link : Option RoomId) (n : NodeRef) (s : State) : OnlyOffers s (examine link n s) := by
  unfold examine
  split
  · split
    · exact (offer_offers _ _ s).trans (noteAnswer_offers n _ _)
    · exact .refl s
  · exact .refl s

/-! ### An induction for AP's inbox -/

/-- What every piece of work keeps, all of them keep. -/
theorem forEach_induction {α : Type} {π : State → Prop} {f : α → State → State} (h : ∀ x s, π s → π (f x s)) (xs : List α)
    {s : State} (start : π s) : π (forEach xs f s) :=
  List.foldlRecOn xs (fun t x => f x t) start fun t ht x _ => h x t ht

/-- AP's inbox is taken by examinations, and by clearing deferred flags (R134, R135). -/
theorem settle_induction {π : State → Prop}
    (inbox : ∀ u handed freed, π u → π { u with ap := { u.ap with handed := handed, freed := freed } })
    (forget : ∀ u n, π u → π (onPlan n (fun p => { p with deferred := false }) u))
    (examined : ∀ u n, π u → π (examine none n u)) {s : State} (start : π s) : π (settle s) := by
  have handed (u : State) (h : π u) : π (takeHanded u) :=
    forEach_induction (fun n t => examined t n) _ (inbox u [] u.ap.freed h)
  have retried (l : LineId) (u : State) (h : π u) : π (retryDeferred l u) := by
    refine forEach_induction (fun a t ht => ?_) _ h
    split
    · split
      · exact examined _ _ (forget t _ ht)
      · exact ht
    · exact ht
  have freed (u : State) (h : π u) : π (takeFreed u) := forEach_induction retried _ (inbox u u.ap.handed [] h)
  have round (u : State) (h : π u) : π (settleRound u) := freed _ (handed u h)
  exact round _ (round _ (round _ start))

theorem settle_offers (s : State) : OnlyOffers s (settle s) :=
  settle_induction (π := OnlyOffers s) (fun u handed freed h => h.trans (.inbox u handed freed))
    (fun u n h => h.trans (.defer n (fun _ => false) u)) (fun u n h => h.trans (examine_offers none n u)) (.refl s)

/-- The end of an event with no NOTICE owed: AP takes its inbox, and that is all. -/
theorem endEvent_of_settled {s : State} (settled : s.Settled) : endEvent s = settle s := by
  have due : (settle s).nu.due = [] := (congrArg Nu.due (settle_only s).nu).trans settled
  rw [endEvent, buildNotices_settled _ due]

theorem endEvent_offers {s : State} (settled : s.Settled) : OnlyOffers s (endEvent s) := by
  rw [endEvent_of_settled settled]
  exact settle_offers s

/-- Building the NOTICE frames concerns no line and none of AP's state. -/
theorem endEvent_lc (s : State) : (endEvent s).lc = (settle s).lc := buildNotices_lc _

theorem endEvent_ap (s : State) : (endEvent s).ap = (settle s).ap := by
  have e := congrArg State.ap (buildNotices_rest (settle s)).1
  exact e

theorem endEvent_line (l : LineId) (s : State) : (endEvent s).line l = (settle s).line l := by
  rw [State.line, endEvent_lc, ← State.line]

theorem endEvent_plan (n : NodeRef) (s : State) : (endEvent s).plan n = (settle s).plan n := by
  rw [State.plan, endEvent_ap, ← State.plan]

/-! ### A node that is offered nothing -/

theorem Line.mem_offer {x : Line} {it r : Item} (h : r ∈ (x.offer it).1.queued) : r ∈ x.queued ∨ r = it := by
  have outcome := x.offer_offered it
  generalize x.offer it = o at outcome h
  cases outcome with
  | down => exact .inl h
  | full => exact .inl h
  | merged =>
    revert h
    cases it.origin.band <;>
      simp only [Line.queued, Line.withBand, Line.band, mergeInto_eq, List.mem_append, List.mem_map] <;> grind
  | moved =>
    revert h
    cases it.origin.band <;>
      simp only [Line.queued, Line.withBand, Line.band, Band.other, List.mem_append, List.mem_filter, List.mem_singleton] <;>
      grind
  | joined =>
    revert h
    cases it.origin.band <;>
      simp only [Line.queued, Line.withBand, Line.band, List.mem_append, List.mem_singleton] <;> grind
  | displaced _ _ _ _ older newest last =>
    simp only [Line.queued, List.mem_append, List.mem_singleton, last] at h ⊢
    grind

theorem Line.mem_offer_out {x : Line} {it r : Item} (h : r ∈ (x.offer it).2.1) : r ∈ x.queued := by
  have outcome := x.offer_offered it
  generalize x.offer it = o at outcome h
  cases outcome with
  | down => cases h
  | full => cases h
  | merged => cases h
  | joined => cases h
  | moved => exact (Line.mem_queued_iff it.origin.band).mpr (.inr (List.mem_filter.mp h).1)
  | displaced _ _ _ _ older newest last =>
    rw [List.mem_singleton] at h
    subst h
    simp [Line.queued, last]

/-- A node without an entry or a plan, or OFFLINE, of which no item is queued and which is not deferred. -/
structure Silent (n : NodeRef) (s : State) : Prop where
  rests : ∀ e p, s.entry n = some e → s.plan n = some p → e.health = .offline
  queue : ∀ it ∈ (s.line n.line).queued, it.node ≠ n.addr
  calm : ∀ p, s.plan n = some p → p.deferred = false

theorem examined_of_offline {s : State} {n : NodeRef} {e : NodeEntry} {p : Plan} (h : e.health = .offline) :
    examined s n e p = none := by
  cases target : p.target with
  | none => exact examined_of_no_target target
  | some t => exact examined_of_barred target (.inr (.inl h))

theorem examine_cases (link : Option RoomId) (n : NodeRef) (s : State) :
    examine link n s = s ∨ ∃ e p t, s.entry n = some e ∧ s.plan n = some p ∧ examined s n e p = some t := by
  cases entry : s.entry n with
  | none => exact .inl (examine_of_none fun e p h => by rw [entry] at h; cases h)
  | some e =>
    cases plan : s.plan n with
    | none => exact .inl (examine_of_none fun e p _ h => by rw [plan] at h; cases h)
    | some p =>
      cases due : examined s n e p with
      | none => exact .inl (by rw [examine_eq entry plan, due])
      | some t => exact .inr ⟨e, p, t, rfl, rfl, due⟩

/-- An examination leaves a silent node's plan, and the node silent. -/
theorem Silent.examine {n : NodeRef} {s : State} (h : Silent n s) (link : Option RoomId) (m : NodeRef) :
    Silent n (examine link m s) ∧ (Machine.examine link m s).plan n = s.plan n := by
  obtain same | ⟨e, p, t, entry, plan, due⟩ := examine_cases link m s
  · rw [same]; exact ⟨h, rfl⟩
  have apart : n ≠ m := by
    rintro rfl
    rw [examined_of_offline (h.rests e p entry plan)] at due
    cases due
  have spared : displaces m.line (targetItem m e.role t link)
      ((s.line m.line).offer (targetItem m e.role t link)).2.1 n = false := by
    by_contra marked
    simp only [displaces, Bool.not_eq_false, Bool.and_eq_true, beq_iff_eq, List.any_eq_true] at marked
    obtain ⟨line, o, out, ⟨node, -⟩, -⟩ := marked
    exact h.queue o (line ▸ Line.mem_offer_out out) node
  have same : (Machine.examine link m s).plan n = s.plan n := by
    rw [examine_plan_ne entry plan due apart]
    simp [spared]
  refine ⟨⟨fun e' p' entry' plan' => h.rests e' p' ((examine_only link m s).entry n ▸ entry') (same ▸ plan'), fun it mem => ?_,
    fun p' plan' => h.calm p' (same ▸ plan')⟩, same⟩
  by_cases line : n.line = m.line
  · rw [line, examine_line entry plan due] at mem
    obtain old | rfl := Line.mem_offer mem
    · exact h.queue it (line ▸ old)
    · exact fun node => apart (by cases n; cases m; exact congrArg₂ NodeRef.mk line node.symm)
  · rw [examine_line_ne line] at mem
    exact h.queue it mem

/-- AP's inbox leaves a silent node as it is. -/
theorem Silent.settle {n : NodeRef} {s : State} (h : Silent n s) :
    Silent n (settle s) ∧ (Machine.settle s).plan n = s.plan n := by
  refine settle_induction (π := fun u => Silent n u ∧ u.plan n = s.plan n) (fun u _ _ k => ⟨⟨k.1.rests, k.1.queue, k.1.calm⟩, k.2⟩)
    (fun u m k => ?_) (fun u m k => ?_) ⟨h, rfl⟩
  · obtain ⟨silent, same⟩ := k
    have spared : (onPlan m (fun p => { p with deferred := false }) u).plan n = u.plan n := by
      by_cases e : n = m
      · subst e
        rw [plan_onPlan]
        cases plan : u.plan n with
        | none => rfl
        | some p =>
          have calm := silent.calm p plan
          simp [← calm]
      · exact plan_onPlan_ne e _ u
    exact ⟨⟨fun e p entry plan => silent.rests e p entry (spared ▸ plan), silent.queue,
      fun p plan => silent.calm p (spared ▸ plan)⟩, spared.trans same⟩
  · obtain ⟨silent, same⟩ := k.1.examine none m
    exact ⟨silent, same.trans k.2⟩

/-! ### A line whose nodes are at rest -/

/-- An examination of the node leaves its line as it is: the line is DOWN, or nothing is due. -/
def OffersNothing (n : NodeRef) (s : State) : Prop :=
  (s.line n.line).down = true ∨ ∀ e p, s.entry n = some e → s.plan n = some p → examined s n e p = none

theorem OffersNothing.line {n : NodeRef} {s : State} (h : OffersNothing n s) (link : Option RoomId) :
    (examine link n s).line n.line = s.line n.line := by
  obtain down | rests := h
  · obtain same | ⟨e, p, t, entry, plan, due⟩ := examine_cases link n s
    · rw [same]
    · rw [examine_line entry plan due, Line.offer_down down]
  · rw [examine_of_none rests]

/-- What an examination reads of a plan is not the deferred flag. -/
theorem examined_congr {s u : State} {n : NodeRef} {e : NodeEntry} {p q : Plan} (room : (u.room e.room).state = (s.room e.room).state)
    (line : u.line n.line = s.line n.line) (kept : q.kept = p.kept) : examined u n e q = examined s n e p := by
  have same (v : State) (x : Plan) : examined v n e x = examined v n e x.kept := rfl
  rw [same u, same s, kept]
  simp only [examined, room, line]

theorem OffersNothing.of_offers {s u : State} (h : OnlyOffers s u) {n : NodeRef} (line : u.line n.line = s.line n.line)
    (rests : OffersNothing n s) : OffersNothing n u := by
  obtain down | rests := rests
  · exact .inl (line ▸ down)
  · refine .inr fun e q entry plan => ?_
    have kept := h.kept n
    rw [plan, Option.map_some] at kept
    obtain ⟨p, old, same⟩ := Option.map_eq_some_iff.mp kept.symm
    rw [examined_congr (by rw [h.only.room]) line same.symm]
    exact rests e p (h.only.entry n ▸ entry) old

/-- AP's inbox leaves a line whose nodes are at rest as it is. -/
theorem settle_line_of_rest {l : LineId} {s : State} (h : ∀ a, OffersNothing ⟨l, a⟩ s) : (settle s).line l = s.line l := by
  refine (settle_induction (π := fun u => OnlyOffers s u ∧ u.line l = s.line l)
    (fun u handed freed k => ⟨k.1.trans (.inbox u handed freed), k.2⟩)
    (fun u n k => ⟨k.1.trans (.defer n (fun _ => false) u), k.2⟩) (fun u n k => ⟨k.1.trans (examine_offers none n u), ?_⟩)
    ⟨.refl s, rfl⟩).2
  obtain ⟨offers, line⟩ := k
  by_cases e : n.line = l
  · subst e
    exact (OffersNothing.of_offers offers line (h n.addr)).line none |>.trans line
  · exact (examine_line_ne (Ne.symm e) none u).trans line

theorem settle_line_of_down {l : LineId} {s : State} (down : (s.line l).down = true) : (settle s).line l = s.line l :=
  settle_line_of_rest fun _ => .inl down

/-! ### An inbox in which nothing is to do -/

theorem forEach_fixed {α : Type} {f : α → State → State} {xs : List α} {s : State} (h : ∀ x ∈ xs, f x s = s) :
    forEach xs f s = s := by
  induction xs with
  | nil => rfl
  | cons x xs ih =>
    refine Eq.trans ?_ (ih fun y mem => h y (List.mem_cons_of_mem x mem))
    exact congrArg (forEach xs f) (h x (by simp))

/-- A line without a deferred node is not retried (R134). -/
theorem retryDeferred_of_calm {l : LineId} {s : State} (h : ∀ a p, s.plan ⟨l, a⟩ = some p → p.deferred = false) :
    retryDeferred l s = s := by
  refine forEach_fixed fun a _ => ?_
  split
  · rename_i p plan
    rw [h a p plan]; rfl
  · rfl

/-- Where the nodes handed to AP are offered nothing and no node waits for a freed place, AP empties its inbox and does no
more. -/
theorem settle_of_idle {s : State}
    (handed : ∀ n ∈ s.ap.handed, ∀ e p, s.entry n = some e → s.plan n = some p → examined s n e p = none)
    (freed : ∀ l ∈ s.ap.freed, ∀ a p, s.plan ⟨l, a⟩ = some p → p.deferred = false) :
    settle s = { s with ap := { s.ap with handed := [], freed := [] } } := by
  have first : takeHanded s = { s with ap := { s.ap with handed := [] } } :=
    forEach_fixed fun n mem => examine_of_none fun e p entry plan => handed n mem e p entry plan
  have second : takeFreed { s with ap := { s.ap with handed := [] } } = { s with ap := { s.ap with handed := [], freed := [] } } :=
    forEach_fixed fun l mem => retryDeferred_of_calm fun a p plan => freed l mem a p plan
  have round : settleRound s = { s with ap := { s.ap with handed := [], freed := [] } } := by rw [settleRound, first, second]
  rw [settle, round, settleRound_of_empty rfl rfl, settleRound_of_empty rfl rfl]

/-! ### A removal claim (R25) -/

theorem removeItems_plan (l : LineId) (p : Item → Bool) (k : RemovalKind) (s : State) (m : NodeRef) :
    (removeItems l p k s).plan m = s.plan m := by
  unfold removeItems
  dsimp only
  split
  · rfl
  · rw [tellFreed_plan]; rfl

theorem removeItems_air (l : LineId) (p : Item → Bool) (k : RemovalKind) (s : State) :
    (removeItems l p k s).ap.air = s.ap.air := by
  have told (u : State) : (tellFreed l u).ap.air = u.ap.air := by unfold tellFreed; split <;> rfl
  unfold removeItems
  dsimp only
  split
  · rfl
  · rw [told]; rfl

theorem removeItems_offers (l : LineId) (p : Item → Bool) (k : RemovalKind) (s : State) :
    OnlyOffers s (removeItems l p k s) :=
  ⟨removeItems_only l p k s, fun m => by rw [removeItems_plan], removeItems_air l p k s⟩

theorem removeItems_line (l : LineId) (p : Item → Bool) (k : RemovalKind) (s : State) :
    (removeItems l p k s).line l = (s.line l).remove p k := by
  rw [State.line, removeItems_lc, ← State.line, line_onLine]

theorem removeItems_line_ne {j l : LineId} (h : j ≠ l) (p : Item → Bool) (k : RemovalKind) (s : State) :
    (removeItems l p k s).line j = s.line j := by
  rw [State.line, removeItems_lc, ← State.line, line_onLine_ne h]

theorem mem_tellFreed {j l : LineId} {s : State} (mem : j ∈ (tellFreed l s).ap.freed) : j ∈ s.ap.freed ∨ j = l := by
  rw [tellFreed_freed] at mem
  split at mem
  · exact .inl mem
  · exact (List.mem_append.mp mem).imp_right List.mem_singleton.mp

/-- What a removal claim tells AP: nodes of the line alone, and at most that a place of it has freed. -/
theorem removeItems_inbox (l : LineId) (p : Item → Bool) (k : RemovalKind) (s : State) :
    (removeItems l p k s).ap.handed = s.ap.handed ++ ((s.line l).queued.filter p).map (fun o => ⟨l, o.node⟩) ∧
      ∀ j ∈ (removeItems l p k s).ap.freed, j ∈ s.ap.freed ∨ j = l := by
  unfold removeItems
  dsimp only
  split
  · rename_i none
    exact ⟨by simp [none], fun j mem => .inl mem⟩
  · refine ⟨by rw [tellFreed_handed]; rfl, fun j mem => ?_⟩
    have told := mem_tellFreed mem
    exact told

theorem flushNode_offers (n : NodeRef) (s : State) : OnlyOffers s (flushNode n s) := removeItems_offers _ _ _ s

end Sys2Proof.Machine
end

section
/-!
PROOFS. LOAD NODE and DROP NODE (R18, R19): the work on a node that is being loaded or dropped, a piece at a time.
-/

namespace Sys2Proof.Machine

namespace NodeWork

theorem of_offers {n : NodeRef} {s t : State} (h : OnlyOffers s t) : NodeWork n s t where
  rest := h.only.rest
  lines l := by rw [h.only.lines]; rfl
  entries m _ := h.only.entry m
  plans m _ := h.kept m
  air := h.air
  tables := h.only.tables

theorem refl (n : NodeRef) (s : State) : NodeWork n s s := of_offers (.refl s)

theorem trans {n : NodeRef} {a b c : State} (h : NodeWork n a b) (k : NodeWork n b c) : NodeWork n a c where
  rest := by
    have first := h.rest
    rw [← k.rest] at first
    exact first
  lines l := (congrArg (fun x : Line => { x with nodes := (a.line l).nodes }) (k.lines l)).trans (h.lines l)
  entries m other := (k.entries m other).trans (h.entries m other)
  plans m other := (k.plans m other).trans (h.plans m other)
  air := k.air.trans h.air
  tables := ⟨k.tables.1.trans h.tables.1, k.tables.2.1.trans h.tables.2.1, k.tables.2.2.trans h.tables.2.2⟩

theorem setPlan (n : NodeRef) (p : Option Plan) (s : State) : NodeWork n s (Machine.setPlan n p s) where
  rest := rfl
  lines _ := rfl
  entries _ _ := rfl
  plans m other := by rw [plan_setPlan_ne other]
  air := rfl
  tables := ⟨rfl, rfl, rfl⟩

theorem setEntry (n : NodeRef) (e : Option NodeEntry) (s : State) : NodeWork n s (Machine.setEntry n e s) where
  rest := rfl
  lines l := by
    by_cases same : l = n.line
    · subst same
      simp only [Machine.setEntry, line_onLine]
      rfl
    · simp only [Machine.setEntry, line_onLine_ne same]
      rfl
  entries m other := entry_setEntry_ne other e s
  plans _ _ := rfl
  air := rfl
  tables := ⟨rfl, rfl, rfl⟩

theorem composeNode (n : NodeRef) (s : State) : NodeWork n s (Machine.composeNode n s) where
  rest := (composeNode_only n s).rest
  lines l := by rw [(composeNode_only n s).lines]; rfl
  entries m _ := (composeNode_only n s).entry m
  plans m other := by rw [composeNode_plan_ne other]
  air := have e := congrArg Ap.air (composeNode_ap n s); e
  tables := (composeNode_only n s).tables

end NodeWork

/-- The flag of a plan with everything but the deferred flag known. -/
theorem plan_of_kept {s u : State} {n : NodeRef} (h : OnlyOffers s u) {p : Plan} (plan : s.plan n = some p) :
    ∃ q, u.plan n = some q ∧ q.kept = p.kept := by
  have kept := h.kept n
  rw [plan, Option.map_some] at kept
  exact Option.map_eq_some_iff.mp kept

theorem plan_none_of_kept {s u : State} {n : NodeRef} (h : OnlyOffers s u) (plan : s.plan n = none) : u.plan n = none := by
  have kept := h.kept n
  rw [plan] at kept
  exact Option.map_eq_none_iff.mp kept

/-- The node's place as LOAD NODE writes it, its old items flushed (R18). -/
def placed (x : NodeLoad) (s : State) : State :=
  let s := if (s.entry x.ref).isSome then flushNode x.ref s else s
  setPlan x.ref x.role.freshPlan (setEntry x.ref (some (x.entry (s.line x.ref.line).down)) s)

theorem loadNodeWork_eq (x : NodeLoad) (s : State) :
    loadNodeWork x s = endEvent (examine none x.ref (composeNode x.ref (settle (placed x s)))) := rfl

section
variable (x : NodeLoad) (s : State)

theorem placed_work : NodeWork x.ref s (placed x s) := by
  unfold placed
  dsimp only
  split
  · exact (NodeWork.of_offers (flushNode_offers _ s)).trans ((NodeWork.setEntry _ _ _).trans (NodeWork.setPlan _ _ _))
  · exact (NodeWork.setEntry _ _ _).trans (NodeWork.setPlan _ _ _)

theorem placed_plan : (placed x s).plan x.ref = x.role.freshPlan := plan_setPlan _ _ _

theorem placed_entry : (placed x s).entry x.ref = some (x.entry (s.line x.ref.line).down) := by
  have entry (p : Option Plan) (e : Option NodeEntry) (u : State) :
      (setPlan x.ref p (setEntry x.ref e u)).entry x.ref = e := entry_setEntry _ e u
  unfold placed
  dsimp only
  rw [entry]
  split
  · rw [(flushNode_only x.ref s).down]
  · rfl

end

/-- Of a plan, composition reads the node override alone (R122). -/
theorem compose_of_override {p q : Plan} (h : p.override = q.override) (s : State) (r : RoomId) (role : Role) :
    compose s r role p = compose s r role q := by
  simp only [compose, h]

/-- A fresh plan takes what composition gives, and nothing else (R18, R132). -/
theorem Plan.take_of_fresh {q : Plan} (h : q.kept = Plan.fresh) (given : Option Target) :
    (q.take given).kept = { Plan.fresh with target := given } := by
  obtain ⟨target, lastSent, confirmed, override, travel, stalled, alarm, deferred⟩ := q
  simp only [Plan.kept, Plan.fresh, Plan.mk.injEq] at h
  obtain ⟨rfl, rfl, rfl, rfl, rfl, rfl, rfl, -⟩ := h
  cases given <;> rfl

/-- LOAD NODE from the composition of the node on: AP offers, and that is all. -/
theorem loadNodeWork_offers {x : NodeLoad} {s : State} (settled : s.Settled) :
    OnlyOffers (composeNode x.ref (settle (placed x s))) (loadNodeWork x s) := by
  rw [loadNodeWork_eq]
  refine (examine_offers none x.ref _).trans (endEvent_offers ?_)
  rw [State.Settled, (examine_only none x.ref _).nu, (composeNode_only _ _).nu, (settle_only _).nu]
  exact (congrArg (·.nu.due) (placed_work x s).rest).trans settled

theorem loadNodeWork_work {x : NodeLoad} {s : State} (settled : s.Settled) : NodeWork x.ref s (loadNodeWork x s) :=
  (placed_work x s).trans ((NodeWork.of_offers (settle_offers _)).trans
    ((NodeWork.composeNode x.ref _).trans (.of_offers (loadNodeWork_offers settled))))

theorem loadNodeWork_entry {x : NodeLoad} {s : State} (settled : s.Settled) :
    (loadNodeWork x s).entry x.ref = some (x.entry (s.line x.ref.line).down) := by
  rw [(loadNodeWork_offers settled).only.entry, (composeNode_only _ _).entry, (settle_only _).entry, placed_entry]

theorem loadNodeWork_plan_none {x : NodeLoad} {s : State} (settled : s.Settled) (other : x.role.family = none) :
    (loadNodeWork x s).plan x.ref = none := by
  refine plan_none_of_kept (loadNodeWork_offers settled) ?_
  have none : (settle (placed x s)).plan x.ref = none :=
    plan_none_of_kept (settle_offers _) (by rw [placed_plan, Role.freshPlan, other]; rfl)
  rw [composeNode_of_entry (((settle_only _).entry _).trans (placed_entry x s)), plan_onPlan, none]
  rfl

/-- LOAD NODE of an actuator node: its plan is fresh but for the target, which composition gives (R18). -/
theorem loadNodeWork_plan {x : NodeLoad} {s : State} (settled : s.Settled) (actuator : x.role.family ≠ none) :
    ∃ p, (loadNodeWork x s).plan x.ref = some p ∧
      p.kept = { Plan.fresh with target := compose (loadNodeWork x s) x.room x.role p } := by
  have fresh : (placed x s).plan x.ref = some Plan.fresh := by
    rw [placed_plan, Role.freshPlan, if_pos (Option.isSome_iff_ne_none.mpr actuator)]
  obtain ⟨q, plan, kept⟩ := plan_of_kept (settle_offers (placed x s)) fresh
  have entry := ((settle_only (placed x s)).entry x.ref).trans (placed_entry x s)
  have composed : (composeNode x.ref (settle (placed x s))).plan x.ref =
      some (q.take (compose (settle (placed x s)) x.room x.role q)) := by
    rw [composeNode_of_entry entry, plan_onPlan, plan]; rfl
  have after := loadNodeWork_offers (x := x) settled
  obtain ⟨p, final, same⟩ := plan_of_kept after composed
  rw [Plan.take_of_fresh kept] at same
  have override : p.override = q.override :=
    (congrArg Plan.override same).trans (congrArg Plan.override kept).symm
  refine ⟨p, final, same.trans ?_⟩
  rw [after.only.composition.compose, (composeNode_only _ _).composition.compose, compose_of_override override]

/-- The node's place as DROP NODE empties it (R19). -/
def emptied (n : NodeRef) (s : State) : State := setEntry n none (setPlan n none (flushNode n s))

theorem emptied_work (n : NodeRef) (s : State) : NodeWork n s (emptied n s) :=
  (NodeWork.of_offers (flushNode_offers n s)).trans ((NodeWork.setPlan _ _ _).trans (NodeWork.setEntry _ _ _))

theorem Line.mem_remove {x : Line} {p : Item → Bool} {k : RemovalKind} {it : Item} :
    it ∈ (x.remove p k).queued ↔ it ∈ x.queued ∧ p it = false := by
  simp only [Line.remove, Line.queued, List.mem_append, List.mem_filter, Bool.not_eq_true', ← or_and_right]

/-- No item of a node is queued once its items are flushed (R25). -/
theorem flushNode_queue (n : NodeRef) (s : State) : ∀ it ∈ ((flushNode n s).line n.line).queued, it.node ≠ n.addr := by
  intro it mem
  rw [flushNode, removeItems_line, Line.mem_remove] at mem
  simpa using mem.2

theorem emptied_silent (n : NodeRef) (s : State) : Silent n (emptied n s) where
  rests e p entry _ := by
    rw [emptied, entry_setEntry] at entry
    cases entry
  queue it mem := by
    rw [emptied, setEntry, line_onLine] at mem
    exact flushNode_queue n s it mem
  calm p plan := by
    have none : (emptied n s).plan n = none := plan_setPlan n none (flushNode n s)
    rw [none] at plan
    cases plan

theorem loadNode_ok {ps : List Byte} {x : NodeLoad} {s : State} (parsed : nodeLoad ps = .ok x)
    (free : s.entry x.ref = none ∨ s.busyNode x.ref = false) : loadNode ps s = .ok (loadNodeWork x s, []) := by
  have accepted : ((s.entry x.ref).isSome && s.busyNode x.ref) = false := by
    rw [Bool.and_eq_false_iff, Option.isSome_eq_false_iff, Option.isNone_iff_eq_none]
    exact free
  simp [loadNode, parsed, accepted, refuseWhen, bind, Except.bind, pure, Except.pure]

theorem dropNode_ok {ps : List Byte} {n : NodeRef} {e : NodeEntry} {s : State} (parsed : nodeRefOf ps = .ok n)
    (entry : s.entry n = some e) (free : s.busyNode n = false) : dropNode ps s = .ok (dropNodeWork n s, []) := by
  simp [dropNode, parsed, entry, free, refuseWhen, bind, Except.bind, pure, Except.pure]

theorem Plan.fields_of_fresh {p : Plan} {given : Option Target} (h : p.kept = { Plan.fresh with target := given }) :
    p.lastSent = none ∧ p.confirmed = false ∧ p.override = none ∧ p.travel = none ∧ p.stalled = false ∧ p.alarm = false ∧
      p.target = given := by
  simp only [Plan.kept, Plan.fresh, Plan.mk.injEq] at h
  obtain ⟨target, lastSent, confirmed, override, travel, stalled, alarm, -⟩ := h
  exact ⟨lastSent, confirmed, override, travel, stalled, alarm, target⟩

/-- Settles O11: LOAD NODE by its pieces, DROP NODE by the silence of a node without an entry. -/
theorem nodesAreLoadedAndDropped : Obligations.NodesAreLoadedAndDropped := by
  refine ⟨fun s tag ps x takes parsed free settled => ?_, fun s tag ps n e takes parsed entry free settled => ?_⟩
  · have accepted := loadNode_ok (s := dropFrame s) parsed free
    refine ⟨_, request_done rfl takes accepted, loadNodeWork_work settled, loadNodeWork_entry settled,
      loadNodeWork_plan_none settled, fun actuator => ?_⟩
    obtain ⟨p, plan, kept⟩ := loadNodeWork_plan (x := x) (s := dropFrame s) settled actuator
    exact ⟨p, plan, Plan.fields_of_fresh kept⟩
  · have due : (emptied n (dropFrame s)).Settled := (congrArg (·.nu.due) (emptied_work n (dropFrame s)).rest).trans settled
    have offers := endEvent_offers due
    have work : dropNodeWork n (dropFrame s) = endEvent (emptied n (dropFrame s)) := rfl
    obtain ⟨silent, -⟩ := (emptied_silent n (dropFrame s)).settle
    refine ⟨_, request_done rfl takes (dropNode_ok (s := dropFrame s) parsed entry free), ?_, ?_, ?_, ?_⟩
    · exact (emptied_work n _).trans (.of_offers offers)
    · rw [work, offers.only.entry]
      exact entry_setEntry n none _
    · exact plan_none_of_kept offers (plan_setPlan n none (flushNode n (dropFrame s)))
    · rw [work, endEvent_line]
      exact silent.queue

end Sys2Proof.Machine
end

section
/-!
PROOFS. Sending (R26, R27, R134): the item an IDLE line takes, and the place it frees.
-/

namespace Sys2Proof.Machine

/-! ### The item that is taken (R26) -/

theorem Line.nextItem_urgent {x : Line} {it head : Item} {rest : List Item} (next : x.nextItem = some it)
    (urgent : x.urgent = head :: rest) : it = head := by
  simp only [Line.nextItem, urgent] at next
  exact (Option.some.inj next).symm

theorem Line.nextItem_follow {x : Line} {it found : Item} {m : RoomId} (next : x.nextItem = some it) (urgent : x.urgent = [])
    (follow : x.follow = some m) (marked : x.normal.find? (fun y => y.link == some m) = some found) : it = found := by
  simp only [Line.nextItem, urgent, follow, marked] at next
  exact (Option.some.inj next).symm

theorem Line.nextItem_normal {x : Line} {it : Item} (next : x.nextItem = some it) (urgent : x.urgent = [])
    (unmarked : ∀ m, x.follow = some m → ∀ y ∈ x.normal, y.link ≠ some m) : x.normal.head? = some it := by
  simp only [Line.nextItem, urgent] at next
  split at next
  · rename_i m follow
    have none : x.normal.find? (fun y => y.link == some m) = none := by
      rw [List.find?_eq_none]
      intro y mem
      simpa using unmarked m follow y mem
    rwa [none] at next
  · exact next

theorem Line.without_eq (x : Line) (it : Item) :
    x.without it = { x with urgent := x.urgent.tail, normal := if x.urgent = [] then x.normal.erase it else x.normal } := by
  unfold Line.without
  split
  · rename_i urgent
    simp [urgent]
  · rename_i urgent
    simp [urgent]

theorem Line.down_of_idle {x : Line} (h : x.state = .idle) : x.down = false := by
  by_contra down
  rw [Bool.not_eq_false] at down
  rw [Line.state, if_pos down] at h
  cases h

/-- The state once the item is in flight, its place not yet told to AP. -/
def sending (l : LineId) (it : Item) (s : State) : State :=
  onLine l (fun x => { x with
    urgent := x.urgent.tail, normal := if x.urgent = [] then x.normal.erase it else x.normal
    inFlight := some it, driving := true }) s

theorem takeItem_eq (l : LineId) (it : Item) (s : State) : takeItem l it s = endEvent (tellFreed l (sending l it s)) := by
  simp only [takeItem, Line.without_eq, sending]

/-! ### A retry, node by node (R134) -/

/-- A deferred node of a line is examined, its flag clear. -/
def retryNode (k : LineId) (u : State) (a : NodeAddr) : State :=
  if (u.plan ⟨k, a⟩).any Plan.deferred then
    examine none ⟨k, a⟩ (onPlan ⟨k, a⟩ (fun p => { p with deferred := false }) u)
  else u

theorem retryDeferred_eq (k : LineId) (u : State) : retryDeferred k u = (List.finRange 32).foldl (retryNode k) u := by
  unfold retryDeferred forEach
  refine congrArg (fun f => List.foldl f u _) ?_
  funext t a
  unfold retryNode
  dsimp only
  split
  · rename_i p plan
    simp [plan]
  · rename_i plan
    simp [plan]

/-- One round of AP's inbox, written out. -/
theorem settleRound_eq (u : State) :
    settleRound u =
      let v := u.ap.handed.foldl (fun w n => examine none n w) { u with ap := { u.ap with handed := [] } }
      v.ap.freed.foldl (fun w k => (List.finRange 32).foldl (retryNode k) w) { v with ap := { v.ap with freed := [] } } := by
  have retried : (fun (w : State) (k : LineId) => (List.finRange 32).foldl (retryNode k) w) = fun w k => retryDeferred k w := by
    funext w k
    exact (retryDeferred_eq k w).symm
  rw [retried]
  rfl

theorem tellFreed_inbox {l : LineId} {s : State} (freed : s.ap.freed = []) :
    tellFreed l s = { s with ap := { s.ap with freed := [l] } } := by
  simp [tellFreed, freed]

/-- A place that frees while AP's inbox is empty: the first round is the line's retry. -/
theorem settleRound_tellFreed {l : LineId} {s : State} (handed : s.ap.handed = []) (freed : s.ap.freed = []) :
    settleRound (tellFreed l s) = retryDeferred l s := by
  have none : takeHanded (tellFreed l s) = tellFreed l s := by
    have empty : (tellFreed l s).ap.handed = [] := (tellFreed_handed l s).trans handed
    rw [takeHanded, empty]
    simp only [forEach, List.foldl_nil]
    rw [← empty]
  rw [settleRound, none, tellFreed_inbox freed]
  have same : ({ s with ap := { s.ap with freed := [] } } : State) = s := by rw [← freed]
  simp only [takeFreed, forEach, List.foldl_cons, List.foldl_nil]
  exact congrArg (retryDeferred l) same

theorem tellFreed_offers (l : LineId) (s : State) : OnlyOffers s (tellFreed l s) :=
  ⟨tellFreed_only l s, fun m => by rw [tellFreed_plan], by unfold tellFreed; split <;> rfl⟩

theorem itemTakenForSending_exec {l : LineId} {it : Item} {s : State} (ready : s.power = .ready)
    (idle : (s.line l).state = .idle) (next : (s.line l).nextItem = some it) (settled : s.Settled) :
    exec (.itemTakenForSending l) s = .next (settle (tellFreed l (sending l it s))) := by
  have due : (tellFreed l (sending l it s)).Settled := by
    rw [State.Settled, (tellFreed_only l _).nu]
    exact settled
  rw [← endEvent_of_settled due, ← takeItem_eq]
  change whenReady _ s = _
  simp only [whenReady, ready, idle, next, if_true]

section
variable {l : LineId} {it : Item} {s t : State} (h : OnlyOffers (sending l it s) t)
include h

theorem sending_rest : { t with lc := s.lc, ap := s.ap } = s := by
  have rest := congrArg (fun u : State => { u with lc := s.lc, ap := s.ap }) h.only.rest
  exact rest

theorem sending_frame : (t.line l).frame = { (s.line l).frame with inFlight := some it, driving := true } := by
  rw [h.only.lines, sending, line_onLine]; rfl

theorem sending_frame_ne {k : LineId} (other : k ≠ l) : (t.line k).frame = (s.line k).frame := by
  rw [h.only.lines, sending, line_onLine_ne other]

theorem sending_state (idle : (s.line l).state = .idle) : (t.line l).state = .awaitEcho := by
  have flight : (t.line l).inFlight = some it := by rw [h.only.inFlight, sending, line_onLine]
  have down : (t.line l).down = false := by
    rw [h.only.down, sending, line_onLine]
    have up := Line.down_of_idle idle
    exact up
  simp [Line.state, flight, down]

end

/-- While no node of the line waits, nothing is retried: the line loses the item that is sent, and no more. -/
theorem settle_sending_of_calm {l : LineId} {it : Item} {s : State} (handed : s.ap.handed = []) (freed : s.ap.freed = [])
    (calm : ∀ a p, s.plan ⟨l, a⟩ = some p → p.deferred = false) :
    settle (tellFreed l (sending l it s)) = sending l it s := by
  have empty : (sending l it s).ap.handed = [] ∧ (sending l it s).ap.freed = [] := ⟨handed, freed⟩
  have still : retryDeferred l (sending l it s) = sending l it s := retryDeferred_of_calm calm
  rw [settle, settleRound_tellFreed empty.1 empty.2, still, settleRound_of_empty empty.1 empty.2,
    settleRound_of_empty empty.1 empty.2]

/-- COMMAND FRAME SENT of the item in flight (R27, R41). -/
theorem commandFrameSent_exec {l : LineId} {s : State} (ready : s.power = .ready) (flight : (s.line l).inFlight ≠ none)
    (driving : (s.line l).driving = true) :
    exec (.commandFrameSent l) s =
      .next (onLine l (fun x => { x with driving := false, echoTimer := some x.timeoutMs }) s) := by
  have sent : (s.line l).inFlight.isSome = true ∧ (s.line l).driving = true :=
    ⟨Option.isSome_iff_ne_none.mpr flight, driving⟩
  change whenReady _ s = _
  simp only [whenReady, if_pos ready, if_pos sent]

/-- Settles O16: the item by `nextItem`'s cases, the queues by the retry that the freed place brings. -/
theorem idleLineSendsItsNextItem : Obligations.IdleLineSendsItsNextItem := by
  refine ⟨fun l it s ready idle next settled => ⟨fun x rest => Line.nextItem_urgent next, fun m x => Line.nextItem_follow next,
    Line.nextItem_normal next, _, itemTakenForSending_exec ready idle next settled, ?_⟩,
    fun l s ready flight driving => commandFrameSent_exec ready flight driving⟩
  have offers := (tellFreed_offers l (sending l it s)).trans (settle_offers _)
  refine ⟨sending_rest offers, sending_state offers idle, sending_frame offers, fun k => sending_frame_ne offers, offers.kept,
    offers.air, fun handed freed calm => ?_, ?_⟩
  · rw [settle_sending_of_calm handed freed calm, sending, line_onLine]
    exact ⟨rfl, rfl⟩
  · intro left retry retried round handed freed
    have round_eq : round = settleRound := funext fun u => (settleRound_eq u).symm
    have first : retried left l = retryDeferred l (sending l it s) := (retryDeferred_eq l _).symm
    have rounds : settle (tellFreed l (sending l it s)) = round (round (retried left l)) := by
      have empty : (sending l it s).ap.handed = [] ∧ (sending l it s).ap.freed = [] := ⟨handed, freed⟩
      rw [round_eq, first, settle, settleRound_tellFreed empty.1 empty.2]
    refine ⟨rounds, fun none left => ?_⟩
    rw [rounds, round_eq, settleRound_of_empty none left, settleRound_of_empty none left]

end Sys2Proof.Machine
end

section
/-!
PROOFS. Node health (R32, R33, R136): work that moves the health of some nodes and no more, and what a node that becomes OFFLINE
loses.
-/

namespace Sys2Proof.Machine

/-! ### Conditions accumulate (R174) -/

theorem CondSet.holds_add_self (x : CondSet) (c : Condition) : CondSet.holds (CondSet.add x c) c = true := by
  cases c <;> simp [CondSet.holds, CondSet.add, Condition.code]

theorem CondSet.holds_add {x : CondSet} {c d : Condition} (h : CondSet.holds x d = true) :
    CondSet.holds (CondSet.add x c) d = true := by
  simp only [CondSet.holds, CondSet.add, BitVec.getLsbD_or, Bool.or_eq_true] at h ⊢
  exact .inl h

theorem raise_holds {c : Condition} {r : RoomId} {s : State} (loaded : (s.room r).state ≠ .off) :
    CondSet.holds ((raise c r s).notice r).conds c = true := by
  rw [raise_conds c r s loaded]
  exact CondSet.holds_add_self _ c

theorem raise_keeps_conds (c : Condition) (r : RoomId) {q : RoomId} {d : Condition} {s : State}
    (h : CondSet.holds (s.notice q).conds d = true) : CondSet.holds ((raise c r s).notice q).conds d = true := by
  by_cases e : q = r
  · subst e
    by_cases off : (s.room q).state = .off
    · rwa [raise, if_pos off]
    · rw [raise_conds c q s off]
      exact CondSet.holds_add h
  · rwa [raise_notice_ne c e]

/-! ### Work on the health of some nodes -/

/-- From `s` to `t` AP examines and the nodes that `P` names change entry and plan; conditions accumulate and NOTICE frames are
built. -/
structure HealthWork (P : NodeRef → Prop) (s t : State) : Prop where
  re : t.re = s.re
  tu : t.tu = s.tu
  cl : t.cl = s.cl
  pu : t.pu = s.pu
  wing : t.nu.wing = s.nu.wing
  lines : ∀ k, { (t.line k).frame with nodes := (s.line k).nodes } = (s.line k).frame
  entries : ∀ m, ¬ P m → t.entry m = s.entry m
  plans : ∀ m, ¬ P m → (t.plan m).map Plan.kept = (s.plan m).map Plan.kept
  conds : ∀ r c, CondSet.holds (s.notice r).conds c = true → CondSet.holds (t.notice r).conds c = true

namespace HealthWork

variable {P : NodeRef → Prop}

theorem of_offers {s t : State} (h : OnlyOffers s t) : HealthWork P s t where
  re := h.only.re
  tu := h.only.tu
  cl := h.only.cl
  pu := h.only.pu
  wing := congrArg Nu.wing h.only.nu
  lines k := by rw [h.only.lines]; rfl
  entries m _ := h.only.entry m
  plans m _ := h.kept m
  conds r c e := by rwa [h.only.notice]

theorem refl (s : State) : HealthWork P s s := of_offers (.refl s)

theorem trans {a b c : State} (h : HealthWork P a b) (k : HealthWork P b c) : HealthWork P a c where
  re := k.re.trans h.re
  tu := k.tu.trans h.tu
  cl := k.cl.trans h.cl
  pu := k.pu.trans h.pu
  wing := k.wing.trans h.wing
  lines l := (congrArg (fun x : Line => { x with nodes := (a.line l).nodes }) (k.lines l)).trans (h.lines l)
  entries m other := (k.entries m other).trans (h.entries m other)
  plans m other := (k.plans m other).trans (h.plans m other)
  conds r c e := k.conds r c (h.conds r c e)

theorem mono {Q : NodeRef → Prop} {s t : State} (h : HealthWork P s t) (sub : ∀ m, P m → Q m) : HealthWork Q s t :=
  { h with entries := fun m other => h.entries m (other ∘ sub m), plans := fun m other => h.plans m (other ∘ sub m) }

theorem setHealth {n : NodeRef} (mine : P n) (health : Health) (missed : Bool) (s : State) :
    HealthWork P s (Machine.setHealth n health missed s) where
  re := rfl
  tu := rfl
  cl := rfl
  pu := rfl
  wing := rfl
  lines k := by
    have kept := line_setHealth n health missed s k
    exact congrArg Line.frame kept
  entries m other := entry_setHealth_ne (by rintro rfl; exact other mine) health missed s
  plans _ _ := rfl
  conds _ _ e := e

theorem onPlan {n : NodeRef} (mine : P n) (f : Plan → Plan) (s : State) : HealthWork P s (Machine.onPlan n f s) where
  re := rfl
  tu := rfl
  cl := rfl
  pu := rfl
  wing := rfl
  lines _ := rfl
  entries _ _ := rfl
  plans m other := by rw [plan_onPlan_ne (by rintro rfl; exact other mine)]
  conds _ _ e := e

theorem raise (c : Condition) (r : RoomId) (s : State) : HealthWork P s (Machine.raise c r s) where
  re := raise_re c r s
  tu := (raise_work c r s).tu
  cl := (raise_work c r s).cl
  pu := (raise_work c r s).pu
  wing := (raise_work c r s).queue.2
  lines k := by rw [State.line, raise_lc]; rfl
  entries m _ := (raise_work c r s).entry m
  plans m _ := by rw [raise_plan]
  conds q d e := raise_keeps_conds c r e

theorem endEvent (s : State) : HealthWork P s (Machine.endEvent s) where
  re := endEvent_re s
  tu := (endEvent_work s).tu
  cl := (endEvent_work s).cl
  pu := (endEvent_work s).pu
  wing := (endEvent_work s).queue.2
  lines k := by rw [(endEvent_work s).lines]; rfl
  entries m _ := (endEvent_work s).entry m
  plans m _ := by rw [endEvent_plan]; exact settle_kept m s
  conds r c e := by rwa [endEvent_notice]

theorem goOffline {n : NodeRef} (mine : P n) (s : State) : HealthWork P s (Machine.goOffline n s) := by
  unfold Machine.goOffline
  split
  · exact (setHealth mine .offline false s).trans ((of_offers (flushNode_offers n _)).trans
      ((onPlan mine _ _).trans (raise .nodeLost _ _)))
  · exact .refl s

theorem forEach {α : Type} {f : α → State → State} {xs : List α} (h : ∀ x ∈ xs, ∀ s, HealthWork P s (f x s)) (s : State) :
    HealthWork P s (Machine.forEach xs f s) := by
  induction xs generalizing s with
  | nil => exact .refl s
  | cons x xs ih => exact (h x (by simp) s).trans (ih (fun y mem => h y (List.mem_cons_of_mem x mem)) _)

variable {s t : State} (h : HealthWork P s t)
include h

theorem room (r : RoomId) : t.room r = s.room r := by simp only [State.room, h.re]

end HealthWork

/-! ### A node that becomes OFFLINE -/

/-- What a plan loses with its node (R136). -/
def Plan.lost (p : Plan) : Plan := { p with confirmed := false, deferred := false, travel := none }

theorem Plan.lost_of_kept {p q : Plan} (h : q.kept = p.kept) : q.lost = p.lost :=
  have e := congrArg Plan.lost h; e

section
variable {n : NodeRef} {s : State} {e : NodeEntry} (entry : s.entry n = some e)
include entry

theorem goOffline_of_entry :
    goOffline n s = raise .nodeLost e.room (onPlan n Plan.lost (flushNode n (setHealth n .offline false s))) := by
  unfold goOffline
  simp only [entry]
  rfl

theorem goOffline_entry : (goOffline n s).entry n = some { e with health := .offline, missed := false } := by
  rw [goOffline_of_entry entry, (raise_work _ _ _).entry]
  change (flushNode n (setHealth n .offline false s)).entry n = _
  rw [(flushNode_only _ _).entry, entry_setHealth, entry]
  rfl

theorem goOffline_plan : (goOffline n s).plan n = (s.plan n).map Plan.lost := by
  rw [goOffline_of_entry entry, raise_plan, plan_onPlan, flushNode, removeItems_plan]
  rfl

theorem goOffline_line :
    (goOffline n s).line n.line =
      ((setHealth n .offline false s).line n.line).remove (fun it => it.node == n.addr) .flushed := by
  rw [goOffline_of_entry entry, State.line, raise_lc, ← State.line]
  exact removeItems_line n.line _ .flushed _

theorem goOffline_inbox :
    (∀ m ∈ (goOffline n s).ap.handed, m ∈ s.ap.handed ∨ m = n) ∧
      ∀ j ∈ (goOffline n s).ap.freed, j ∈ s.ap.freed ∨ j = n.line := by
  obtain ⟨handed, freed⟩ := removeItems_inbox n.line (fun it => it.node == n.addr) .flushed (setHealth n .offline false s)
  rw [goOffline_of_entry entry, raise_ap]
  refine ⟨fun m mem => ?_, freed⟩
  change m ∈ (flushNode n (setHealth n .offline false s)).ap.handed at mem
  rw [flushNode, handed, List.mem_append] at mem
  refine mem.imp id fun mem => ?_
  obtain ⟨o, out, rfl⟩ := List.mem_map.mp mem
  have node := (List.mem_filter.mp out).2
  simp only [beq_iff_eq] at node
  rw [node]

theorem goOffline_holds (loaded : (s.room e.room).state ≠ .off) :
    CondSet.holds ((goOffline n s).notice e.room).conds .nodeLost = true := by
  rw [goOffline_of_entry entry]
  refine raise_holds ?_
  have same : (onPlan n Plan.lost (flushNode n (setHealth n .offline false s))).room e.room = s.room e.room :=
    (flushNode_only n (setHealth n .offline false s)).room e.room
  rwa [same]

/-- A node that has become OFFLINE is silent. -/
theorem goOffline_silent : Silent n (goOffline n s) where
  rests f p entry' _ := by
    rw [goOffline_entry entry] at entry'
    rw [← Option.some.inj entry']
  queue it mem := by
    rw [goOffline_line entry, Line.mem_remove] at mem
    simpa using mem.2
  calm p plan := by
    rw [goOffline_plan entry] at plan
    obtain ⟨q, -, rfl⟩ := Option.map_eq_some_iff.mp plan
    rfl

end

theorem goOffline_plan_ne {m n : NodeRef} (h : m ≠ n) (s : State) : (goOffline n s).plan m = s.plan m := by
  cases entry : s.entry n with
  | none => simp only [goOffline, entry]
  | some e =>
    rw [goOffline_of_entry entry, raise_plan, plan_onPlan_ne h, flushNode, removeItems_plan]
    rfl

theorem goOffline_entry_ne {m n : NodeRef} (h : m ≠ n) (s : State) : (goOffline n s).entry m = s.entry m :=
  (HealthWork.goOffline (P := (· = n)) rfl s).entries m h

end Sys2Proof.Machine
end

section
/-!
PROOFS. What follows an examination when AP's inbox was empty (R22, R24, R133 to R135): an offer that moves the node's own items
brings no work of AP's.
-/

namespace Sys2Proof.Machine

/-! ### The item on its way -/

/-- An item that is queued, without a rival, is the one on its way (R133). -/
theorem Line.onItsWay_of_mem {y : Line} {it : Item} (mem : it ∈ y.queued) (only : ∀ r ∈ y.queued, it.rivals r = true → r = it) :
    y.onItsWay it.node it.kind = some it := by
  rw [Line.onItsWay, List.find?_append]
  have found : (y.queued.find? fun r => r.node == it.node && r.kind == it.kind).isSome = true :=
    List.find?_isSome.mpr ⟨it, mem, by simp⟩
  obtain ⟨r, found⟩ := Option.isSome_iff_exists.mp found
  have match_ := List.find?_some found
  simp only [Bool.and_eq_true, beq_iff_eq] at match_
  have same := only r (List.mem_of_find?_eq_some found) (Item.rivals_iff.mpr ⟨match_.1.symm, match_.2.symm⟩)
  rw [found, same]
  rfl

theorem Item.rivals_symm {a b : Item} (h : a.rivals b = true) : b.rivals a = true := by
  obtain ⟨node, kind⟩ := Item.rivals_iff.mp h
  exact Item.rivals_iff.mpr ⟨node.symm, kind.symm⟩

/-- An item that has moved in from the other band is the one on its way. -/
theorem Line.moved_onItsWay {x : Line} {it : Item} (own : ∀ r ∈ x.band it.origin.band, it.rivals r = false) (c : LineCounts) :
    ({ (x.withBand it.origin.band.other ((x.band it.origin.band.other).filter fun r => !it.rivals r)).withBand
      it.origin.band (x.band it.origin.band ++ [it]) with counts := c } : Line).onItsWay it.node it.kind = some it := by
  set y := (x.withBand it.origin.band.other ((x.band it.origin.band.other).filter fun r => !it.rivals r)).withBand
    it.origin.band (x.band it.origin.band ++ [it]) with hy
  have ownBand : y.band it.origin.band = x.band it.origin.band ++ [it] := Line.band_withBand _ _ _
  have otherBand : y.band it.origin.band.other = (x.band it.origin.band.other).filter fun r => !it.rivals r := by
    rw [hy, Line.band_withBand_other, Line.band_withBand]
  refine Line.onItsWay_of_mem (y := { y with counts := c }) ?_ fun r mem rival => ?_
  · exact (Line.mem_queued_iff (x := y) it.origin.band).mpr (.inl (by simp [ownBand]))
  · obtain mem | mem := (Line.mem_queued_iff (x := y) it.origin.band).mp mem
    · rw [ownBand, List.mem_append, List.mem_singleton] at mem
      refine mem.resolve_left fun old => ?_
      rw [own r old] at rival
      cases rival
    · rw [otherBand, List.mem_filter, rival] at mem
      cases mem.2

/-! ### What an examination tells AP -/

section
variable {link : Option RoomId} {n : NodeRef} {s : State} {e : NodeEntry} {p : Plan} {t : Target}
  (entry : s.entry n = some e) (plan : s.plan n = some p) (due : examined s n e p = some t)
include entry plan due

theorem examine_handed :
    (examine link n s).ap.handed = s.ap.handed ++
      ((s.line n.line).offer (targetItem n e.role t link)).2.1.map fun o => ⟨n.line, o.node⟩ := by
  rw [examine_of_due entry plan due, (noteAnswer_inbox _ _ _).1, offer_handed]

theorem examine_freed :
    (examine link n s).ap.freed =
      if ((s.line n.line).offer (targetItem n e.role t link)).2.1 = [] ∨ n.line ∈ s.ap.freed then s.ap.freed
      else s.ap.freed ++ [n.line] := by
  rw [examine_of_due entry plan due, (noteAnswer_inbox _ _ _).2, offer_freed]

end

theorem target_of_examined {s : State} {n : NodeRef} {e : NodeEntry} {p : Plan} {t : Target}
    (due : examined s n e p = some t) : p.target = some t := by
  cases target : p.target with
  | none =>
    rw [examined_of_no_target target] at due
    cases due
  | some v => rw [((examined_eq_some_iff target).mp due).1]

/-- Where nothing waits in AP's inbox and the line spares the other nodes' items, an examination's line is not touched again. -/
theorem settle_examine_line {n : NodeRef} {s : State} (handed : s.ap.handed = []) (freed : s.ap.freed = [])
    (calm : ∀ a p, s.plan ⟨n.line, a⟩ = some p → p.deferred = false)
    (spares : ∀ p, s.plan n = some p → (s.line n.line).Spares p.target) :
    (settle (examine none n s)).line n.line = (examine none n s).line n.line := by
  obtain same | ⟨e, p, t, entry, plan, due⟩ := examine_cases none n s
  · rw [same, settle_of_empty handed freed]
  have target := target_of_examined due
  have line := examine_line (link := none) entry plan due
  have told := examine_handed (link := none) entry plan due
  have place := examine_freed (link := none) entry plan due
  have self := examine_plan_self (link := none) entry plan due
  have others (m : NodeRef) (other : m ≠ n) := examine_plan_ne (link := none) entry plan due other
  have band : t.protect = false → (targetItem n e.role t none).origin.band = .normal := fun room => by
    simp [targetItem, room, Origin.band]
  have outcome := (s.line n.line).offer_offered (targetItem n e.role t none)
  rw [handed, List.nil_append] at told
  rw [freed] at place
  generalize (s.line n.line).offer (targetItem n e.role t none) = r at outcome line told place self others
  have quiet (stays : r.2.1 = []) : (settle (examine none n s)).line n.line = (examine none n s).line n.line := by
    rw [settle_of_empty (by rw [told, stays]; rfl) (by rw [place, if_pos (.inl stays)])]
  cases outcome with
  | down => exact quiet rfl
  | merged => exact quiet rfl
  | joined => exact quiet rfl
  | full => exact quiet rfl
  | displaced _ _ full urgent =>
    refine absurd (spares p plan) ?_
    rintro (place | room)
    · exact absurd full (Nat.not_le.mpr place)
    · rw [band (room t target)] at urgent
      cases urgent
  | moved _ own _ =>
    rw [settle_of_idle (fun m mem e' p' entry' plan' => ?_) (fun k mem a q plan' => ?_)]
    · rfl
    · rw [told] at mem
      obtain ⟨o, out, rfl⟩ := List.mem_map.mp mem
      have node : o.node = n.addr := (Item.rivals_iff.mp (List.mem_filter.mp out).2).1.symm
      have mine : (⟨n.line, o.node⟩ : NodeRef) = n := by rw [node]
      rw [mine] at entry' plan' ⊢
      rw [(examine_only none n s).entry, entry] at entry'
      rw [self] at plan'
      obtain rfl := Option.some.inj entry'
      obtain rfl := Option.some.inj plan'
      refine examined_of_onItsWay (t := t) (it := targetItem n e.role t none) target ?_ rfl
      rw [line]
      exact Line.moved_onItsWay own _
    · have here : k = n.line := by
        rw [place] at mem
        split at mem
        · cases mem
        · exact List.mem_singleton.mp mem
      subst here
      by_cases mine : (⟨n.line, a⟩ : NodeRef) = n
      · rw [mine, self] at plan'
        rw [← Option.some.inj plan']
        rfl
      · rw [others _ mine] at plan'
        obtain ⟨p', old, rfl⟩ := Option.map_eq_some_iff.mp plan'
        have spared : displaces n.line (targetItem n e.role t none)
            (((s.line n.line).band (targetItem n e.role t none).origin.band.other).filter
              (targetItem n e.role t none).rivals) ⟨n.line, a⟩ = false := by
          by_contra marked
          simp only [displaces, Bool.not_eq_false, Bool.and_eq_true, List.any_eq_true, Bool.not_eq_true'] at marked
          obtain ⟨-, o, out, -, apart⟩ := marked
          rw [Item.rivals_symm (List.mem_filter.mp out).2] at apart
          cases apart
        simp [calm a p' old, spared]

end Sys2Proof.Machine
end

section
/-!
PROOFS. An item that times out (R30, R32, R33, R136): the line, the node and what AP then does, short of the eighth timeout in a
row.
-/

namespace Sys2Proof.Machine

/-- The line of the item that has timed out (R30). -/
def ended (l : LineId) (it : Item) (s : State) : State :=
  onLine l (fun x => { x with
    inFlight := none, echoTimer := none, driving := false, follow := it.link, timeouts := x.timeouts + 1
    counts := { x.counts with timedOut := x.counts.timedOut + 1 } }) s

/-- The state that AP examines: the node has missed its echo (R32, R136). -/
def struck (l : LineId) (it : Item) (s : State) : State :=
  onPlan ⟨l, it.node⟩ (fun p => { p with confirmed := false }) (missNode ⟨l, it.node⟩ (ended l it s))

theorem timeOut_eq (l : LineId) (it : Item) (s : State) :
    timeOut l it s =
      let u := examine none ⟨l, it.node⟩ (struck l it s)
      endEvent (if 8 ≤ (u.line l).timeouts then lineGoesDown l u else u) := by
  unfold timeOut
  dsimp only
  rw [endTimedOut_eq]
  rfl

section
variable {l : LineId} {it : Item} {s : State}

theorem ended_entry (n : NodeRef) : (ended l it s).entry n = s.entry n := entry_onLine (by simp) n s

theorem ended_line : (ended l it s).line l = { s.line l with
    inFlight := none, echoTimer := none, driving := false, follow := it.link, timeouts := (s.line l).timeouts + 1
    counts := { (s.line l).counts with timedOut := (s.line l).counts.timedOut + 1 } } := line_onLine l _ s

/-! ### The node's health (R32) -/

theorem missNode_work (n : NodeRef) (s : State) : HealthWork (· = n) s (missNode n s) := by
  unfold missNode
  split
  · split
    · exact .setHealth (by rfl) _ _ s
    · split
      · exact .goOffline (by rfl) s
      · exact .setHealth (by rfl) _ _ s
    · exact .refl s
  · exact .refl s

theorem missNode_marked {n : NodeRef} {s : State} {e : NodeEntry} (entry : s.entry n = some e)
    (health : e.health = .online ∨ (e.health = .suspect ∧ e.missed = false)) : missNode n s = setHealth n .suspect true s := by
  obtain online | ⟨suspect, missed⟩ := health
  · simp only [missNode, entry, online]
  · simp [missNode, entry, suspect, missed]

theorem missNode_lost {n : NodeRef} {s : State} {e : NodeEntry} (entry : s.entry n = some e) (suspect : e.health = .suspect)
    (missed : e.missed = true) : missNode n s = goOffline n s := by
  simp [missNode, entry, suspect, missed]

theorem missNode_offline {n : NodeRef} {s : State} {e : NodeEntry} (entry : s.entry n = some e) (offline : e.health = .offline) :
    missNode n s = s := by
  simp only [missNode, entry, offline]

theorem struck_work : HealthWork (· = ⟨l, it.node⟩) (ended l it s) (struck l it s) :=
  (missNode_work _ _).trans (.onPlan (by rfl) _ _)

/-- The node's plan loses its confirmation, and at most the travel timer and the deferred flag besides (R136). -/
theorem struck_plan {p : Plan} (plan : s.plan ⟨l, it.node⟩ = some p) :
    ∃ q, (struck l it s).plan ⟨l, it.node⟩ = some q ∧ q.confirmed = false ∧ q.lastSent = p.lastSent ∧ q.target = p.target := by
  have missed : (missNode ⟨l, it.node⟩ (ended l it s)).plan ⟨l, it.node⟩ = some p ∨
      (missNode ⟨l, it.node⟩ (ended l it s)).plan ⟨l, it.node⟩ = some p.lost := by
    unfold missNode
    split
    · rename_i e entry
      split
      · exact .inl plan
      · split
        · exact .inr ((goOffline_plan entry).trans (by rw [show (ended l it s).plan _ = _ from plan]; rfl))
        · exact .inl plan
      · exact .inl plan
    · exact .inl plan
  rw [struck, plan_onPlan]
  obtain kept | lost := missed
  · rw [kept]; exact ⟨_, rfl, rfl, rfl, rfl⟩
  · rw [lost]; exact ⟨_, rfl, rfl, rfl, rfl⟩

/-- What the timeout leaves of the line, whatever AP then does. -/
theorem HealthWork.ended_line {P : NodeRef → Prop} {t : State} (h : HealthWork P (ended l it s) t) :
    (t.line l).inFlight = none ∧ (t.line l).echoTimer = none ∧ (t.line l).follow = it.link ∧
      (t.line l).timeouts = (s.line l).timeouts + 1 ∧ (t.line l).down = (s.line l).down ∧
      (t.line l).counts.timedOut = (s.line l).counts.timedOut + 1 := by
  have line := h.lines l
  rw [Machine.ended_line] at line
  simp only [Line.frame, Line.mk.injEq, LineCounts.mk.injEq] at line
  simp only [line, and_self]

end

/-- ECHO TIMER EXPIRY of the item in flight (R30). -/
theorem echoTimerExpiry_exec {l : LineId} {it : Item} {s : State} (ready : s.power = .ready)
    (timer : (s.line l).echoTimer = some 0) (flight : (s.line l).inFlight = some it) :
    exec (.echoTimerExpiry l) s =
      let u := examine none ⟨l, it.node⟩ (struck l it s)
      .next (endEvent (if 8 ≤ (s.line l).timeouts + 1 then lineGoesDown l u else u)) := by
  have examined : HealthWork (· = ⟨l, it.node⟩) (ended l it s) (examine none ⟨l, it.node⟩ (struck l it s)) :=
    struck_work.trans (.of_offers (examine_offers _ _ _))
  obtain ⟨-, -, -, timeouts, -⟩ := examined.ended_line
  change whenReady _ s = _
  rw [whenReady, if_pos ready, timer, ifExpired_zero, echoTimerEnds]
  simp only [flight]
  rw [timeOut_eq]
  dsimp only
  rw [timeouts]

/-- What AP is told while nothing waits in its inbox. -/
theorem quiet_ended {l : LineId} {it : Item} {s : State} (quiet : s.Quiet l) : (ended l it s).Quiet l :=
  ⟨quiet.handed, quiet.freed, quiet.deferred⟩

/-! ### Short of the eighth timeout (R30, R32) -/

/-- A node that is OFFLINE is not examined further (R133). -/
theorem examine_struck_of_offline {l : LineId} {it : Item} {s : State} {f : NodeEntry} (after : (struck l it s).entry ⟨l, it.node⟩ = some f)
    (offline : f.health = .offline) : examine none ⟨l, it.node⟩ (struck l it s) = struck l it s := by
  refine examine_of_none fun f' p entry' _ => ?_
  rw [after] at entry'
  rw [← Option.some.inj entry']
  exact examined_of_offline offline

section
variable {l : LineId} {it : Item} {s : State} {e : NodeEntry} (entry : s.entry ⟨l, it.node⟩ = some e)
include entry

/-- A node that stays on the line is SUSPECT, its miss count 1 (R32). -/
theorem struck_of_marked (health : e.health = .online ∨ (e.health = .suspect ∧ e.missed = false)) :
    struck l it s = onPlan ⟨l, it.node⟩ (fun p => { p with confirmed := false })
      (setHealth ⟨l, it.node⟩ .suspect true (ended l it s)) := by
  rw [struck, missNode_marked (by rw [ended_entry]; exact entry) health]

theorem struck_of_lost (suspect : e.health = .suspect) (missed : e.missed = true) :
    struck l it s = onPlan ⟨l, it.node⟩ (fun p => { p with confirmed := false }) (goOffline ⟨l, it.node⟩ (ended l it s)) := by
  rw [struck, missNode_lost (by rw [ended_entry]; exact entry) suspect missed]

theorem struck_of_offline (offline : e.health = .offline) :
    struck l it s = onPlan ⟨l, it.node⟩ (fun p => { p with confirmed := false }) (ended l it s) := by
  rw [struck, missNode_offline (by rw [ended_entry]; exact entry) offline]

/-- The node's entry after the timeout (R32). -/
theorem struck_entry_marked (health : e.health = .online ∨ (e.health = .suspect ∧ e.missed = false)) :
    (struck l it s).entry ⟨l, it.node⟩ = some { e with health := .suspect, missed := true } := by
  rw [struck_of_marked entry health]
  change (setHealth _ _ _ _).entry _ = _
  rw [entry_setHealth, ended_entry, entry]
  rfl

theorem struck_entry_lost (suspect : e.health = .suspect) (missed : e.missed = true) :
    (struck l it s).entry ⟨l, it.node⟩ = some { e with health := .offline, missed := false } := by
  rw [struck_of_lost entry suspect missed]
  exact goOffline_entry (by rw [ended_entry]; exact entry)

theorem struck_entry_offline (offline : e.health = .offline) : (struck l it s).entry ⟨l, it.node⟩ = some e := by
  rw [struck_of_offline entry offline]
  exact (ended_entry _).trans entry

/-- A node that becomes OFFLINE has no item queued and is not deferred; its plan is what the loss leaves (R136). -/
theorem struck_silent (suspect : e.health = .suspect) (missed : e.missed = true) :
    Silent ⟨l, it.node⟩ (struck l it s) ∧
      (struck l it s).plan ⟨l, it.node⟩ = (s.plan ⟨l, it.node⟩).map Plan.lost := by
  have entry' : (ended l it s).entry ⟨l, it.node⟩ = some e := by rw [ended_entry]; exact entry
  have silent := goOffline_silent entry'
  have plan : (struck l it s).plan ⟨l, it.node⟩ = (s.plan ⟨l, it.node⟩).map Plan.lost := by
    rw [struck_of_lost entry suspect missed, plan_onPlan, goOffline_plan entry', Option.map_map]
    rfl
  refine ⟨⟨fun f p after _ => ?_, ?_, fun p after => ?_⟩, plan⟩
  · rw [struck_entry_lost entry suspect missed] at after
    rw [← Option.some.inj after]
  · rw [struck_of_lost entry suspect missed]
    exact silent.queue
  · rw [plan] at after
    obtain ⟨q, -, rfl⟩ := Option.map_eq_some_iff.mp after
    rfl

/-- Where nothing waited in AP's inbox, a node that becomes OFFLINE brings it nothing to do. -/
theorem settle_struck_line (suspect : e.health = .suspect) (missed : e.missed = true) (quiet : s.Quiet l) :
    (settle (struck l it s)).line l = (struck l it s).line l := by
  have entry' : (ended l it s).entry ⟨l, it.node⟩ = some e := by rw [ended_entry]; exact entry
  obtain ⟨handed, freed⟩ := goOffline_inbox entry'
  obtain ⟨silent, -⟩ := struck_silent entry suspect missed
  rw [settle_of_idle (fun m mem f p after _ => ?_) (fun k mem a p plan => ?_)]
  · rfl
  · have mine : m = ⟨l, it.node⟩ := by
      rw [struck_of_lost entry suspect missed] at mem
      refine (handed m mem).resolve_left ?_
      rw [(quiet_ended quiet).handed]
      exact List.not_mem_nil
    subst mine
    rw [struck_entry_lost entry suspect missed] at after
    rw [← Option.some.inj after]
    exact examined_of_offline rfl
  · have here : k = l := by
      rw [struck_of_lost entry suspect missed] at mem
      refine (freed k mem).resolve_left ?_
      rw [(quiet_ended quiet).freed]
      exact List.not_mem_nil
    subst here
    by_cases mine : (⟨k, a⟩ : NodeRef) = ⟨k, it.node⟩
    · exact silent.calm p (mine ▸ plan)
    · rw [struck_of_lost entry suspect missed, plan_onPlan_ne mine, goOffline_plan_ne mine] at plan
      exact quiet.deferred a p plan

/-- The queue of a node that becomes OFFLINE is flushed (R25, R136). -/
theorem struck_line_lost (suspect : e.health = .suspect) (missed : e.missed = true) :
    ((struck l it s).line l).urgent = (s.line l).urgent.filter (fun x => x.node ≠ it.node) ∧
      ((struck l it s).line l).normal = (s.line l).normal.filter (fun x => x.node ≠ it.node) ∧
      ((struck l it s).line l).counts.flushed = (s.line l).counts.flushed +
        BitVec.ofNat 32 ((s.line l).queued.filter fun x => x.node = it.node).length := by
  have entry' : (ended l it s).entry ⟨l, it.node⟩ = some e := by rw [ended_entry]; exact entry
  have line : (struck l it s).line l =
      ((setHealth ⟨l, it.node⟩ .offline false (ended l it s)).line l).remove (fun x => x.node == it.node) .flushed := by
    rw [struck_of_lost entry suspect missed]
    exact goOffline_line entry'
  have kept := line_setHealth ⟨l, it.node⟩ .offline false (ended l it s) l
  rw [ended_line] at kept
  simp only [Line.mk.injEq] at kept
  obtain ⟨-, urgent, normal, -, -, -, -, -, -, -, counts, -⟩ := kept
  have other : (fun x : Item => decide (x.node ≠ it.node)) = fun x => !(x.node == it.node) := by
    funext x
    by_cases same : x.node = it.node <;> simp [same]
  have mine : (fun x : Item => decide (x.node = it.node)) = fun x => x.node == it.node := by
    funext x
    by_cases same : x.node = it.node <;> simp [same]
  rw [line, other, mine]
  simp only [Line.remove, LineCounts.addFlushed, Line.queued, urgent, normal, counts, and_self]

end

section
variable {l : LineId} {it : Item} {s : State} {e : NodeEntry} (entry : s.entry ⟨l, it.node⟩ = some e)
include entry

/-- A node that becomes OFFLINE, after AP has taken its inbox (R33, R136). -/
theorem timeout_lost (suspect : e.health = .suspect) (missed : e.missed = true) :
    let t := endEvent (examine none ⟨l, it.node⟩ (struck l it s))
    t.entry ⟨l, it.node⟩ = some { e with health := .offline, missed := false } ∧
      (∀ x ∈ (t.line l).queued, x.node ≠ it.node) ∧
      t.plan ⟨l, it.node⟩ = (s.plan ⟨l, it.node⟩).map Plan.lost ∧
      (s.Quiet l → t.line l = (struck l it s).line l) ∧
      ((s.room e.room).state ≠ .off → CondSet.holds (t.notice e.room).conds .nodeLost = true) := by
  obtain ⟨silent, plan⟩ := struck_silent entry suspect missed
  have after := struck_entry_lost entry suspect missed
  dsimp only
  rw [examine_struck_of_offline after rfl]
  refine ⟨((endEvent_work _).entry _).trans after, ?_, ?_, fun quiet => ?_, fun loaded => ?_⟩
  · rw [endEvent_line]
    exact silent.settle.1.queue
  · rw [endEvent_plan, silent.settle.2, plan]
  · rw [endEvent_line, settle_struck_line entry suspect missed quiet]
  · rw [endEvent_notice, struck_of_lost entry suspect missed]
    have entry' : (ended l it s).entry ⟨l, it.node⟩ = some e := by rw [ended_entry]; exact entry
    exact goOffline_holds entry' loaded

/-- A node that is OFFLINE already: nothing happens to it (R32). -/
theorem timeout_offline (offline : e.health = .offline) :
    let t := endEvent (examine none ⟨l, it.node⟩ (struck l it s))
    t.entry ⟨l, it.node⟩ = some e ∧
      (s.Quiet l → (t.line l).urgent = (s.line l).urgent ∧ (t.line l).normal = (s.line l).normal) := by
  have after := struck_entry_offline entry offline
  dsimp only
  rw [examine_struck_of_offline after offline]
  refine ⟨((endEvent_work _).entry _).trans after, fun quiet => ?_⟩
  have still : settle (struck l it s) = struck l it s := by
    rw [struck_of_offline entry offline]
    exact settle_of_empty quiet.handed quiet.freed
  rw [endEvent_line, still, struck_of_offline entry offline]
  have line := ended_line (l := l) (it := it) (s := s)
  exact ⟨have e := congrArg Line.urgent line; e, have e := congrArg Line.normal line; e⟩

/-- A node that stays on the line is examined, and AP takes its inbox (R133 to R135). -/
theorem timeout_marked {p : Plan} (plan : s.plan ⟨l, it.node⟩ = some p)
    (health : e.health = .online ∨ (e.health = .suspect ∧ e.missed = false)) :
    let u := examine none ⟨l, it.node⟩ (struck l it s)
    (s.Quiet l → (s.line l).Spares p.target → (endEvent u).line l = u.line l) ∧
      ((endEvent u).plan ⟨l, it.node⟩).map Plan.kept = some { p.kept with confirmed := false } := by
  have marked := struck_of_marked (l := l) (it := it) entry health
  have after : (struck l it s).plan ⟨l, it.node⟩ = some { p with confirmed := false } := by
    rw [marked, plan_onPlan]
    exact congrArg (Option.map _) plan
  refine ⟨fun quiet spares => ?_, ?_⟩
  · rw [endEvent_line]
    refine settle_examine_line (n := ⟨l, it.node⟩) (marked ▸ quiet.handed) (marked ▸ quiet.freed) (fun a q plan' => ?_)
      fun q plan' => ?_
    · by_cases mine : (⟨l, a⟩ : NodeRef) = ⟨l, it.node⟩
      · rw [mine, after] at plan'
        rw [← Option.some.inj plan']
        exact quiet.deferred it.node p plan
      · rw [marked, plan_onPlan_ne mine] at plan'
        exact quiet.deferred a q plan'
    · rw [after] at plan'
      rw [← Option.some.inj plan']
      have queue : ((struck l it s).line l).queued = (s.line l).queued := by
        have kept := line_setHealth ⟨l, it.node⟩ .suspect true (ended l it s) l
        rw [ended_line] at kept
        have e := congrArg Line.queued kept
        rw [marked]
        exact e
      exact spares.imp (fun place => by rw [queue]; exact place) id
  · rw [endEvent_plan, settle_kept, examine_kept, after]
    rfl

end

/-- Settles O21: the blocks and the other nodes by `HealthWork`, the node by what it was before. -/
theorem timeoutMarksTheNode : Obligations.TimeoutMarksTheNode := by
  intro l s it ready timer flight few
  have exec := echoTimerExpiry_exec ready timer flight
  dsimp only at exec
  rw [if_neg (by omega)] at exec
  have work : HealthWork (· = ⟨l, it.node⟩) (ended l it s) (endEvent (examine none ⟨l, it.node⟩ (struck l it s))) :=
    struck_work.trans ((HealthWork.of_offers (examine_offers _ _ _)).trans (.endEvent _))
  obtain ⟨gone, stopped, follow, timeouts, down, timedOut⟩ := work.ended_line
  refine ⟨_, exec, gone, stopped, follow, timeouts, down, timedOut, fun e entry => ⟨fun health => ?_, fun suspect missed => ?_,
    timeout_offline entry, fun p plan health => ?_⟩, fun m other => ⟨(work.entries m other).trans (ended_entry m),
    work.plans m other⟩, fun p plan => ?_, work.re, work.tu, work.cl, work.pu, work.wing⟩
  · rw [(endEvent_work _).entry, (examine_only _ _ _).entry, struck_entry_marked entry health]
  · obtain ⟨after, queue, lost, quiet, told⟩ := timeout_lost entry suspect missed
    refine ⟨after, queue, fun p plan => lost.trans (by rw [plan]; rfl), fun waits => ?_, told⟩
    rw [quiet waits]
    exact struck_line_lost entry suspect missed
  · obtain ⟨line, kept⟩ := timeout_marked entry plan health
    have marked := struck_of_marked (l := l) (it := it) entry health
    intro missed u
    have same : struck l it s = missed := marked
    refine ⟨⟨?_, ?_⟩, fun quiet spares => ?_, kept⟩
    · rw [endEvent_lc, same]
    · rw [endEvent_ap, same]
    · rw [line quiet spares, same]
  · obtain ⟨q, struckPlan, confirmed, lastSent, target⟩ := struck_plan (l := l) (it := it) plan
    have kept : ((endEvent (examine none ⟨l, it.node⟩ (struck l it s))).plan ⟨l, it.node⟩).map Plan.kept = some q.kept := by
      rw [endEvent_plan, settle_kept, examine_kept, struckPlan]
      rfl
    obtain ⟨r, final, same⟩ := Option.map_eq_some_iff.mp kept
    have field {α : Type} (f : Plan → α) : f r.kept = f q.kept := congrArg f same
    exact ⟨r, final, (field Plan.confirmed).trans confirmed, (field Plan.lastSent).trans lastSent,
      (field Plan.target).trans target⟩

end Sys2Proof.Machine
end

section
/-!
PROOFS. The eighth timeout in a row (R35, R32): the line goes DOWN, and every node of it that is not OFFLINE becomes so.
-/

namespace Sys2Proof.Machine

/-! ### One node of a line that goes DOWN -/

/-- A node that is not OFFLINE becomes so. -/
def downNode (n : NodeRef) (s : State) : State :=
  if (s.entry n).any (fun e => e.health == .offline) then s else goOffline n s

theorem downNode_work {P : NodeRef → Prop} {n : NodeRef} (mine : P n) (s : State) : HealthWork P s (downNode n s) := by
  unfold downNode
  split
  · exact .refl s
  · exact .goOffline mine s

theorem downNode_of_offline {n : NodeRef} {s : State} {e : NodeEntry} (entry : s.entry n = some e)
    (offline : e.health = .offline) : downNode n s = s := by
  simp [downNode, entry, offline]

theorem downNode_of_online {n : NodeRef} {s : State} {e : NodeEntry} (entry : s.entry n = some e)
    (online : e.health ≠ .offline) : downNode n s = goOffline n s := by
  simp [downNode, entry, online]

theorem downNode_entry_ne {m n : NodeRef} (h : m ≠ n) (s : State) : (downNode n s).entry m = s.entry m :=
  (downNode_work (P := (· = n)) rfl s).entries m h

theorem downNode_plan_ne {m n : NodeRef} (h : m ≠ n) (s : State) : (downNode n s).plan m = s.plan m := by
  unfold downNode
  split
  · rfl
  · exact goOffline_plan_ne h s

/-- An empty queue stays so. -/
theorem downNode_queue {n : NodeRef} {s : State} (l : LineId) (empty : (s.line l).queued = []) :
    ((downNode n s).line l).queued = [] := by
  unfold downNode
  split
  · exact empty
  · cases entry : s.entry n with
    | none => simpa only [goOffline, entry] using empty
    | some e =>
      have kept := congrArg Line.queued (line_setHealth n .offline false s l)
      by_cases here : l = n.line
      · subst here
        rw [goOffline_line entry, List.eq_nil_iff_forall_not_mem]
        intro it mem
        have old := (Line.mem_remove.mp mem).1
        have none : ((setHealth n .offline false s).line n.line).queued = [] := kept.trans empty
        rw [none] at old
        exact List.not_mem_nil old
      · have same : (goOffline n s).line l = (setHealth n .offline false s).line l := by
          rw [goOffline_of_entry entry, State.line, raise_lc, ← State.line]
          exact removeItems_line_ne here _ .flushed _
        rw [same]
        exact kept.trans empty

/-- Among the pieces of work one is `x`'s; the others come before and after it. -/
theorem forEach_at {α : Type} {f : α → State → State} {xs : List α} (once : xs.Nodup) {x : α} (mem : x ∈ xs) (s : State) :
    ∃ before after, x ∉ before ∧ x ∉ after ∧ (∀ y ∈ before, y ∈ xs) ∧ (∀ y ∈ after, y ∈ xs) ∧
      forEach xs f s = forEach after f (f x (forEach before f s)) := by
  obtain ⟨before, after, rfl⟩ := List.append_of_mem mem
  rw [List.nodup_append] at once
  obtain ⟨-, tail, apart⟩ := once
  refine ⟨before, after, fun again => apart x again x (by simp) rfl, (List.nodup_cons.mp tail).1, fun y h => by simp [h],
    fun y h => by simp [h], ?_⟩
  simp [forEach, List.foldl_append]

/-- What a node of a line that goes DOWN ends as. -/
structure Downed (n : NodeRef) (s t : State) (e : NodeEntry) : Prop where
  entry : ∃ f, t.entry n = some f ∧ f.health = .offline ∧ f.room = e.room
  spared : e.health = .offline → t.plan n = s.plan n
  lost : e.health ≠ .offline → t.plan n = (s.plan n).map Plan.lost ∧
    ((s.room e.room).state ≠ .off → CondSet.holds (t.notice e.room).conds .nodeLost = true)

theorem downNode_downed {n : NodeRef} {s : State} {e : NodeEntry} (entry : s.entry n = some e) :
    Downed n s (downNode n s) e := by
  by_cases offline : e.health = .offline
  · rw [downNode_of_offline entry offline]
    exact ⟨⟨e, entry, offline, rfl⟩, fun _ => rfl, fun online => absurd offline online⟩
  · rw [downNode_of_online entry offline]
    exact ⟨⟨_, goOffline_entry entry, rfl, rfl⟩, fun same => absurd same offline,
      fun _ => ⟨goOffline_plan entry, goOffline_holds entry⟩⟩

/-- Every node of the line, each once: its own turn is what moves it. -/
theorem forEach_downed {ns : List NodeRef} (once : ns.Nodup) {n : NodeRef} (mem : n ∈ ns) {s : State} {e : NodeEntry}
    (entry : s.entry n = some e) : Downed n s (forEach ns downNode s) e := by
  obtain ⟨before, after, notBefore, notAfter, -, -, work⟩ := forEach_at (f := downNode) once mem s
  have others {ms : List NodeRef} (apart : n ∉ ms) (u : State) :
      HealthWork (· ≠ n) u (forEach ms downNode u) ∧ (forEach ms downNode u).plan n = u.plan n :=
    ⟨.forEach (fun m turn t => downNode_work (by rintro rfl; exact apart turn) t) u,
      forEach_keeps_mem (State.plan · n)
        (fun m mem t => downNode_plan_ne (m := n) (n := m) (fun same => apart (same ▸ mem)) t) u⟩
  obtain ⟨first, firstPlan⟩ := others notBefore s
  have entryThere : (forEach before downNode s).entry n = some e := by
    rw [first.entries n (fun h => h rfl), entry]
  obtain ⟨turned, spared, lost⟩ := downNode_downed entryThere
  obtain ⟨second, secondPlan⟩ := others notAfter (downNode n (forEach before downNode s))
  rw [work]
  refine ⟨?_, fun offline => ?_, fun online => ?_⟩
  · obtain ⟨f, entry, offline, room⟩ := turned
    exact ⟨f, (second.entries n (fun h => h rfl)).trans entry, offline, room⟩
  · rw [secondPlan, spared offline, firstPlan]
  · obtain ⟨plan, told⟩ := lost online
    refine ⟨by rw [secondPlan, plan, firstPlan], fun loaded => second.conds _ _ (told ?_)⟩
    rwa [first.room]

/-! ### The line (R35) -/

/-- The line DOWN, its queue flushed, its nodes still as they were. -/
def downed (l : LineId) (s : State) : State :=
  removeItems l (fun _ => true) .flushed (onLine l (fun x => { x with down := true, follow := none, timeouts := 0 }) s)

theorem lineGoesDown_eq (l : LineId) (s : State) :
    lineGoesDown l s = writeWing (.lineDown l) (countLine l (fun c => { c with timesDown := c.timesDown + 1 })
      (forEach ((downed l s).nodesOn l) downNode (downed l s))) := rfl

theorem nodesOn_nodup (s : State) (l : LineId) : (s.nodesOn l).Nodup := by
  refine List.Nodup.filter _ ((List.nodup_map_iff ?_).mpr (List.nodup_finRange 32))
  intro a b same
  exact (NodeRef.mk.inj same).2

theorem mem_nodesOn_iff {s : State} {l : LineId} {n : NodeRef} : n ∈ s.nodesOn l ↔ n.line = l ∧ (s.entry n).isSome = true := by
  simp only [State.nodesOn, List.mem_filter, List.mem_map, List.mem_finRange, true_and]
  refine and_congr_left fun _ => ⟨fun ⟨a, same⟩ => same ▸ rfl, fun line => ⟨n.addr, by cases n; cases line; rfl⟩⟩

/-! ### All that the event changes -/

/-- From `s` to `t` one line's nodes change, the line, and conditions accumulate; the wing report queue apart. -/
structure LineWork (l : LineId) (s t : State) : Prop where
  re : t.re = s.re
  tu : t.tu = s.tu
  cl : t.cl = s.cl
  pu : t.pu = s.pu
  entries : ∀ m, m.line ≠ l → t.entry m = s.entry m
  plans : ∀ m, m.line ≠ l → (t.plan m).map Plan.kept = (s.plan m).map Plan.kept
  conds : ∀ r c, CondSet.holds (s.notice r).conds c = true → CondSet.holds (t.notice r).conds c = true

namespace LineWork

variable {l : LineId}

theorem trans {a b c : State} (h : LineWork l a b) (k : LineWork l b c) : LineWork l a c where
  re := k.re.trans h.re
  tu := k.tu.trans h.tu
  cl := k.cl.trans h.cl
  pu := k.pu.trans h.pu
  entries m other := (k.entries m other).trans (h.entries m other)
  plans m other := (k.plans m other).trans (h.plans m other)
  conds r c e := k.conds r c (h.conds r c e)

theorem of_health {P : NodeRef → Prop} {s t : State} (h : HealthWork P s t) (mine : ∀ m, P m → m.line = l) : LineWork l s t where
  re := h.re
  tu := h.tu
  cl := h.cl
  pu := h.pu
  entries m other := h.entries m (other ∘ mine m)
  plans m other := h.plans m (other ∘ mine m)
  conds := h.conds

theorem onLine (f : Line → Line) (s : State) : LineWork l s (Machine.onLine l f s) where
  re := rfl
  tu := rfl
  cl := rfl
  pu := rfl
  entries m other := by simp only [State.entry, line_onLine_ne other]
  plans _ _ := rfl
  conds _ _ e := e

theorem writeWing (k : WingKind) (s : State) : LineWork l s (Machine.writeWing k s) := by
  obtain ⟨rest, notices, -⟩ := writeWing_rest k s
  have rooms := congrArg Nu.rooms notices
  refine ⟨have e := congrArg State.re rest; e, have e := congrArg State.tu rest; e, have e := congrArg State.cl rest; e,
    have e := congrArg State.pu rest; e, fun m _ => ?_, fun m _ => ?_, fun r c holds => ?_⟩
  · have e := congrArg (State.entry · m) rest
    exact e
  · have e := congrArg (fun u => (State.plan u m).map Plan.kept) rest
    exact e
  · have same : (Machine.writeWing k s).notice r = s.notice r := congrArg (look · r) rooms
    rwa [same]

end LineWork

/-- What the work on its nodes leaves of a line. -/
theorem HealthWork.line_fields {P : NodeRef → Prop} {s t : State} (h : HealthWork P s t) (k : LineId) :
    (t.line k).inFlight = (s.line k).inFlight ∧ (t.line k).down = (s.line k).down ∧
      (t.line k).suspended = (s.line k).suspended ∧ (t.line k).follow = (s.line k).follow ∧
      (t.line k).timeouts = (s.line k).timeouts ∧ (t.line k).counts.timedOut = (s.line k).counts.timedOut ∧
      (t.line k).counts.timesDown = (s.line k).counts.timesDown := by
  have line := h.lines k
  simp only [Line.frame, Line.mk.injEq, LineCounts.mk.injEq] at line
  simp only [line, and_self]

theorem writeWing_wing (k : WingKind) (s : State) :
    (writeWing k s).nu.wing = if s.nu.wing.length < 16 then
      s.nu.wing ++ [{ kind := k, stamp := s.tu.clock, overflow := false }] else markNewest s.nu.wing := by
  unfold writeWing
  split <;> rfl

theorem writeWing_ap (k : WingKind) (s : State) : (writeWing k s).ap = s.ap :=
  have e := congrArg State.ap (writeWing_rest k s).1; e

section
variable {l : LineId} {v : State}

theorem downed_line : (downed l v).line l =
    ({ v.line l with down := true, follow := none, timeouts := 0 } : Line).remove (fun _ => true) .flushed := by
  rw [downed, removeItems_line, line_onLine]

theorem downed_queue : ((downed l v).line l).queued = [] := removeItems_all l .flushed _

theorem downed_entry (m : NodeRef) : (downed l v).entry m = v.entry m :=
  ((removeItems_only l _ .flushed _).entry m).trans (entry_onLine (by simp) m v)

theorem downed_plan (m : NodeRef) : (downed l v).plan m = v.plan m := removeItems_plan l _ .flushed _ m

theorem downed_work : LineWork l v (downed l v) :=
  (LineWork.onLine _ v).trans (.of_health (P := fun _ => False) (.of_offers (removeItems_offers l _ .flushed _)) (by simp))

/-- The nodes' turns. -/
theorem downNodes_work : HealthWork (fun m => m.line = l) (downed l v)
    (forEach ((downed l v).nodesOn l) downNode (downed l v)) :=
  .forEach (fun _ mem t => downNode_work (line_of_mem_nodesOn mem) t) _

theorem lineGoesDown_work : LineWork l v (lineGoesDown l v) := by
  rw [lineGoesDown_eq]
  exact downed_work.trans ((LineWork.of_health downNodes_work fun _ => id).trans ((LineWork.onLine _ _).trans (.writeWing _ _)))

theorem lineGoesDown_line : (lineGoesDown l v).line l =
    let x := (forEach ((downed l v).nodesOn l) downNode (downed l v)).line l
    { x with counts := { x.counts with timesDown := x.counts.timesDown + 1 } } := by
  rw [lineGoesDown_eq, State.line, writeWing_lc, ← State.line, countLine, line_onLine]

theorem lineGoesDown_queue : ((lineGoesDown l v).line l).queued = [] := by
  have empty : ((forEach ((downed l v).nodesOn l) downNode (downed l v)).line l).queued = [] :=
    forEach_induction (π := fun t => (t.line l).queued = []) (fun n t => downNode_queue l) _ downed_queue
  rw [lineGoesDown_line]
  simpa only [Line.queued] using empty

/-- The line itself (R35). -/
theorem lineGoesDown_fields :
    ((lineGoesDown l v).line l).inFlight = (v.line l).inFlight ∧ ((lineGoesDown l v).line l).down = true ∧
      ((lineGoesDown l v).line l).suspended = (v.line l).suspended ∧ ((lineGoesDown l v).line l).follow = none ∧
      ((lineGoesDown l v).line l).timeouts = 0 ∧
      ((lineGoesDown l v).line l).counts.timedOut = (v.line l).counts.timedOut ∧
      ((lineGoesDown l v).line l).counts.timesDown = (v.line l).counts.timesDown + 1 := by
  obtain ⟨flight, down, suspended, follow, timeouts, timedOut, timesDown⟩ := (downNodes_work (l := l) (v := v)).line_fields l
  rw [downed_line] at flight down suspended follow timeouts timedOut timesDown
  rw [lineGoesDown_line]
  simp only [flight, down, suspended, follow, timeouts, timedOut, timesDown, Line.remove, LineCounts.addFlushed, and_self]

theorem lineGoesDown_wing : (lineGoesDown l v).nu.wing = if v.nu.wing.length < 16 then
      v.nu.wing ++ [{ kind := .lineDown l, stamp := v.tu.clock, overflow := false }] else markNewest v.nu.wing := by
  have nodes := downNodes_work (l := l) (v := v)
  have wing : (downed l v).nu.wing = v.nu.wing := congrArg Nu.wing (removeItems_only l _ .flushed _).nu
  have clock : (downed l v).tu = v.tu := downed_work.tu
  rw [lineGoesDown_eq, writeWing_wing]
  simp only [countLine, Machine.onLine, nodes.wing, nodes.tu, wing, clock]

/-- A node of the line (R32, R136). -/
theorem lineGoesDown_downed {n : NodeRef} {e : NodeEntry} (here : n.line = l) (entry : v.entry n = some e) :
    Downed n v (lineGoesDown l v) e := by
  have listed : n ∈ (downed l v).nodesOn l := mem_nodesOn_iff.mpr ⟨here, by rw [downed_entry, entry]; rfl⟩
  obtain ⟨turned, spared, lost⟩ := forEach_downed (nodesOn_nodup _ _) listed ((downed_entry n).trans entry)
  have after : ∀ c : State, (writeWing (.lineDown l) (countLine l (fun x => { x with timesDown := x.timesDown + 1 }) c)).entry n =
      c.entry n ∧ (writeWing (.lineDown l) (countLine l (fun x => { x with timesDown := x.timesDown + 1 }) c)).plan n = c.plan n :=
    fun c => ⟨by
      have e := congrArg (State.entry · n) (writeWing_rest (.lineDown l)
        (countLine l (fun x => { x with timesDown := x.timesDown + 1 }) c)).1
      exact e.trans (entry_onLine (by simp) n c), by rw [State.plan, writeWing_ap]; rfl⟩
  rw [lineGoesDown_eq]
  have told := ((LineWork.onLine (l := l) (fun x => { x with counts := { x.counts with timesDown := x.counts.timesDown + 1 } })
    (forEach ((downed l v).nodesOn l) downNode (downed l v))).trans (.writeWing (.lineDown l) _)).conds
  refine ⟨?_, fun offline => ?_, fun online => ?_⟩
  · rw [(after _).1]
    exact turned
  · rw [(after _).2, spared offline, downed_plan]
  · obtain ⟨plan, holds⟩ := lost online
    refine ⟨by rw [(after _).2, plan, downed_plan], fun loaded => told _ _ (holds ?_)⟩
    rwa [State.room, downed_work.re]

end

/-! ### The eighth timeout -/

section
variable {l : LineId} {it : Item} {s : State}

/-- The state in which the line goes DOWN: AP's examination still reaches it (log 32). -/
def eighth (l : LineId) (it : Item) (s : State) : State := examine none ⟨l, it.node⟩ (struck l it s)

theorem eighth_work : HealthWork (· = ⟨l, it.node⟩) (ended l it s) (eighth l it s) :=
  struck_work.trans (.of_offers (examine_offers _ _ _))

theorem eighth_line : LineWork l s (eighth l it s) :=
  (LineWork.onLine _ s).trans (.of_health eighth_work fun _ same => same ▸ rfl)

/-- What a node that was not OFFLINE has become before the line goes DOWN: still not OFFLINE, its plan as it will be but for
what it loses, or OFFLINE already, with all of that lost and its room told. -/
theorem eighth_node {m : NodeRef} {e : NodeEntry} (entry : s.entry m = some e) (online : e.health ≠ .offline) :
    ∃ f, (eighth l it s).entry m = some f ∧ f.room = e.room ∧
      ((f.health ≠ .offline ∧ ((eighth l it s).plan m).map Plan.lost = (s.plan m).map Plan.lost) ∨
        (f.health = .offline ∧ (eighth l it s).plan m = (s.plan m).map Plan.lost ∧
          ((s.room e.room).state ≠ .off → CondSet.holds ((eighth l it s).notice e.room).conds .nodeLost = true))) := by
  have lost_of_kept {x y : Option Plan} (h : x.map Plan.kept = y.map Plan.kept) : x.map Plan.lost = y.map Plan.lost := by
    have lost := congrArg (Option.map Plan.lost) h
    rw [Option.map_map, Option.map_map] at lost
    exact lost
  by_cases mine : m = ⟨l, it.node⟩
  · subst mine
    by_cases marked : e.health = .online ∨ (e.health = .suspect ∧ e.missed = false)
    · refine ⟨_, ((examine_only _ _ _).entry _).trans (struck_entry_marked entry marked), rfl, .inl ⟨nofun, ?_⟩⟩
      have kept : ((eighth l it s).plan ⟨l, it.node⟩).map Plan.kept = ((struck l it s).plan ⟨l, it.node⟩).map Plan.kept :=
        examine_kept none _ _ _
      rw [lost_of_kept kept, struck_of_marked entry marked, plan_onPlan, Option.map_map]
      rfl
    · have suspect : e.health = .suspect := by
        cases health : e.health with
        | online => exact absurd (.inl health) marked
        | suspect => rfl
        | offline => exact absurd health online
      have missed : e.missed = true := by
        by_contra fresh
        exact marked (.inr ⟨suspect, Bool.not_eq_true _ ▸ fresh⟩)
      have after := struck_entry_lost (l := l) (it := it) entry suspect missed
      have same : eighth l it s = struck l it s := examine_struck_of_offline after rfl
      rw [same]
      refine ⟨_, after, rfl, .inr ⟨rfl, (struck_silent entry suspect missed).2, fun loaded => ?_⟩⟩
      rw [struck_of_lost entry suspect missed]
      have entry' : (ended l it s).entry ⟨l, it.node⟩ = some e := by rw [ended_entry]; exact entry
      exact goOffline_holds entry' loaded
  · refine ⟨e, (eighth_work.entries m mine).trans ((ended_entry m).trans entry), rfl, .inl ⟨online, ?_⟩⟩
    exact lost_of_kept (eighth_work.plans m mine)

/-- A node of the line once it is DOWN: OFFLINE, in the same room. -/
theorem eighth_entry {a : NodeAddr} {e : NodeEntry} (entry : s.entry ⟨l, a⟩ = some e) :
    ∃ f, (lineGoesDown l (eighth l it s)).entry ⟨l, a⟩ = some f ∧ f.health = .offline ∧ f.room = e.room := by
  by_cases offline : e.health = .offline
  · have before : (eighth l it s).entry ⟨l, a⟩ = some e := by
      by_cases mine : (⟨l, a⟩ : NodeRef) = ⟨l, it.node⟩
      · rw [mine] at entry ⊢
        exact ((examine_only _ _ _).entry _).trans (struck_entry_offline entry offline)
      · exact (eighth_work.entries _ mine).trans ((ended_entry _).trans entry)
    exact (lineGoesDown_downed rfl before).entry
  · obtain ⟨f, before, room, -⟩ := eighth_node (l := l) (it := it) entry offline
    obtain ⟨g, after, gone, same⟩ := (lineGoesDown_downed rfl before).entry
    exact ⟨g, after, gone, same.trans room⟩

/-- A node that was not OFFLINE has lost what a node loses, and its room is told (R136, R174). -/
theorem eighth_lost {a : NodeAddr} {e : NodeEntry} (entry : s.entry ⟨l, a⟩ = some e) (online : e.health ≠ .offline) :
    (lineGoesDown l (eighth l it s)).plan ⟨l, a⟩ = (s.plan ⟨l, a⟩).map Plan.lost ∧
      ((s.room e.room).state ≠ .off →
        CondSet.holds ((lineGoesDown l (eighth l it s)).notice e.room).conds .nodeLost = true) := by
  obtain ⟨f, before, room, ⟨still, plan⟩ | ⟨gone, plan, told⟩⟩ := eighth_node (l := l) (it := it) entry online
  · obtain ⟨lost, holds⟩ := (lineGoesDown_downed (l := l) rfl before).lost still
    refine ⟨lost.trans plan, fun loaded => ?_⟩
    rw [room] at holds
    refine holds ?_
    rwa [State.room, eighth_line.re]
  · exact ⟨((lineGoesDown_downed (l := l) rfl before).spared gone).trans plan,
      fun loaded => lineGoesDown_work.conds _ _ (told loaded)⟩

end

/-- A node of the line, once AP has taken its inbox: it is not touched again. -/
theorem eighth_settled {l : LineId} {it : Item} {s : State} {a : NodeAddr} {e : NodeEntry} {p : Plan}
    (entry : s.entry ⟨l, a⟩ = some e) (plan : s.plan ⟨l, a⟩ = some p) (online : e.health ≠ .offline) :
    (endEvent (lineGoesDown l (eighth l it s))).plan ⟨l, a⟩ = some p.lost := by
  obtain ⟨f, after, offline, -⟩ := eighth_entry (it := it) entry
  have lost := (eighth_lost (it := it) entry online).1
  rw [plan, Option.map_some] at lost
  have silent : Silent ⟨l, a⟩ (lineGoesDown l (eighth l it s)) := by
    refine ⟨fun g q entry' _ => ?_, fun r mem => ?_, fun q after => ?_⟩
    · rw [after] at entry'
      rw [← Option.some.inj entry']
      exact offline
    · rw [lineGoesDown_queue] at mem
      cases mem
    · rw [lost] at after
      rw [← Option.some.inj after]
      rfl
  rw [endEvent_plan, silent.settle.2, lost]

/-- The line, once AP has taken its inbox: DOWN, and as it was when it went so. -/
theorem eighth_down {l : LineId} {it : Item} {s : State} {x : Line}
    (h : (endEvent (lineGoesDown l (eighth l it s))).line l = x) :
    x.state = .down ∧ x.queued = [] ∧ x.inFlight = none ∧ x.follow = none ∧ x.timeouts = 0 ∧
      x.suspended = (s.line l).suspended ∧ x.counts.timedOut = (s.line l).counts.timedOut + 1 ∧
      x.counts.timesDown = (s.line l).counts.timesDown + 1 := by
  obtain ⟨gone, down, suspended, follow, timeouts, timedOut, timesDown⟩ := lineGoesDown_fields (l := l) (v := eighth l it s)
  obtain ⟨flight', -, suspended', -, -, timedOut', timesDown'⟩ := (eighth_work (l := l) (it := it) (s := s)).line_fields l
  have queue := lineGoesDown_queue (l := l) (v := eighth l it s)
  rw [endEvent_line, settle_line_of_down down] at h
  rw [h] at gone down suspended follow timeouts timedOut timesDown queue
  rw [ended_line] at flight' suspended' timedOut' timesDown'
  exact ⟨if_pos down, queue, gone.trans flight', follow, timeouts, suspended.trans suspended', timedOut.trans timedOut',
    timesDown.trans (by rw [timesDown'])⟩

/-- Settles O22: the line by `lineGoesDown`, each node by its turn, and AP's inbox, which finds the line DOWN. -/
theorem eighthTimeoutTakesTheLineDown : Obligations.EighthTimeoutTakesTheLineDown := by
  intro l s it ready timer flight eight
  have exec := echoTimerExpiry_exec ready timer flight
  dsimp only at exec
  rw [if_pos eight, ← eighth] at exec
  have work : LineWork l s (endEvent (lineGoesDown l (eighth l it s))) :=
    (eighth_line.trans lineGoesDown_work).trans (.of_health (HealthWork.endEvent (P := fun _ => False) _) (by simp))
  obtain ⟨state, queue, gone, follow, timeouts, suspended, timedOut, timesDown⟩ := eighth_down (l := l) (it := it) (s := s) rfl
  refine ⟨_, exec, state, queue, gone, follow, timeouts, suspended, timedOut, timesDown,
    fun a e before => ⟨?_, fun online loaded => ?_, fun p plan online => eighth_settled before plan online⟩,
    fun m other => ⟨work.entries m other, work.plans m other⟩, ?_, work.re, work.tu, work.cl, work.pu⟩
  · obtain ⟨f, after, rest⟩ := eighth_entry (it := it) before
    exact ⟨f, ((endEvent_work _).entry _).trans after, rest⟩
  · have holds := (eighth_lost (it := it) before online).2 loaded
    rwa [← endEvent_notice] at holds
  · have wing := (endEvent_work (lineGoesDown l (eighth l it s))).queue.2
    have clock : (eighth l it s).tu = s.tu := eighth_line.tu
    have before : (eighth l it s).nu.wing = s.nu.wing := eighth_work.wing
    rw [lineGoesDown_wing, clock, before] at wing
    exact wing

end Sys2Proof.Machine
end

section
/-!
PROOFS. RESTART (R40, R136; log 12): the clean line, and AP's offers to it in their order.
-/

namespace Sys2Proof.Machine

theorem LinesAndPlansOnly.re {s t : State} (h : LinesAndPlansOnly s t) : t.re = s.re := have e := congrArg State.re h.rest; e

theorem LinesAndPlansOnly.nu {s t : State} (h : LinesAndPlansOnly s t) : t.nu = s.nu := have e := congrArg State.nu h.rest; e

/-! ### The flushed and the clean line -/

theorem flushLine_rest (l : LineId) (s : State) :
    OnlyOffers s (removeItems l (fun _ => true) .flushed s) ∧ (∀ m, (flushLine l s).plan m = s.plan m) ∧
      (∀ m, (flushLine l s).entry m = s.entry m) ∧ (flushLine l s).ap.air = s.ap.air ∧
      (∀ k, k ≠ l → (flushLine l s).line k = s.line k) := by
  have offers := removeItems_offers l (fun _ => true) .flushed s
  obtain ⟨rest, others, -, -⟩ := dropInFlight_rest l (removeItems l (fun _ => true) .flushed s)
  have ap : (flushLine l s).ap = (removeItems l (fun _ => true) .flushed s).ap := have e := congrArg State.ap rest; e
  refine ⟨offers, fun m => ?_, fun m => ?_, by rw [ap]; exact offers.air, fun k other => ?_⟩
  · rw [State.plan, ap, ← State.plan, removeItems_plan]
  · rw [← offers.only.entry]
    unfold flushLine dropInFlight
    split
    · exact entry_onLine (by simp) m _
    · rfl
  · rw [flushLine, others k other, removeItems_line_ne other]

theorem flushLine_queue (l : LineId) (s : State) : ((flushLine l s).line l).queued = [] := by
  obtain ⟨-, -, -, queue⟩ := dropInFlight_rest l (removeItems l (fun _ => true) .flushed s)
  exact queue.trans (removeItems_all l .flushed s)

theorem flushLine_inFlight (l : LineId) (s : State) : ((flushLine l s).line l).inFlight = none := by
  obtain ⟨-, -, flight, -⟩ := dropInFlight_rest l (removeItems l (fun _ => true) .flushed s)
  exact flight

/-- What flushing leaves of the line's settings, and what it stops (R40, step 2). -/
theorem flushLine_line (l : LineId) (s : State) :
    ((flushLine l s).line l).timeoutSetting = (s.line l).timeoutSetting ∧
      ((s.line l).inFlight ≠ none →
        ((flushLine l s).line l).echoTimer = none ∧ ((flushLine l s).line l).driving = false) := by
  have removed := removeItems_line l (fun _ => true) .flushed s
  unfold flushLine dropInFlight
  rw [removed]
  split
  · rw [line_onLine, removed]
    exact ⟨rfl, fun _ => ⟨rfl, rfl⟩⟩
  · rename_i idle
    rw [removed]
    exact ⟨rfl, fun flight => absurd (Option.isSome_iff_ne_none.mpr flight) idle⟩

/-- The state of the line's own flags before its nodes are taken (R40, step 3). -/
def openedLine (l : LineId) (s : State) : State :=
  onLine l (fun x => { x with suspended := false, follow := none, timeouts := 0, down := false }) s

theorem cleanLine_eq_opened (l : LineId) (s : State) :
    cleanLine l s = countLine l (fun _ => LineCounts.zero) (forEach (s.nodesOn l) cleanNode (openedLine l s)) :=
  cleanLine_eq l s

theorem cleanNode_ne {m n : NodeRef} (h : m ≠ n) (s : State) :
    ((cleanNode n s).entry m, (cleanNode n s).plan m) = (s.entry m, s.plan m) := by
  have entry : (cleanNode n s).entry m = s.entry m := entry_setHealth_ne h _ _ s
  have plan : (cleanNode n s).plan m = s.plan m := plan_onPlan_ne h _ _
  rw [entry, plan]

theorem cleanNode_self (n : NodeRef) (s : State) :
    ((cleanNode n s).entry n, (cleanNode n s).plan n) =
      ((s.entry n).map (fun e => { e with health := .online, missed := false }), (s.plan n).map Plan.restarted) := by
  have entry : (cleanNode n s).entry n = _ := entry_setHealth n .online false s
  have plan : (cleanNode n s).plan n = _ := plan_onPlan n Plan.restarted (setHealth n .online false s)
  rw [entry, plan]
  rfl

/-- The line's own steps leave entries and plans. -/
theorem cleanLine_nodes (l : LineId) (s : State) (m : NodeRef) :
    ((cleanLine l s).entry m, (cleanLine l s).plan m) =
      ((forEach (s.nodesOn l) cleanNode (openedLine l s)).entry m,
        (forEach (s.nodesOn l) cleanNode (openedLine l s)).plan m) := by
  rw [cleanLine_eq_opened]
  exact Prod.ext (entry_onLine (by simp) m _) rfl

theorem openedLine_nodes (l : LineId) (s : State) (m : NodeRef) :
    ((openedLine l s).entry m, (openedLine l s).plan m) = (s.entry m, s.plan m) :=
  Prod.ext (entry_onLine (by simp) m _) rfl

/-- A node of the line is ONLINE and its plan restarted (R40, R136). -/
theorem cleanLine_of_mem {l : LineId} {s : State} {n : NodeRef} (mem : n ∈ s.nodesOn l) :
    ((cleanLine l s).entry n, (cleanLine l s).plan n) =
      ((s.entry n).map (fun e => { e with health := .online, missed := false }), (s.plan n).map Plan.restarted) := by
  obtain ⟨before, after, notBefore, notAfter, -, -, work⟩ :=
    forEach_at (f := cleanNode) (nodesOn_nodup s l) mem (openedLine l s)
  have others {ms : List NodeRef} (apart : n ∉ ms) (u : State) :
      ((forEach ms cleanNode u).entry n, (forEach ms cleanNode u).plan n) = (u.entry n, u.plan n) :=
    forEach_keeps_mem (fun u => (u.entry n, u.plan n))
      (fun m turn t => cleanNode_ne (m := n) (n := m) (by rintro rfl; exact apart turn) t) u
  rw [cleanLine_nodes, work, others notAfter, cleanNode_self]
  have first := others notBefore (openedLine l s)
  rw [openedLine_nodes] at first
  simp only [Prod.mk.injEq] at first
  rw [first.1, first.2]

/-- Any other node is as it was. -/
theorem cleanLine_of_not_mem {l : LineId} {s : State} {n : NodeRef} (apart : n ∉ s.nodesOn l) :
    ((cleanLine l s).entry n, (cleanLine l s).plan n) = (s.entry n, s.plan n) := by
  rw [cleanLine_nodes, ← openedLine_nodes l s n]
  exact forEach_keeps_mem (fun u => (u.entry n, u.plan n))
    (fun m turn t => cleanNode_ne (m := n) (n := m) (by rintro rfl; exact apart turn) t) _

theorem cleanLine_air (l : LineId) (s : State) : (cleanLine l s).ap.air = s.ap.air := by
  rw [cleanLine_eq_opened]
  exact forEach_keeps (f := cleanNode) (fun u => u.ap.air) (fun _ _ => rfl) _ _

/-- The line of RESTART before AP's offers (R40). -/
def restarted (l : LineId) (s : State) : State := cleanLine l (flushLine l s)

section
variable (l : LineId) (s : State)

theorem restarted_only : LinesAndPlansOnly s (restarted l s) := (flushLine_only l s).trans (cleanLine_only l _)

theorem restarted_air : (restarted l s).ap.air = s.ap.air := by
  obtain ⟨-, -, -, air, -⟩ := flushLine_rest l s
  exact (cleanLine_air l _).trans air

theorem restarted_line_ne {k : LineId} (h : k ≠ l) : (restarted l s).line k = s.line k := by
  obtain ⟨-, -, -, -, others⟩ := flushLine_rest l s
  exact (cleanLine_line_ne l _ h).trans (others k h)

theorem restarted_room (r : RoomId) : (restarted l s).room r = s.room r := by
  simp only [State.room, (restarted_only l s).re]

theorem restarted_entry (a : NodeAddr) :
    (restarted l s).entry ⟨l, a⟩ = (s.entry ⟨l, a⟩).map fun e => { e with health := .online, missed := false } := by
  obtain ⟨-, -, entries, -, -⟩ := flushLine_rest l s
  by_cases mem : (⟨l, a⟩ : NodeRef) ∈ (flushLine l s).nodesOn l
  · obtain ⟨clean, -⟩ := Prod.mk.inj (cleanLine_of_mem mem)
    rw [restarted, clean, entries]
  · obtain ⟨clean, -⟩ := Prod.mk.inj (cleanLine_of_not_mem mem)
    rw [mem_nodesOn_iff, not_and, entries] at mem
    have absent : s.entry ⟨l, a⟩ = none := by simpa using mem rfl
    rw [restarted, clean, entries, absent]
    rfl

theorem restarted_plan {a : NodeAddr} (entry : s.entry ⟨l, a⟩ ≠ none) :
    (restarted l s).plan ⟨l, a⟩ = (s.plan ⟨l, a⟩).map Plan.restarted := by
  obtain ⟨-, plans, entries, -, -⟩ := flushLine_rest l s
  have mem : (⟨l, a⟩ : NodeRef) ∈ (flushLine l s).nodesOn l :=
    mem_nodesOn_iff.mpr ⟨rfl, by rw [entries]; exact Option.isSome_iff_ne_none.mpr entry⟩
  obtain ⟨-, clean⟩ := Prod.mk.inj (cleanLine_of_mem mem)
  rw [restarted, clean, plans]

theorem restarted_plan_ne {m : NodeRef} (h : m.line ≠ l) : (restarted l s).plan m = s.plan m := by
  obtain ⟨-, plans, -, -, -⟩ := flushLine_rest l s
  have apart : m ∉ (flushLine l s).nodesOn l := fun mem => h (line_of_mem_nodesOn mem)
  obtain ⟨-, clean⟩ := Prod.mk.inj (cleanLine_of_not_mem apart)
  rw [restarted, clean, plans]

theorem restarted_line :
    ((restarted l s).line l).suspended = false ∧ ((restarted l s).line l).down = false ∧
      ((restarted l s).line l).follow = none ∧ ((restarted l s).line l).timeouts = 0 ∧
      ((restarted l s).line l).inFlight = none ∧ ((restarted l s).line l).queued = [] ∧
      ((restarted l s).line l).counts = LineCounts.zero ∧
      ((restarted l s).line l).timeoutSetting = (s.line l).timeoutSetting ∧
      ((s.line l).inFlight ≠ none →
        ((restarted l s).line l).echoTimer = none ∧ ((restarted l s).line l).driving = false) := by
  have line := cleanLine_line l (flushLine l s)
  have queue := flushLine_queue l s
  have flight := flushLine_inFlight l s
  obtain ⟨setting, stopped⟩ := flushLine_line l s
  simp only [Line.mk.injEq] at line
  obtain ⟨-, urgent, normal, gone, timer, down, suspended, follow, timeouts, timeout, counts, driving⟩ := line
  refine ⟨suspended, down, follow, timeouts, gone.trans flight, ?_, counts, timeout.trans setting, fun h => ?_⟩
  · exact (cleanLine_queued l _).trans queue
  · exact ⟨timer.trans (stopped h).1, driving.trans (stopped h).2⟩

end

end Sys2Proof.Machine
end

section
/-!
PROOFS. AP's offers to a clean line (R40, R133, R136; log 12): each node's item joins its band in the order of examination, and
what AP's inbox holds adds nothing.
-/

namespace Sys2Proof.Machine

/-! ### A line with given items -/

/-- The line with these items queued and accepted, none before them. -/
def Line.withItems (x : Line) (items : List Item) : Line :=
  { x with
    urgent := items.filter fun it => it.origin.band == .urgent
    normal := items.filter fun it => it.origin.band == .normal
    counts := ⟨BitVec.ofNat 32 items.length, 0, 0, 0, 0, 0, 0, 0, 0⟩ }

theorem Line.mem_withItems {x : Line} {items : List Item} {it : Item} : it ∈ (x.withItems items).queued ↔ it ∈ items := by
  simp only [Line.withItems, Line.queued, List.mem_append, List.mem_filter, ← and_or_left, beq_iff_eq]
  refine and_iff_left ?_
  cases it.origin.band <;> simp

theorem Line.length_withItems (x : Line) (items : List Item) : (x.withItems items).queued.length = items.length := by
  have bands : (fun it : Item => it.origin.band == .normal) = fun it => !(it.origin.band == .urgent) := by
    funext it
    cases it.origin.band <;> rfl
  simp only [Line.withItems, Line.queued, List.length_append, bands]
  exact (List.length_eq_length_filter_add _).symm

theorem Line.withItems_nil {x : Line} (queue : x.queued = []) (counts : x.counts = LineCounts.zero) : x.withItems [] = x := by
  obtain ⟨urgent, normal⟩ := List.append_eq_nil_iff.mp queue
  cases x
  simp only at urgent normal counts
  simp [Line.withItems, urgent, normal, counts, LineCounts.zero]

/-- An item that joins is one more. -/
theorem Line.withItems_snoc (x : Line) (items : List Item) (it : Item) :
    ({ (x.withItems items).withBand it.origin.band ((x.withItems items).band it.origin.band ++ [it]) with
      counts := (x.withItems items).counts.addAccepted } : Line) = x.withItems (items ++ [it]) := by
  cases band : it.origin.band <;>
    simp [Line.withItems, Line.withBand, Line.band, LineCounts.addAccepted, List.filter_append, band, BitVec.ofNat_add]

/-! ### The items of a restart -/

/-- The item of a node whose room is not OFF and that has a target. -/
def freshItem (c : State) (n : NodeRef) : Option Item :=
  match c.entry n, c.plan n with
  | some e, some p =>
    if (c.room e.room).state = .off then none else p.target.map fun v => targetItem n e.role v none
  | _, _ => none

theorem freshItem_eq_some_iff {c : State} {n : NodeRef} {it : Item} :
    freshItem c n = some it ↔ ∃ e p v, c.entry n = some e ∧ c.plan n = some p ∧ (c.room e.room).state ≠ .off ∧
      p.target = some v ∧ it = targetItem n e.role v none := by
  unfold freshItem
  constructor
  · intro fresh
    split at fresh
    · rename_i e p entry plan
      split at fresh
      · cases fresh
      · rename_i loaded
        obtain ⟨v, target, rfl⟩ := Option.map_eq_some_iff.mp fresh
        exact ⟨e, p, v, entry, plan, loaded, target, rfl⟩
    · cases fresh
  · rintro ⟨e, p, v, entry, plan, loaded, target, rfl⟩
    simp [entry, plan, loaded, target]

theorem freshItem_node {c : State} {n : NodeRef} {it : Item} (fresh : freshItem c n = some it) : it.node = n.addr := by
  obtain ⟨e, p, v, -, -, -, -, rfl⟩ := freshItem_eq_some_iff.mp fresh
  rfl

/-- A clean line whose nodes are ONLINE and whose plans are restarted. -/
structure CleanLine (l : LineId) (c : State) : Prop where
  queue : (c.line l).queued = []
  flight : (c.line l).inFlight = none
  up : (c.line l).down = false
  counts : (c.line l).counts = LineCounts.zero
  online : ∀ n e, n.line = l → c.entry n = some e → e.health = .online
  plans : ∀ n e p, n.line = l → c.entry n = some e → c.plan n = some p →
    p.confirmed = false ∧ p.stalled = false ∧ p.travel = none

/-- AP has examined these nodes of the clean line, each for the first time, in this order. -/
structure Examined (l : LineId) (c : State) (done : List NodeRef) (u : State) : Prop where
  here : ∀ n ∈ done, n.line = l
  once : done.Nodup
  offers : OnlyOffers c u
  line : u.line l = (c.line l).withItems (done.filterMap (freshItem c))

/-- A node's plan, its deferred flag apart, is the clean one. -/
theorem Examined.plan {l : LineId} {c u : State} {done : List NodeRef} (h : Examined l c done u) {n : NodeRef} {q : Plan}
    (plan : u.plan n = some q) : ∃ p, c.plan n = some p ∧ p.kept = q.kept := by
  have kept := h.offers.kept n
  rw [plan, Option.map_some] at kept
  exact Option.map_eq_some_iff.mp kept.symm

/-- A line has 32 node addresses. -/
theorem length_le_of_line {l : LineId} {ns : List NodeRef} (once : ns.Nodup) (here : ∀ n ∈ ns, n.line = l) :
    ns.length ≤ 32 := by
  have addresses : (ns.map NodeRef.addr).Nodup := once.map_on fun m hm n hn same => by
    have line := (here m hm).trans (here n hn).symm
    cases m
    cases n
    simp_all
  have card := addresses.length_le_card
  rwa [List.length_map, Fintype.card_fin] at card

section
variable {l : LineId} {c u : State} {done : List NodeRef} (clean : CleanLine l c) (h : Examined l c done u)
include clean h

/-- Nothing bars a node of the clean line but its room (R133). -/
theorem Examined.barred_iff {n : NodeRef} (here : n.line = l) {e : NodeEntry} {q : Plan} (entry : u.entry n = some e)
    (plan : u.plan n = some q) (v : Target) : Barred u e q v ↔ (c.room e.room).state = .off := by
  obtain ⟨p, old, kept⟩ := h.plan plan
  have entry' : c.entry n = some e := h.offers.only.entry n ▸ entry
  obtain ⟨-, stalled, travel⟩ := clean.plans n e p here entry' old
  have online := clean.online n e here entry'
  have stalled' : q.stalled = false := (congrArg Plan.stalled kept).symm.trans stalled
  have travel' : q.travel = none := (congrArg Plan.travel kept).symm.trans travel
  simp [Barred, h.offers.only.room, online, stalled', travel']

/-- A node that has been examined is at rest: it has no target to offer, or its item is on its way. -/
theorem Examined.rests {n : NodeRef} (mem : n ∈ done) {e : NodeEntry} {q : Plan} (entry : u.entry n = some e)
    (plan : u.plan n = some q) : examined u n e q = none := by
  have here := h.here n mem
  obtain ⟨p, old, kept⟩ := h.plan plan
  have entry' : c.entry n = some e := h.offers.only.entry n ▸ entry
  have same : q.target = p.target := (congrArg Plan.target kept).symm
  cases target : q.target with
  | none => exact examined_of_no_target target
  | some v =>
    by_cases off : (c.room e.room).state = .off
    · exact examined_of_barred target ((h.barred_iff clean here entry plan v).mpr off)
    have fresh : freshItem c n = some (targetItem n e.role v none) :=
      freshItem_eq_some_iff.mpr ⟨e, p, v, entry', old, off, same ▸ target, rfl⟩
    refine examined_of_onItsWay (it := targetItem n e.role v none) target ?_ rfl
    rw [here, h.line]
    refine Line.onItsWay_of_mem (Line.mem_withItems.mpr (List.mem_filterMap.mpr ⟨n, mem, fresh⟩)) fun r queued rival => ?_
    obtain ⟨m, turn, item⟩ := List.mem_filterMap.mp (Line.mem_withItems.mp queued)
    have node : m.addr = n.addr := (freshItem_node item).symm.trans (Item.rivals_iff.mp rival).1.symm
    have same : m = n := by
      have line := (h.here m turn).trans here.symm
      cases m
      cases n
      simp_all
    rw [same, fresh] at item
    exact (Option.some.inj item).symm

/-- The next examination: of a node examined before it does nothing; of another it queues the node's item, if it has one. -/
theorem Examined.next {n : NodeRef} (here : n.line = l) :
    Examined l c (if n ∈ done then done else done ++ [n]) (examine none n u) := by
  split
  · rename_i mem
    rwa [examine_of_none fun e p entry plan => h.rests clean mem entry plan]
  rename_i new
  have once : (done ++ [n]).Nodup := by
    refine h.once.append (List.nodup_singleton n) fun m old single => new ?_
    rwa [List.mem_singleton.mp single] at old
  have onLine : ∀ m ∈ done ++ [n], m.line = l := fun m mem =>
    (List.mem_append.mp mem).elim (h.here m) fun single => List.mem_singleton.mp single ▸ here
  refine ⟨onLine, once, h.offers.trans (examine_offers none n u), ?_⟩
  rw [List.filterMap_append]
  have strangers : ∀ r ∈ (u.line l).queued, r.node ≠ n.addr := fun r mem node => by
    rw [h.line, Line.mem_withItems, List.mem_filterMap] at mem
    obtain ⟨m, old, item⟩ := mem
    refine new ?_
    have same : m = n := by
      have line := (h.here m old).trans here.symm
      have addr := (freshItem_node item).symm.trans node
      cases m
      cases n
      simp_all
    rwa [same] at old
  have flight : (u.line l).inFlight = none := (h.offers.only.inFlight l).trans clean.flight
  have free (k : CmdKind) : (u.line l).onItsWay n.addr k = none := by
    rw [Line.onItsWay, flight, List.find?_eq_none]
    intro r mem
    simp only [Option.toList_none, List.append_nil] at mem
    simp [strangers r mem]
  cases fresh : freshItem c n with
  | none =>
    have still : examine none n u = u := examine_of_none fun e q entry plan => by
      cases target : q.target with
      | none => exact examined_of_no_target target
      | some v =>
        refine examined_of_barred target ((h.barred_iff clean here entry plan v).mpr ?_)
        by_contra loaded
        obtain ⟨p, old, kept⟩ := h.plan plan
        have item := freshItem_eq_some_iff.mpr ⟨e, p, v, h.offers.only.entry n ▸ entry, old, loaded,
          (congrArg Plan.target kept).trans target, rfl⟩
        rw [fresh] at item
        cases item
    rw [still, h.line]
    simp [fresh]
  | some it =>
    obtain ⟨e, p, v, entry', old, loaded, target, rfl⟩ := freshItem_eq_some_iff.mp fresh
    have entry : u.entry n = some e := (h.offers.only.entry n).trans entry'
    obtain ⟨q, plan, kept⟩ := plan_of_kept h.offers old
    obtain ⟨unconfirmed, -, -⟩ := clean.plans n e p here entry' old
    have target' : q.target = some v := (congrArg Plan.target kept).trans target
    have confirmed' : q.confirmed = false := (congrArg Plan.confirmed kept).trans unconfirmed
    have due : examined u n e q = some v := by
      refine (examined_eq_some_iff target').mpr ⟨rfl, fun barred => loaded ((h.barred_iff clean here entry plan v).mp barred), ?_⟩
      rw [here, free]
      exact .inr confirmed'
    have place : (u.line l).queued.length < 32 := by
      have number := length_le_of_line once onLine
      have items := List.length_filterMap_le (freshItem c) done
      rw [List.length_append, List.length_singleton] at number
      rw [h.line, Line.length_withItems]
      omega
    have joined := Line.offer_joined (it := targetItem n e.role v none) ((h.offers.only.down l).trans clean.up)
      (fun r mem => Item.rivals_eq_false_iff.mpr fun same => strangers r mem (congrArg Prod.fst same).symm) place
    have line := examine_line (link := none) entry plan due
    rw [here, joined] at line
    rw [line, h.line, Line.withItems_snoc]
    simp [fresh]

/-- The examinations of a list of distinct nodes: those examined before are passed over. -/
theorem Examined.all {ns : List NodeRef} (distinct : ns.Nodup) (here : ∀ n ∈ ns, n.line = l) :
    Examined l c (done ++ ns.filter (· ∉ done)) (forEach ns (examine none) u) := by
  induction ns generalizing done u with
  | nil => simpa [forEach] using h
  | cons n ns ih =>
    obtain ⟨fresh, distinct⟩ := List.nodup_cons.mp distinct
    have work : forEach (n :: ns) (examine none) u = forEach ns (examine none) (examine none n u) := rfl
    rw [work]
    have next := h.next clean (here n (by simp))
    have rest := ih next distinct fun m mem => here m (List.mem_cons_of_mem n mem)
    by_cases mem : n ∈ done
    · rw [if_pos mem] at rest
      simpa [mem] using rest
    · rw [if_neg mem] at rest
      have passed : ns.filter (· ∉ done ++ [n]) = ns.filter (· ∉ done) := List.filter_congr fun m turn => by
        have apart : m ≠ n := fun same => fresh (same ▸ turn)
        simp [apart]
      rw [passed] at rest
      simpa [mem] using rest

end

/-- Before any examination. -/
theorem Examined.start {l : LineId} {c : State} (clean : CleanLine l c) : Examined l c [] c :=
  ⟨by simp, List.nodup_nil, .refl c, (Line.withItems_nil clean.queue clean.counts).symm⟩

/-- The end of the event leaves a line whose nodes have all been examined as it is (log 9). -/
theorem Examined.settled {l : LineId} {c u : State} {done : List NodeRef} (clean : CleanLine l c) (h : Examined l c done u)
    (all : ∀ a, (c.entry ⟨l, a⟩).isSome = true → ⟨l, a⟩ ∈ done) : (settle u).line l = u.line l :=
  settle_line_of_rest fun a => .inr fun e q entry plan => by
    have entry' : c.entry ⟨l, a⟩ = some e := h.offers.only.entry ⟨l, a⟩ ▸ entry
    exact h.rests clean (all a (by rw [entry']; rfl)) entry plan

end Sys2Proof.Machine
end

section
/-!
PROOFS. RESTART, from the request to the end of its event (R40, R136).
-/

namespace Sys2Proof.Machine

/-- The node of the item that was in flight, when its target was due (R136). -/
def restartEnded (l : LineId) (s : State) : List NodeRef :=
  ((s.line l).inFlight.toList.map fun it => (⟨l, it.node⟩ : NodeRef)).filter (flushLine l s).offers

theorem restartLine_eq (l : LineId) (s : State) :
    restartLine l s =
      endEvent (forEach (restartEnded l s ++ (restarted l s).nodesOn l) (examine none) (restarted l s)) := rfl

theorem offers_iff {s : State} {n : NodeRef} :
    s.offers n = true ↔ ∃ e p v, s.entry n = some e ∧ s.plan n = some p ∧ examined s n e p = some v := by
  unfold State.offers
  constructor
  · intro offers
    split at offers
    · rename_i e p entry plan
      obtain ⟨v, due⟩ := Option.isSome_iff_exists.mp offers
      exact ⟨e, p, v, entry, plan, due⟩
    · cases offers
  · rintro ⟨e, p, v, entry, plan, due⟩
    simp [entry, plan, due]

/-- On a flushed line nothing is on its way (R133). -/
theorem examined_flushed_iff {l : LineId} {s : State} {a : NodeAddr} {e : NodeEntry} {p : Plan} {v : Target} :
    examined (flushLine l s) ⟨l, a⟩ e p = some v ↔
      p.target = some v ∧ (s.room e.room).state ≠ .off ∧ e.health ≠ .offline ∧ p.stalled = false ∧
        ¬ (e.role.isBlind = true ∧ p.travel ≠ none ∧ p.lastSent = some v.value) ∧
        (p.lastSent ≠ some v.value ∨ p.confirmed = false) := by
  have room : (flushLine l s).room e.room = s.room e.room := by simp only [State.room, (flushLine_only l s).re]
  have none : ((flushLine l s).line l).onItsWay a e.role.kind = none := by
    simp [Line.onItsWay, flushLine_queue, flushLine_inFlight]
  have free (t : Target) : ¬ Barred (flushLine l s) e p t ↔ (s.room e.room).state ≠ .off ∧ e.health ≠ .offline ∧
      p.stalled = false ∧ ¬ (e.role.isBlind = true ∧ p.travel ≠ Option.none ∧ p.lastSent = some t.value) := by
    simp only [Barred, not_or, room, Option.isSome_iff_ne_none, Bool.not_eq_true]
  constructor
  · intro due
    have target := target_of_examined due
    obtain ⟨-, unbarred, isDue⟩ := (examined_eq_some_iff target).mp due
    rw [none] at isDue
    obtain ⟨loaded, online, moves, stays⟩ := (free v).mp unbarred
    exact ⟨target, loaded, online, moves, stays, isDue⟩
  · rintro ⟨target, loaded, online, moves, stays, isDue⟩
    refine (examined_eq_some_iff target).mpr ⟨rfl, (free v).mpr ⟨loaded, online, moves, stays⟩, ?_⟩
    rw [none]
    exact isDue

/-- What makes the node of the item in flight stand first (R136). -/
theorem mem_restartEnded_iff {l : LineId} {s : State} {a : NodeAddr} :
    (⟨l, a⟩ : NodeRef) ∈ restartEnded l s ↔ ∃ it e p v, (s.line l).inFlight = some it ∧ it.node = a ∧
      s.entry ⟨l, a⟩ = some e ∧ s.plan ⟨l, a⟩ = some p ∧ p.target = some v ∧ (s.room e.room).state ≠ .off ∧
      e.health ≠ .offline ∧ p.stalled = false ∧
      ¬ (e.role.isBlind = true ∧ p.travel ≠ none ∧ p.lastSent = some v.value) ∧
      (p.lastSent ≠ some v.value ∨ p.confirmed = false) := by
  obtain ⟨-, plans, entries, -, -⟩ := flushLine_rest l s
  simp only [restartEnded, List.mem_filter, List.mem_map, Option.mem_toList, NodeRef.mk.injEq, true_and,
    offers_iff, entries, plans]
  constructor
  · rintro ⟨⟨it, flight, node⟩, e, p, v, entry, plan, due⟩
    exact ⟨it, e, p, v, flight, node, entry, plan, examined_flushed_iff.mp due⟩
  · rintro ⟨it, e, p, v, flight, node, entry, plan, due⟩
    exact ⟨⟨it, flight, node⟩, e, p, v, entry, plan, examined_flushed_iff.mpr due⟩

section
variable (l : LineId) (s : State)

theorem restarted_clean : CleanLine l (restarted l s) := by
  obtain ⟨-, up, -, -, flight, queue, counts, -, -⟩ := restarted_line l s
  refine ⟨queue, flight, up, counts, ?_, ?_⟩
  · rintro ⟨k, a⟩ e rfl entry
    rw [restarted_entry] at entry
    obtain ⟨f, -, rfl⟩ := Option.map_eq_some_iff.mp entry
    rfl
  · rintro ⟨k, a⟩ e p rfl entry plan
    rw [restarted_entry] at entry
    obtain ⟨f, known, -⟩ := Option.map_eq_some_iff.mp entry
    rw [restarted_plan _ s (by rw [known]; exact Option.some_ne_none f)] at plan
    obtain ⟨q, -, rfl⟩ := Option.map_eq_some_iff.mp plan
    exact ⟨rfl, rfl, rfl⟩

/-- The order in which the line's nodes are first examined (R136). -/
def restartOrder : List NodeRef :=
  restartEnded l s ++ ((restarted l s).nodesOn l).filter (· ∉ restartEnded l s)

theorem restartEnded_here : ∀ n ∈ restartEnded l s, n.line = l := by
  intro n mem
  obtain ⟨it, -, rfl⟩ := List.mem_map.mp (List.mem_filter.mp mem).1
  rfl

theorem restartEnded_nodup : (restartEnded l s).Nodup := by
  refine List.Nodup.filter _ ?_
  cases (s.line l).inFlight <;> simp

theorem restart_examined :
    Examined l (restarted l s) (restartOrder l s)
      (forEach (restartEnded l s ++ (restarted l s).nodesOn l) (examine none) (restarted l s)) := by
  have clean := restarted_clean l s
  have first := (Examined.start clean).all clean (restartEnded_nodup l s) (restartEnded_here l s)
  simp only [List.not_mem_nil, not_false_eq_true, decide_true, List.filter_true, List.nil_append] at first
  have second := first.all clean (nodesOn_nodup (restarted l s) l) fun n mem => line_of_mem_nodesOn mem
  have work : forEach (restartEnded l s ++ (restarted l s).nodesOn l) (examine none) (restarted l s) =
      forEach ((restarted l s).nodesOn l) (examine none) (forEach (restartEnded l s) (examine none) (restarted l s)) :=
    List.foldl_append ..
  rw [work]
  exact second

theorem mem_restartOrder {a : NodeAddr} (entry : s.entry ⟨l, a⟩ ≠ none) : (⟨l, a⟩ : NodeRef) ∈ restartOrder l s := by
  have listed : (⟨l, a⟩ : NodeRef) ∈ (restarted l s).nodesOn l :=
    mem_nodesOn_iff.mpr ⟨rfl, by rw [restarted_entry, Option.isSome_map]; exact Option.isSome_iff_ne_none.mpr entry⟩
  by_cases first : (⟨l, a⟩ : NodeRef) ∈ restartEnded l s
  · exact List.mem_append_left _ first
  · exact List.mem_append_right _ (List.mem_filter.mpr ⟨listed, by simpa using first⟩)

variable {l s} (settled : s.Settled)
include settled

theorem restart_offers : OnlyOffers (restarted l s) (restartLine l s) := by
  have offers := (restart_examined l s).offers
  rw [restartLine_eq]
  refine offers.trans (endEvent_offers ?_)
  rw [State.Settled, offers.only.nu, (restarted_only l s).nu]
  exact settled

omit settled in
theorem restart_line :
    (restartLine l s).line l = ((restarted l s).line l).withItems ((restartOrder l s).filterMap (freshItem (restarted l s))) := by
  have examined := restart_examined l s
  rw [restartLine_eq, endEvent_line, examined.settled (restarted_clean l s) fun a entry => ?_, examined.line]
  rw [restarted_entry, Option.isSome_map] at entry
  exact mem_restartOrder l s (Option.isSome_iff_ne_none.mp entry)

end

/-- The item of a node of the restarted line, from its entry and plan before (R136). -/
theorem freshItem_restarted_iff {l : LineId} {s : State} {a : NodeAddr} {it : Item} :
    freshItem (restarted l s) ⟨l, a⟩ = some it ↔ ∃ e p v, s.entry ⟨l, a⟩ = some e ∧ s.plan ⟨l, a⟩ = some p ∧
      (s.room e.room).state ≠ .off ∧ p.target = some v ∧ it = targetItem ⟨l, a⟩ e.role v none := by
  rw [freshItem_eq_some_iff]
  constructor
  · rintro ⟨f, q, v, entry, plan, loaded, target, rfl⟩
    rw [restarted_entry] at entry
    obtain ⟨e, known, rfl⟩ := Option.map_eq_some_iff.mp entry
    rw [restarted_plan l s (by rw [known]; exact Option.some_ne_none e)] at plan
    obtain ⟨p, old, rfl⟩ := Option.map_eq_some_iff.mp plan
    rw [restarted_room] at loaded
    exact ⟨e, p, v, known, old, loaded, target, rfl⟩
  · rintro ⟨e, p, v, known, old, loaded, target, rfl⟩
    refine ⟨{ e with health := .online, missed := false }, p.restarted, v, by rw [restarted_entry, known]; rfl,
      by rw [restarted_plan l s (by rw [known]; exact Option.some_ne_none e), old]; rfl, ?_, target, rfl⟩
    rwa [restarted_room]

theorem targetItem_of_no_link (n : NodeRef) (role : Role) (v : Target) :
    targetItem n role v none =
      { node := n.addr, kind := role.kind, value := v.value, ramp := if role.isLight then v.ramp else 0
        origin := if v.protect then .protect else .room, link := none, passTag := none } := by
  simp [targetItem]

/-- A node due before stands first; the others follow in node-table order (R136). -/
theorem restartOrder_sorted (l : LineId) (s : State) :
    (restartOrder l s).Pairwise fun m n => (⟨l, m.addr⟩ : NodeRef) ∈ restartEnded l s ∨
      ((⟨l, n.addr⟩ : NodeRef) ∉ restartEnded l s ∧ m.addr < n.addr) := by
  have self (n : NodeRef) (here : n.line = l) : (⟨l, n.addr⟩ : NodeRef) = n := by cases n; cases here; rfl
  refine List.pairwise_append.mpr ⟨?_, ?_, fun m first n _ => .inl ?_⟩
  · refine List.Pairwise.imp_of_mem (R := fun _ _ => True) (fun {m n} first _ _ => .inl ?_) (List.pairwise_of_forall fun _ _ => trivial)
    rwa [self m (restartEnded_here l s m first)]
  · refine List.Pairwise.imp_of_mem (R := fun m n : NodeRef => m.addr < n.addr) (fun {m n} _ later less => .inr ⟨?_, less⟩)
      (List.Pairwise.filter _ ?_)
    · obtain ⟨listed, later⟩ := List.mem_filter.mp later
      rw [self n (line_of_mem_nodesOn listed)]
      simpa using later
    · exact List.Pairwise.filter _ (List.pairwise_map.mpr (List.pairwise_lt_finRange 32))
  · rwa [self m (restartEnded_here l s m first)]

theorem restart_items_sorted (l : LineId) (s : State) :
    ((restartOrder l s).filterMap (freshItem (restarted l s))).Pairwise fun x y =>
      (⟨l, x.node⟩ : NodeRef) ∈ restartEnded l s ∨ ((⟨l, y.node⟩ : NodeRef) ∉ restartEnded l s ∧ x.node < y.node) :=
  (restartOrder_sorted l s).filterMap _ fun m n before x item y item' => by
    rw [freshItem_node item, freshItem_node item']
    exact before

/-- What the offers leave of a clean line. -/
theorem Line.withItems_rest (x : Line) (items : List Item) :
    (x.withItems items).suspended = x.suspended ∧ (x.withItems items).down = x.down ∧ (x.withItems items).follow = x.follow ∧
      (x.withItems items).timeouts = x.timeouts ∧ (x.withItems items).inFlight = x.inFlight ∧
      (x.withItems items).timeoutSetting = x.timeoutSetting ∧ (x.withItems items).echoTimer = x.echoTimer ∧
      (x.withItems items).driving = x.driving ∧
      (x.withItems items).counts = ⟨BitVec.ofNat 32 (x.withItems items).queued.length, 0, 0, 0, 0, 0, 0, 0, 0⟩ :=
  ⟨rfl, rfl, rfl, rfl, rfl, rfl, rfl, rfl, by rw [Line.length_withItems]; rfl⟩

/-- The line after RESTART, its queue apart (R40). -/
theorem restart_fields {l : LineId} {s : State} {x : Line} (h : (restartLine l s).line l = x) :
    x.suspended = false ∧ x.down = false ∧ x.follow = none ∧ x.timeouts = 0 ∧ x.inFlight = none ∧
      x.counts = ⟨BitVec.ofNat 32 x.queued.length, 0, 0, 0, 0, 0, 0, 0, 0⟩ ∧ x.timeoutSetting = (s.line l).timeoutSetting ∧
      ((s.line l).inFlight ≠ none → x.echoTimer = none ∧ x.driving = false) := by
  obtain ⟨suspended, up, follow, timeouts, flight, -, -, setting, stopped⟩ := restarted_line l s
  obtain ⟨suspended', up', follow', timeouts', flight', setting', timer', driving', counts'⟩ := Line.withItems_rest
    ((restarted l s).line l) ((restartOrder l s).filterMap (freshItem (restarted l s)))
  rw [← restart_line, h] at suspended' up' follow' timeouts' flight' setting' timer' driving' counts'
  exact ⟨suspended'.trans suspended, up'.trans up, follow'.trans follow, timeouts'.trans timeouts, flight'.trans flight, counts',
    setting'.trans setting, fun h => ⟨timer'.trans (stopped h).1, driving'.trans (stopped h).2⟩⟩

/-- What stands in the queue after RESTART (R40, R136). -/
theorem mem_restart_queue {l : LineId} {s : State} {it : Item} :
    it ∈ ((restartLine l s).line l).queued ↔
      ∃ e p v, s.entry ⟨l, it.node⟩ = some e ∧ s.plan ⟨l, it.node⟩ = some p ∧ (s.room e.room).state ≠ .off ∧
        p.target = some v ∧ it = targetItem ⟨l, it.node⟩ e.role v none := by
  rw [restart_line, Line.mem_withItems, List.mem_filterMap, ← freshItem_restarted_iff]
  constructor
  · rintro ⟨⟨k, a⟩, mem, fresh⟩
    have line : k = l := (restart_examined l s).here _ mem
    have node : it.node = a := freshItem_node fresh
    subst line node
    exact fresh
  · intro fresh
    obtain ⟨e, _, _, entry, _⟩ := freshItem_restarted_iff.mp fresh
    exact ⟨_, mem_restartOrder l s (by rw [entry]; exact Option.some_ne_none e), fresh⟩

section
variable {l : LineId} {s : State} (settled : s.Settled)
include settled

/-- The plan of a node of the line after RESTART (R136). -/
theorem restart_plan {a : NodeAddr} (entry : s.entry ⟨l, a⟩ ≠ none) :
    ((restartLine l s).plan ⟨l, a⟩).map Plan.kept = (s.plan ⟨l, a⟩).map fun p => p.restarted.kept := by
  rw [(restart_offers settled).kept, restarted_plan l s entry, Option.map_map]
  rfl

theorem restart_entry (a : NodeAddr) :
    (restartLine l s).entry ⟨l, a⟩ = (s.entry ⟨l, a⟩).map fun e => { e with health := .online, missed := false } := by
  rw [(restart_offers settled).only.entry, restarted_entry]

end

/-- Each band of the queue after RESTART, in its order (R136). -/
theorem restart_bands_sorted {l : LineId} {s : State} {band : List Item}
    (h : band ∈ [((restartLine l s).line l).urgent, ((restartLine l s).line l).normal]) :
    band.Pairwise fun x y =>
      (⟨l, x.node⟩ : NodeRef) ∈ restartEnded l s ∨ ((⟨l, y.node⟩ : NodeRef) ∉ restartEnded l s ∧ x.node < y.node) := by
  rw [restart_line] at h
  simp only [Line.withItems, List.mem_cons, List.not_mem_nil, or_false] at h
  obtain rfl | rfl := h
  · exact (restart_items_sorted l s).filter _
  · exact (restart_items_sorted l s).filter _

/-- Settles O13: the clean line from `restarted`, its queue from `mem_restart_queue`, the order from `restart_bands_sorted`. -/
theorem restartReturnsTheLineToACleanStart : Obligations.RestartReturnsTheLineToACleanStart := by
  intro s tag ps l n takes parsed settled
  have offers := restart_offers (l := l) (s := dropFrame s) settled
  have only := (restarted_only l (dropFrame s)).trans ⟨offers.only.rest⟩
  obtain ⟨suspended, up, follow, timeouts, flight, counts, setting, stopped⟩ := restart_fields (l := l) (s := dropFrame s) rfl
  refine ⟨_, lineControl_done rfl takes parsed, only.rest, suspended, up, follow, timeouts, flight, counts, setting, stopped,
    restart_entry settled, fun a p entry plan => ?_, fun a p entry plan => ?_, fun it mem => ?_,
    fun a e p entry plan target loaded => ?_, ?_, fun k other => ?_, fun m other => ?_, ?_⟩
  · have kept := restart_plan (s := dropFrame s) settled entry
    rw [plan, Option.map_some] at kept
    obtain ⟨q, -, same⟩ := Option.map_eq_some_iff.mp kept.symm
    exact ⟨(congrArg Plan.confirmed same).symm, (congrArg Plan.stalled same).symm, (congrArg Plan.travel same).symm⟩
  · have kept := restart_plan (s := dropFrame s) settled entry
    rw [show (dropFrame s).plan ⟨l, a⟩ = some p from plan] at kept
    exact kept
  · obtain ⟨e, p, v, entry, plan, loaded, target, item⟩ := mem_restart_queue.mp mem
    rw [targetItem_of_no_link] at item
    exact ⟨e, p, v, entry, plan, loaded, target, item⟩
  · obtain ⟨v, target⟩ := Option.ne_none_iff_exists'.mp target
    exact ⟨targetItem ⟨l, a⟩ e.role v none, mem_restart_queue.mpr ⟨e, p, v, entry, plan, loaded, target, rfl⟩, rfl⟩
  · intro dueBefore band mem
    have first (a : NodeAddr) : (⟨l, a⟩ : NodeRef) ∈ restartEnded l (dropFrame s) ↔ dueBefore a := mem_restartEnded_iff
    have sorted := restart_bands_sorted mem
    simp only [first] at sorted
    exact sorted
  · rw [offers.only.lines, restarted_line_ne l _ other]
    rfl
  · rw [offers.kept, restarted_plan_ne l _ other]
    rfl
  · rw [offers.air, restarted_air]
    rfl

end Sys2Proof.Machine
end

section
/-!
PROOFS. What a report and the actions it is handed to leave (R50 to R59): the settings of every block, and of a line all but
its queues.
-/

namespace Sys2Proof.Machine

/-- From `s` to `t` every block keeps its settings: the timetable, the rules, TI's receive buffer, AP's tables, the pins, NU's
mask and the configurations of rooms, notices and fault sources. -/
structure KeepsSettings (s t : State) : Prop where
  tu : t.tu = s.tu
  rules : t.cl.rules = s.cl.rules
  ti : t.ti.frame = s.ti.frame
  tables : t.ap.scenes = s.ap.scenes ∧ t.ap.rounding = s.ap.rounding ∧ t.ap.mirrorUnclassified = s.ap.mirrorUnclassified
  pins : t.pu.pins = s.pu.pins
  mask : t.nu.mask = s.nu.mask
  rooms : ∀ r, (t.room r).cfg = (s.room r).cfg ∧ (t.room r).suite = (s.room r).suite
  notices : ∀ r, (t.notice r).frame = (s.notice r).frame
  sources : ∀ i, (t.source i).cfg = (s.source i).cfg

namespace KeepsSettings

theorem refl (s : State) : KeepsSettings s s :=
  ⟨rfl, rfl, rfl, ⟨rfl, rfl, rfl⟩, rfl, rfl, fun _ => ⟨rfl, rfl⟩, fun _ => rfl, fun _ => rfl⟩

theorem trans {a b c : State} (h : KeepsSettings a b) (k : KeepsSettings b c) : KeepsSettings a c where
  tu := k.tu.trans h.tu
  rules := k.rules.trans h.rules
  ti := k.ti.trans h.ti
  tables := ⟨k.tables.1.trans h.tables.1, k.tables.2.1.trans h.tables.2.1, k.tables.2.2.trans h.tables.2.2⟩
  pins := k.pins.trans h.pins
  mask := k.mask.trans h.mask
  rooms r := ⟨(k.rooms r).1.trans (h.rooms r).1, (k.rooms r).2.trans (h.rooms r).2⟩
  notices r := (k.notices r).trans (h.notices r)
  sources i := (k.sources i).trans (h.sources i)

theorem of_work {s t : State} (h : RoomWork s t) : KeepsSettings s t where
  tu := h.tu
  rules := by rw [h.cl]
  ti := h.ti
  tables := h.tables
  pins := by rw [h.pu]
  mask := h.queue.1
  rooms := h.configs
  notices := h.notices
  sources i := by rw [h.source]

/-- The lines and the node tables are no setting. -/
theorem of_lines {s t : State} (h : { t with lc := s.lc } = s) : KeepsSettings s t := by
  have e : t = { s with lc := t.lc } := have e := congrArg (fun u : State => { u with lc := t.lc }) h; e
  rw [e]
  exact { KeepsSettings.refl s with }

theorem onSource {f : Source → Source} (cfg : ∀ x, (f x).cfg = x.cfg) (i : SourceId) (s : State) :
    KeepsSettings s (Machine.onSource i f s) :=
  { KeepsSettings.refl s with
    sources := fun j => by
      by_cases same : j = i
      · rw [same, source_onSource, cfg]
      · rw [source_onSource_ne same] }

theorem writeWing (k : WingKind) (s : State) : KeepsSettings s (Machine.writeWing k s) := by
  unfold Machine.writeWing
  split <;> exact { KeepsSettings.refl s with }

theorem forEach {α : Type} {f : α → State → State} (h : ∀ x s, KeepsSettings s (f x s)) (xs : List α) (s : State) :
    KeepsSettings s (Machine.forEach xs f s) := forEach_rel KeepsSettings refl trans h xs s

end KeepsSettings

/-! ### The actions of the rules (R50 to R56) -/

/-- From `s` to `t` the actions of a report work: settings stay, and of a line only its queues change. -/
structure ActionWork (s t : State) : Prop where
  settings : KeepsSettings s t
  lines : ∀ k, (t.line k).frame = (s.line k).frame

namespace ActionWork

theorem refl (s : State) : ActionWork s s := ⟨.refl s, fun _ => rfl⟩

theorem trans {a b c : State} (h : ActionWork a b) (k : ActionWork b c) : ActionWork a c :=
  ⟨h.settings.trans k.settings, fun l => (k.lines l).trans (h.lines l)⟩

theorem of_work {s t : State} (h : RoomWork s t) : ActionWork s t := ⟨.of_work h, h.lines⟩

theorem onSource {f : Source → Source} (cfg : ∀ x, (f x).cfg = x.cfg) (i : SourceId) (s : State) :
    ActionWork s (Machine.onSource i f s) := ⟨.onSource cfg i s, fun _ => rfl⟩

theorem writeWing (k : WingKind) (s : State) : ActionWork s (Machine.writeWing k s) :=
  ⟨.writeWing k s, fun l => by rw [State.line, writeWing_lc]; rfl⟩

theorem forEach {α : Type} {f : α → State → State} (h : ∀ x s, ActionWork s (f x s)) (xs : List α) (s : State) :
    ActionWork s (Machine.forEach xs f s) := forEach_rel ActionWork refl trans h xs s

theorem ite {c : Prop} [Decidable c] {s a b : State} (h : ActionWork s a) (k : ActionWork s b) :
    ActionWork s (if c then a else b) := by
  split
  · exact h
  · exact k

end ActionWork

theorem protectionChange_work (old : Pu) (r : RoomId) (s : State) : RoomWork s (protectionChange old r s) := by
  unfold protectionChange
  refine ite_work (.refl s) (ite_work (.refl s) ?_)
  have recomposed := (RoomWork.of_only (removeFamily_only (enters old s.pu r) r s)).trans
    ((clearOverrides_work (enters old s.pu r) r _).trans (recompose_work r _))
  exact recomposed.trans ((ite_work (raise_work _ r _) (.refl _)).trans
    ((ite_work (raise_work _ r _) (.refl _)).trans (endEvent_work _)))

theorem sourceMoves_actions {f : Source → Source} (cfg : ∀ x, (f x).cfg = x.cfg) (i : SourceId) (k : WingKind) (s : State) :
    ActionWork s (sourceMoves i f k s) :=
  (ActionWork.onSource cfg i s).trans ((ActionWork.writeWing k _).trans
    (.forEach (fun r t => .of_work (protectionChange_work _ r t)) _ _))

theorem testAssertion_actions (i : SourceId) (s : State) : ActionWork s (testAssertion i s) := by
  unfold testAssertion
  dsimp only
  split
  · exact sourceMoves_actions (by exact fun _ => rfl) i _ s
  · split
    · exact .onSource (by exact fun _ => rfl) i s
    · exact .ite (sourceMoves_actions (by exact fun _ => rfl) i _ s) (.onSource (by exact fun _ => rfl) i s)
  · exact .onSource (by exact fun _ => rfl) i s
  · exact .onSource (by exact fun _ => rfl) i s
  · exact .refl s

theorem claimFault_actions (i : SourceId) (sets : Bool) (s : State) : ActionWork s (claimFault i sets s) :=
  .ite (.refl s) ((ActionWork.onSource (by exact fun _ => rfl) i s).trans (testAssertion_actions i _))

theorem deliver_actions (rep : LineReport) (home : Option RoomId) (x : Rule) (s : State) :
    ActionWork s (deliver rep home x s) := by
  unfold deliver
  split
  · split
    · exact .of_work (roomAction_work _ _ _ _ s)
    · exact .refl s
  · exact .of_work (partitionAction_work _ _ s)
  · exact claimFault_actions _ _ s
  · exact .refl s

theorem noteStranger_actions (n : NodeRef) (s : State) : ActionWork s (noteStranger n s) := by
  have flagged (b : Vector Bool 4) (t : State) : ActionWork t { t with cl := { t.cl with strangers := b } } :=
    ⟨{ KeepsSettings.refl t with }, fun _ => rfl⟩
  unfold noteStranger
  exact .ite (.refl s) (.ite ((ActionWork.writeWing _ s).trans (flagged _ _)) (.writeWing _ s))

/-! ### The report, taken (R48, R56 to R59) -/

/-- The state in which the search begins: a sender without an entry is noted (R59). -/
def strangerNoted (n : NodeRef) (home : Option RoomId) (s : State) : State := if home = none then noteStranger n s else s

/-- The work of the actions found, in their order (R50). -/
def delivered (rep : LineReport) (home : Option RoomId) (found : List Rule) (s : State) : State :=
  found.foldl (fun u x => deliver rep home x u) s

/-- The report is mirrored last when it is to be (R57). -/
def mirroredIf (mirrors : Bool) (rep : LineReport) (s : State) : State :=
  if mirrors then offerTx { kind := .mirror, tag := 0, payload :=
    [byteOf rep.ref.line.val, byteOf rep.ref.addr.val, 1, 3, byteOf (reportByte rep.code)] ++ bytes2 rep.value } s else s

theorem strangerNoted_actions (n : NodeRef) (home : Option RoomId) (s : State) : ActionWork s (strangerNoted n home s) :=
  .ite (noteStranger_actions n s) (.refl s)

theorem delivered_actions (rep : LineReport) (home : Option RoomId) (found : List Rule) (s : State) :
    ActionWork s (delivered rep home found s) := ActionWork.forEach (deliver_actions rep home) found s

theorem mirroredIf_actions (mirrors : Bool) (rep : LineReport) (s : State) : ActionWork s (mirroredIf mirrors rep s) :=
  .ite (.of_work (offerTx_work _ s)) (.refl s)

/-- CL's part, step after step; the rules and the mirror setting are those of the state in which the report comes. -/
theorem classify_eq (rep : LineReport) (s : State) :
    classify rep s =
      let home := (s.entry rep.ref).map NodeEntry.room
      let found := search rep s.cl.rules.toList
      mirroredIf (mirrored found s.ap.mirrorUnclassified) rep (delivered rep home found (strangerNoted rep.ref home s)) := by
  have noted := (strangerNoted_actions rep.ref ((s.entry rep.ref).map NodeEntry.room) s).settings
  have rules := noted.rules
  have mirror := (noted.trans (delivered_actions rep ((s.entry rep.ref).map NodeEntry.room)
    (search rep s.cl.rules.toList) _).settings).tables.2.2
  simp only [strangerNoted, delivered] at rules mirror
  simp only [classify, forEach, strangerNoted, delivered, mirroredIf, Option.isNone_iff_eq_none]
  rw [rules]
  simp only [mirror]
  rfl

theorem classify_actions (rep : LineReport) (s : State) : ActionWork s (classify rep s) := by
  rw [classify_eq]
  exact (strangerNoted_actions _ _ s).trans ((delivered_actions _ _ _ _).trans (mirroredIf_actions _ _ _))

end Sys2Proof.Machine
end

section
/-!
PROOFS. A frame is heard (R20, R32, R37): its line counts it and is UP, its sender is ONLINE, and a line that comes UP leaves the
other nodes SUSPECT and writes LINE UP.
-/

namespace Sys2Proof.Machine

/-- The line has counted a valid frame (R20). -/
def counted (l : LineId) (s : State) : State :=
  onLine l (fun x => { x with timeouts := 0, counts := { x.counts with validFrames := x.counts.validFrames + 1 } }) s

/-- The nodes of the line of `n` but for `n` itself. -/
def State.others (s : State) (n : NodeRef) : List NodeRef := (s.nodesOn n.line).filter fun m => m.addr != n.addr

/-- The line UP and its nodes' health as R37 has it, `ms` the nodes that become SUSPECT; LINE UP is not written yet. -/
def opened (n : NodeRef) (ms : List NodeRef) (s : State) : State :=
  forEach ms (fun m t => setHealth m .suspect false t)
    (setHealth n .online false (onLine n.line (fun x => { x with down := false }) s))

/-- The state of a frame heard, before AP examines (R136). -/
def sounded (n : NodeRef) (s : State) : State :=
  if (s.line n.line).down then writeWing (.lineUp n.line) (opened n ((counted n.line s).others n) (counted n.line s))
  else setHealth n .online false (counted n.line s)

theorem mem_others_iff {s : State} {n m : NodeRef} :
    m ∈ s.others n ↔ m.line = n.line ∧ (s.entry m).isSome = true ∧ m ≠ n := by
  have addr (here : m.line = n.line) : m.addr ≠ n.addr ↔ m ≠ n := by
    cases m; cases n; cases here; simp
  rw [State.others, List.mem_filter, mem_nodesOn_iff]
  simp only [bne_iff_ne, and_assoc]
  exact and_congr_right fun here => and_congr_right fun _ => addr here

theorem counted_entry (l : LineId) (s : State) (m : NodeRef) : (counted l s).entry m = s.entry m := entry_onLine (by simp) m s

theorem writeWing_entry (k : WingKind) (s : State) (m : NodeRef) : (writeWing k s).entry m = s.entry m := by
  rw [State.entry, State.line, writeWing_lc]
  rfl

theorem writeWing_line (k : WingKind) (s : State) (l : LineId) : (writeWing k s).line l = s.line l := by
  rw [State.line, writeWing_lc]
  rfl

/-! ### The nodes -/

/-- A health change of several nodes, taken one after the other. -/
theorem forEach_setHealth_entry (h : Health) (b : Bool) (ms : List NodeRef) (m : NodeRef) (s : State) :
    (forEach ms (fun n t => setHealth n h b t) s).entry m =
      if m ∈ ms then (s.entry m).map fun e => { e with health := h, missed := b } else s.entry m := by
  induction ms generalizing s with
  | nil => rfl
  | cons n ms ih =>
    refine (ih (setHealth n h b s)).trans ?_
    by_cases same : m = n
    · subst same
      rw [entry_setHealth, if_pos List.mem_cons_self, Option.map_map]
      exact ite_self _
    · rw [entry_setHealth_ne same]
      simp only [List.mem_cons, same, false_or]

section
variable {n : NodeRef} {s : State}

theorem opened_entry_self {ms : List NodeRef} (apart : n ∉ ms) :
    (opened n ms s).entry n = (s.entry n).map fun e => { e with health := .online, missed := false } := by
  rw [opened, forEach_setHealth_entry, if_neg apart, entry_setHealth, entry_onLine (by simp)]

theorem opened_entry {ms : List NodeRef} {m : NodeRef} (other : m ≠ n) : (opened n ms s).entry m =
    if m ∈ ms then (s.entry m).map fun e => { e with health := .suspect, missed := false } else s.entry m := by
  rw [opened, forEach_setHealth_entry, entry_setHealth_ne other, entry_onLine (by simp)]

theorem sounded_entry_self :
    (sounded n s).entry n = (s.entry n).map fun e => { e with health := .online, missed := false } := by
  unfold sounded
  split
  · rw [writeWing_entry, opened_entry_self fun mem => (mem_others_iff.mp mem).2.2 rfl, counted_entry]
  · rw [entry_setHealth, counted_entry]

theorem sounded_entry {m : NodeRef} (here : m.line = n.line) (other : m ≠ n) : (sounded n s).entry m =
    if (s.line n.line).down then (s.entry m).map fun e => { e with health := .suspect, missed := false } else s.entry m := by
  unfold sounded
  split
  · rw [writeWing_entry, opened_entry other, counted_entry, ite_eq_left_iff]
    intro absent
    have none : s.entry m = none := by
      by_contra some
      refine absent (mem_others_iff.mpr ⟨here, ?_, other⟩)
      rwa [counted_entry, Option.isSome_iff_ne_none]
    rw [none, Option.map_none]
  · rw [entry_setHealth_ne other, counted_entry]

/-! ### The line -/

theorem line_setHealth_ne {k : LineId} {m : NodeRef} (other : k ≠ m.line) (h : Health) (b : Bool) (t : State) :
    (setHealth m h b t).line k = t.line k := line_onLine_ne other _ _

theorem opened_line_ne {ms : List NodeRef} (here : ∀ m ∈ ms, m.line = n.line) {k : LineId} (other : k ≠ n.line) :
    (opened n ms s).line k = s.line k := by
  have nodes (t : State) : (forEach ms (fun m t => setHealth m .suspect false t) t).line k = t.line k :=
    forEach_keeps_mem (fun t => t.line k) (fun m mem t => line_setHealth_ne (here m mem ▸ other) _ _ t) t
  rw [opened, nodes, line_setHealth_ne other, line_onLine_ne other]

theorem setHealth_frame (m : NodeRef) (h : Health) (b : Bool) (l : LineId) (nodes : Vector (Option NodeEntry) 32) (t : State) :
    { (setHealth m h b t).line l with nodes := nodes } = { t.line l with nodes := nodes } :=
  congrArg (fun x : Line => { x with nodes := nodes }) (line_setHealth m h b t l)

theorem opened_line (ms : List NodeRef) (nodes : Vector (Option NodeEntry) 32) :
    { (opened n ms s).line n.line with nodes := nodes } = { s.line n.line with down := false, nodes := nodes } := by
  rw [opened, forEach_keeps (fun t => ({ t.line n.line with nodes := nodes } : Line))
    (fun m t => setHealth_frame m .suspect false n.line nodes t), setHealth_frame, line_onLine]

theorem sounded_line_ne {k : LineId} (other : k ≠ n.line) : (sounded n s).line k = s.line k := by
  unfold sounded
  split
  · rw [writeWing_line, opened_line_ne (fun m mem => (mem_others_iff.mp mem).1) other, counted, line_onLine_ne other]
  · rw [line_setHealth_ne other, counted, line_onLine_ne other]

/-- The line of the sender, its node table apart: UP, the frame counted, no timeout in a row. -/
theorem sounded_line (nodes : Vector (Option NodeEntry) 32) :
    { (sounded n s).line n.line with nodes := nodes } =
      { s.line n.line with
        down := false, timeouts := 0, nodes := nodes
        counts := { (s.line n.line).counts with validFrames := (s.line n.line).counts.validFrames + 1 } } := by
  unfold sounded
  split
  · rw [writeWing_line, opened_line, counted, line_onLine]
  · rename_i up
    rw [setHealth_frame, counted, line_onLine]
    simp only [eq_false_of_ne_true up]

/-! ### The wing report queue and the settings -/

theorem opened_rest (ms : List NodeRef) : { opened n ms s with lc := s.lc } = s :=
  forEach_keeps (f := fun m t => setHealth m .suspect false t) (fun t => ({ t with lc := s.lc } : State)) (fun _ _ => rfl) ms _

theorem sounded_wing : (sounded n s).nu.wing = if (s.line n.line).down = false then s.nu.wing
    else if s.nu.wing.length < 16 then s.nu.wing ++ [{ kind := .lineUp n.line, stamp := s.tu.clock, overflow := false }]
    else markNewest s.nu.wing := by
  unfold sounded
  cases down : (s.line n.line).down with
  | false => rfl
  | true =>
    have rest := opened_rest (n := n) (s := counted n.line s) ((counted n.line s).others n)
    have nu := congrArg State.nu rest
    have tu := congrArg State.tu rest
    dsimp only at nu tu
    simp only [if_true, writeWing_wing, nu, tu, Bool.true_eq_false, if_false]
    rfl

theorem sounded_settings : KeepsSettings s (sounded n s) := by
  have counts : KeepsSettings s (counted n.line s) := .of_lines rfl
  unfold sounded
  split
  · exact counts.trans ((KeepsSettings.of_lines (opened_rest _)).trans (.writeWing _ _))
  · exact counts.trans (.of_lines rfl)

/-! ### AP examines the nodes that changed -/

/-- A sender that is ONLINE already has no change to be taken. -/
theorem setHealth_self {h : Health} {b : Bool} (same : (s.entry n).map (fun e => { e with health := h, missed := b }) = s.entry n) :
    setHealth n h b s = s := by
  unfold setHealth onEntry setEntry
  refine onLine_self ?_
  rw [same]
  simp [State.entry]

theorem hearNode_offers (n : NodeRef) (s : State) : OnlyOffers (setHealth n .online false s) (hearNode n s) := by
  unfold hearNode
  split
  · split
    · exact .refl _
    · exact examine_offers none n _
  · rename_i absent
    rw [setHealth_of_none absent]
    exact .refl s

theorem heardFrom_offers (n : NodeRef) (s : State) : OnlyOffers (sounded n s) (heardFrom n s) := by
  have entry := sounded_entry_self (n := n) (s := s)
  have hears := hearNode_offers n (validFrame n.line n.addr s)
  unfold sounded at entry ⊢
  split
  · rename_i down
    rw [if_pos down] at entry
    have up : validFrame n.line n.addr s = lineComesUp n.line n.addr (counted n.line s) := if_pos down
    have risen : OnlyOffers (writeWing (.lineUp n.line) (opened n ((counted n.line s).others n) (counted n.line s)))
        (lineComesUp n.line n.addr (counted n.line s)) :=
      (examine_offers none n _).trans (.forEach (examine_offers none) _ _)
    have same : setHealth n .online false (lineComesUp n.line n.addr (counted n.line s)) =
        lineComesUp n.line n.addr (counted n.line s) := by
      refine setHealth_self ?_
      rw [risen.only.entry, entry, Option.map_map]
      rfl
    rw [up, same] at hears
    rw [heardFrom, up]
    exact risen.trans hears
  · rename_i up
    have same : validFrame n.line n.addr s = counted n.line s := if_neg up
    rw [same] at hears
    rwa [heardFrom, same]

theorem heardFrom_settings : KeepsSettings s (heardFrom n s) :=
  sounded_settings.trans (.of_work (.of_only (heardFrom_offers n s).only))

end

/-! ### The report -/

section
variable {n : NodeRef} {code : ReportCode} {v : Half} {s : State}

/-- From the frame heard to the end of its event. -/
theorem takeReport_actions : ActionWork (sounded n s) (takeReport n code v s) :=
  (ActionWork.of_work (.of_only (heardFrom_offers n s).only)).trans
    ((classify_actions ⟨n, code, v⟩ _).trans (.of_work (endEvent_work _)))

theorem ActionWork.entry {u t : State} (h : ActionWork u t) (m : NodeRef) : t.entry m = u.entry m := by
  have nodes : (t.line m.line).nodes = (u.line m.line).nodes := have e := congrArg Line.nodes (h.lines m.line); e
  simp only [State.entry, nodes]

/-- The line of the sender once the actions have worked. -/
theorem ActionWork.line {t : State} (h : ActionWork (sounded n s) t) {x : Line} (line : t.line n.line = x) :
    x.counts.validFrames = (s.line n.line).counts.validFrames + 1 ∧ x.timeouts = 0 ∧ x.down = false ∧
      x.inFlight = (s.line n.line).inFlight ∧ x.suspended = (s.line n.line).suspended ∧
      x.follow = (s.line n.line).follow := by
  have heard := congrArg Line.frame (sounded_line (n := n) (s := s) (s.line n.line).nodes)
  have after := congrArg (fun y : Line => { y with nodes := (s.line n.line).nodes }) (h.lines n.line)
  have fields := after.trans heard
  rw [line] at fields
  simp only [Line.frame, Line.mk.injEq, LineCounts.mk.injEq] at fields
  simp only [fields, and_self]

/-- The home of the report is the room of the sender as the frame found it. -/
theorem heardFrom_home : ((heardFrom n s).entry n).map NodeEntry.room = (s.entry n).map NodeEntry.room := by
  rw [(heardFrom_offers n s).only.entry, sounded_entry_self, Option.map_map]
  rfl

/-- CL's part in the event, by the rules and the mirror setting of its beginning. -/
theorem takeReport_eq : takeReport n code v s =
    let home := (s.entry n).map NodeEntry.room
    let found := search ⟨n, code, v⟩ s.cl.rules.toList
    endEvent (mirroredIf (mirrored found s.ap.mirrorUnclassified) ⟨n, code, v⟩
      (delivered ⟨n, code, v⟩ home found (strangerNoted n home (heardFrom n s)))) := by
  have settings := heardFrom_settings (n := n) (s := s)
  rw [takeReport, classify_eq]
  dsimp only
  rw [heardFrom_home, settings.rules, settings.tables.2.2]

end

/-- What each action of a rule is handed to (R52 to R55). -/
theorem deliver_cases (rep : LineReport) (home : Option RoomId) (x : Rule) (u : State) :
    (x.action = .ignore → deliver rep home x u = u) ∧
      (∀ act r, x.action = .room act (.room r) → deliver rep home x u = roomAction act rep.ref rep.value r u) ∧
      (∀ act r, x.action = .room act .fromNode → home = some r → deliver rep home x u = roomAction act rep.ref rep.value r u) ∧
      (∀ act, x.action = .room act .fromNode → home = none → deliver rep home x u = u) ∧
      (∀ opens g, x.action = .partition opens g → deliver rep home x u = partitionAction opens g u) ∧
      (∀ sets i, x.action = .fault sets i → deliver rep home x u = claimFault i sets u) := by
  refine ⟨fun act => ?_, fun _ _ act => ?_, fun _ _ act room => ?_, fun _ act none => ?_, fun _ _ act => ?_, fun _ _ act => ?_⟩
  · simp only [deliver, act]
  · simp only [deliver, act, RoomTarget.resolve]
  · simp only [deliver, act, RoomTarget.resolve, room]
  · simp only [deliver, act, RoomTarget.resolve, none]
  · simp only [deliver, act]
  · simp only [deliver, act]

/-- Settles O17: the nodes and the line by `sounded`, the settings by `takeReport_actions`, CL's part by `takeReport_eq`. -/
theorem reportIsCountedAndItsNodeHeard : Obligations.ReportIsCountedAndItsNodeHeard := by
  intro l a code v s hears node
  have actions := takeReport_actions (n := ⟨l, a⟩) (code := code) (v := v) (s := s)
  obtain ⟨counts, timeouts, up, flight, suspended, follow⟩ := actions.line (x := (takeReport ⟨l, a⟩ code v s).line l) rfl
  obtain ⟨tu, rules, ti, ⟨scenes, rounding, mirror⟩, pins, mask, rooms, notices, sources⟩ :=
    (sounded_settings (n := ⟨l, a⟩) (s := s)).trans actions.settings
  refine ⟨_, (exec_report hears a code v).trans (by rw [if_neg node]), counts, timeouts, up, flight, suspended, follow,
    (actions.entry _).trans sounded_entry_self,
    fun b other => (actions.entry _).trans (sounded_entry rfl fun same => other (NodeRef.mk.inj same).2),
    fun k other => (actions.lines k).trans (by rw [sounded_line_ne other]), tu, rules, ti, scenes, rounding, mirror, pins, mask,
    fun r => ⟨(rooms r).1, (rooms r).2, notices r⟩, sources, takeReport_eq, ?_, deliver_cases ⟨⟨l, a⟩, code, v⟩ _⟩
  have wing : (heardFrom ⟨l, a⟩ s).nu.wing = (sounded ⟨l, a⟩ s).nu.wing := congrArg Nu.wing (heardFrom_offers ⟨l, a⟩ s).only.nu
  exact wing.trans sounded_wing

end Sys2Proof.Machine
end

section
/-!
PROOFS. Rooms that an event has composed (R122, R125, R132): what one recomposition, and several in any order, make of plans and
air modes, whatever is offered afterwards.
-/

namespace Sys2Proof.Machine

/-! ### The plan that composition makes -/

/-- What composition makes of the plan of a node with this entry (R122, R132). -/
def Plan.composed (p : Plan) (s : State) (e : NodeEntry) : Plan := p.take (compose s e.room e.role p)

theorem Plan.fields_of_kept {p q : Plan} (h : p.kept = q.kept) : p.target = q.target ∧ p.override = q.override := by
  simp only [Plan.kept, Plan.mk.injEq] at h
  exact ⟨h.1, h.2.2.2.1⟩

theorem Plan.composed_override (p : Plan) (s : State) (e : NodeEntry) : (p.composed s e).override = p.override :=
  p.take_override _

theorem Plan.kept_composed (p : Plan) (s : State) (e : NodeEntry) : (p.composed s e).kept = p.kept.composed s e := by
  have same : compose s e.room e.role p.kept = compose s e.room e.role p := compose_of_override rfl s _ _
  rw [Plan.composed, Plan.composed, same]
  cases compose s e.room e.role p <;> rfl

/-- A second composition finds its own target and leaves the plan (R132, R139). -/
theorem Plan.composed_composed (p : Plan) (s : State) (e : NodeEntry) : (p.composed s e).composed s e = p.composed s e := by
  have same : compose s e.room e.role (p.composed s e) = compose s e.room e.role p :=
    compose_of_override (p.composed_override s e) s _ _
  rw [Plan.composed, same, Plan.composed]
  cases compose s e.room e.role p with
  | none => rfl
  | some t => simp [Plan.take, Plan.sameValue]

theorem Plan.composed_congr {s t : State} (h : SameComposition s t) (p : Plan) (e : NodeEntry) :
    p.composed t e = p.composed s e := by
  rw [Plan.composed, h.compose, ← Plan.composed]

theorem view_of_off {s : State} {r : RoomId} (off : (s.room r).state = .off) : s.view r = none := by
  simp only [State.view, off]

/-- Composition gives an OFF room's nodes nothing (R122). -/
theorem Plan.composed_of_off {s : State} {e : NodeEntry} (off : (s.room e.room).state = .off) (p : Plan) :
    p.composed s e = p := by
  simp only [Plan.composed, compose, view_of_off off, Plan.take_none]

/-- The state air mode that composition gives, or the old one (R125). -/
def State.composedMode (s : State) (r : RoomId) : Option AirMode :=
  ((s.view r).bind View.airMode).orElse fun _ => (s.air r).mode

/-! ### The relation -/

/-- From `s` to `t` AP has composed the rooms that `P` names, and has offered: their nodes' plans and their air modes are those
composition makes, and all others keep theirs but for the deferred flag. -/
structure RoomsComposed (P : RoomId → Prop) (s t : State) : Prop where
  only : OnlyActuation s t
  composed : ∀ n e, s.entry n = some e → P e.room →
    (t.plan n).map Plan.kept = ((s.plan n).map Plan.kept).map (·.composed s e)
  spared : ∀ n, (∀ e, s.entry n = some e → ¬ P e.room) → (t.plan n).map Plan.kept = (s.plan n).map Plan.kept
  mode : ∀ r, P r → (t.air r).mode = s.composedMode r
  air : ∀ r, ¬ P r → (t.air r).mode = (s.air r).mode

namespace RoomsComposed

theorem of_offers {s t : State} (h : OnlyOffers s t) : RoomsComposed (fun _ => False) s t where
  only := h.only
  composed _ _ _ named := named.elim
  spared n _ := h.kept n
  mode _ named := named.elim
  air r _ := by rw [State.air, h.air, ← State.air]

theorem congr {P Q : RoomId → Prop} {s t : State} (h : RoomsComposed P s t) (same : ∀ r, P r ↔ Q r) : RoomsComposed Q s t :=
  (funext fun r => propext (same r) : P = Q) ▸ h

theorem trans {P Q : RoomId → Prop} {a b c : State} (h : RoomsComposed P a b) (k : RoomsComposed Q b c) :
    RoomsComposed (fun r => P r ∨ Q r) a c where
  only := h.only.trans k.only
  composed n e entry either := by
    have entry' : b.entry n = some e := (h.only.entry n).trans entry
    by_cases first : P e.room
    · have before := h.composed n e entry first
      by_cases second : Q e.room
      · rw [k.composed n e entry' second, before, Option.map_map]
        refine congrArg (Option.map · _) (funext fun p => ?_)
        rw [Function.comp_apply, Plan.composed_congr h.only.composition, Plan.composed_composed]
      · refine (k.spared n fun e' he => ?_).trans before
        rwa [Option.some.inj (he.symm.trans entry')]
    · have before := h.spared n fun e' he => by rwa [Option.some.inj (he.symm.trans entry)]
      rw [k.composed n e entry' (either.resolve_left first), before]
      exact congrArg (Option.map · _) (funext fun p => Plan.composed_congr h.only.composition p e)
  spared n neither :=
    (k.spared n fun e entry second => neither e ((h.only.entry n).symm.trans entry) (.inr second)).trans
      (h.spared n fun e entry first => neither e entry (.inl first))
  mode r either := by
    by_cases second : Q r
    · rw [k.mode r second, State.composedMode, h.only.composition.view]
      by_cases first : P r
      · rw [h.mode r first, State.composedMode]
        cases (a.view r).bind View.airMode <;> rfl
      · rw [h.air r first, State.composedMode]
    · exact (k.air r second).trans (h.mode r (either.resolve_right second))
  air r neither := (k.air r fun second => neither (.inr second)).trans (h.air r fun first => neither (.inl first))

/-- Offers that follow leave what composition has made. -/
theorem offers {P : RoomId → Prop} {a b c : State} (h : RoomsComposed P a b) (k : OnlyOffers b c) : RoomsComposed P a c :=
  (h.trans (of_offers k)).congr fun r => by rw [or_false]

theorem forEach {f : RoomId → State → State} (h : ∀ r s, RoomsComposed (· = r) s (f r s)) (rs : List RoomId) (s : State) :
    RoomsComposed (· ∈ rs) s (Machine.forEach rs f s) := by
  induction rs generalizing s with
  | nil => exact (of_offers (.refl s)).congr fun r => by simp
  | cons r rs ih => exact ((h r s).trans (ih (f r s))).congr fun q => by rw [List.mem_cons]

/-- A room that is OFF is composed without being touched. -/
theorem add_off {P Q : RoomId → Prop} {s t : State} (h : RoomsComposed P s t) (sub : ∀ r, P r → Q r)
    (off : ∀ r, Q r → ¬ P r → (s.room r).state = .off) : RoomsComposed Q s t where
  only := h.only
  composed n e entry named := by
    by_cases first : P e.room
    · exact h.composed n e entry first
    · rw [h.spared n fun e' he => by rwa [Option.some.inj (he.symm.trans entry)],
        funext (Plan.composed_of_off (off _ named first)), Option.map_id']
  spared n other := h.spared n fun e entry first => other e entry (sub _ first)
  mode r named := by
    by_cases first : P r
    · exact h.mode r first
    · rw [h.air r first, State.composedMode, view_of_off (off r named first)]; rfl
  air r other := h.air r fun first => other (sub r first)

variable {P : RoomId → Prop} {s t : State} (h : RoomsComposed P s t)
include h

/-- Composition keeps every node override (R130). -/
theorem overrides : KeepsOverrides s t := by
  intro n
  have forget (x : Option Plan) : x.map Plan.override = (x.map Plan.kept).map Plan.override := by
    rw [Option.map_map]; rfl
  rw [forget, forget (s.plan n)]
  by_cases named : ∃ e, s.entry n = some e ∧ P e.room
  · obtain ⟨e, entry, named⟩ := named
    rw [h.composed n e entry named, Option.map_map]
    exact congrArg (Option.map · _) (funext fun p => p.composed_override s e)
  · rw [h.spared n fun e entry room => named ⟨e, entry, room⟩]

theorem keepsPlansBut : KeepsPlansBut P s t := fun n e entry other =>
  h.spared n fun e' he => by rwa [Option.some.inj (he.symm.trans entry)]

theorem recomposed {r : RoomId} (named : P r) : Recomposed s t r where
  targets n e p entry room plan := by
    subst room
    have made := h.composed n e entry named
    rw [plan, Option.map_some, Option.map_some, ← Plan.kept_composed, Option.map_eq_some_iff] at made
    obtain ⟨q, plan', kept⟩ := made
    obtain ⟨target, override⟩ := Plan.fields_of_kept kept
    have same : compose t e.room e.role { p with override := q.override } = compose s e.room e.role p := by
      rw [h.only.composition.compose]
      exact compose_of_override (override.trans (p.composed_override s e)) s _ _
    exact ⟨q, plan', by rw [same, target, Plan.composed, Plan.take_target]⟩
  mode := by rw [h.mode r named, State.composedMode, h.only.composition.view]

end RoomsComposed

/-! ### Recompositions -/

theorem examineRoom_offers (r : RoomId) (s : State) : OnlyOffers s (examineRoom r s) :=
  have each (ns : List NodeRef) (u : State) : OnlyOffers u (forEach ns (examine (some r)) u) :=
    .forEach (fun n v => examine_offers (some r) n v) ns u
  (each _ s).trans (each _ _)

theorem composeRoom_composed (r : RoomId) (s : State) : RoomsComposed (· = r) s (composeRoom r s) where
  only := composeRoom_only r s
  composed n e entry room := by
    cases plan : s.plan n with
    | none =>
      have kept := (composeRoom_only r s).plans n
      rw [plan, Option.map_none, Option.map_eq_none_iff] at kept
      rw [kept]; rfl
    | some p =>
      rw [composeRoom_plan entry room plan, ← room, ← Plan.composed, Option.map_some, Plan.kept_composed]; rfl
  spared n other := by rw [composeRoom_plan_of_other other]
  mode q same := by rw [same, composeRoom_air, updateAirMode_air, State.composedMode]
  air q other := by rw [composeRoom_air, updateAirMode_air_ne other]

theorem recompose_composed (r : RoomId) (s : State) : RoomsComposed (· = r) s (recompose r s) := by
  by_cases off : (s.room r).state = .off
  · rw [recompose, if_pos off]
    exact (RoomsComposed.of_offers (.refl s)).add_off (fun _ named => named.elim) fun q same _ => by rw [same, off]
  · rw [recompose, if_neg off]
    exact (composeRoom_composed r s).offers (examineRoom_offers r _)

/-- Every room is composed, in whichever order the part draws (R120, R121; log 4). -/
theorem recomposeAll_composed (s : State) :
    RoomsComposed (fun _ => True) { s with choices := s.choices + 1 } (recomposeAll s) := by
  refine (RoomsComposed.forEach recompose_composed _ { s with choices := s.choices + 1 }).add_off (fun _ _ => trivial)
    fun r _ skipped => ?_
  have unloaded : ¬ (s.room r).loaded = true := fun loaded =>
    skipped (mem_freeOrder.mpr (List.mem_filter.mpr ⟨List.mem_finRange r, loaded⟩))
  show (s.room r).state = .off
  simpa [Room.loaded] using unloaded

/-- Recomposition may be told from an earlier state with the same nodes, targets and air modes. -/
theorem Recomposed.of_earlier {s v t : State} {r : RoomId} (h : Recomposed v t r) (entry : ∀ n, v.entry n = s.entry n)
    (target : ∀ n, (v.plan n).map Plan.target = (s.plan n).map Plan.target) (air : (v.air r).mode = (s.air r).mode) :
    Recomposed s t r where
  targets n e p entry' room plan := by
    have same := target n
    rw [plan, Option.map_some, Option.map_eq_some_iff] at same
    obtain ⟨p', plan', same⟩ := same
    obtain ⟨q, after, composed⟩ := h.targets n e p' ((entry n).trans entry') room plan'
    have alike : compose t r e.role { p' with override := q.override } = compose t r e.role { p with override := q.override } :=
      compose_of_override rfl t r e.role
    exact ⟨q, after, by rw [composed, alike, same]⟩
  mode := by rw [h.mode, air]

end Sys2Proof.Machine
end

section
/-!
PROOFS. The tables and settings of CL and AP (R46, R47, R120, R121): LOAD RULE, DROP RULE, LOAD SCENE and LOAD WING.
-/

namespace Sys2Proof.Machine

theorem loadRule_ok {ps : List Byte} {i : Fin 128} {x : Rule} (parsed : ruleLoad ps = .ok (i, x)) (s : State) :
    loadRule ps s = .ok (setRule i (some x) s, []) := by
  simp [loadRule, parsed, bind, Except.bind, pure, Except.pure]

theorem loadScene_ok {ps : List Byte} {n : SceneNum} {x : Scene} (parsed : sceneOf ps = .ok (n, x)) (s : State) :
    loadScene ps s = .ok (loadSceneWork n x s, []) := by
  simp [loadScene, parsed, bind, Except.bind, pure, Except.pure]

theorem loadWing_ok {ps : List Byte} {rounding : Rounding} {mirror : Bool} (parsed : wingOf ps = .ok (rounding, mirror))
    (s : State) : loadWing ps s = .ok (loadWingWork rounding mirror s, []) := by
  simp [loadWing, parsed, bind, Except.bind, pure, Except.pure]

/-- Every room composed after a change of what composition reads, to the end of the event. -/
theorem recomposeAll_ends {s : State} (settled : s.Settled) :
    RoomsComposed (fun _ => True) { s with choices := s.choices + 1 } (endEvent (recomposeAll s)) := by
  have composed := recomposeAll_composed s
  exact composed.offers (endEvent_offers ((congrArg Nu.due composed.only.nu).trans settled))

/-- Settles O23: LOAD RULE by its answer, LOAD SCENE and LOAD WING by `recomposeAll_ends`. -/
theorem tablesAndSettingsAreWritten : Obligations.TablesAndSettingsAreWritten := by
  refine ⟨fun s tag ps i x takes parsed => request_done rfl takes (loadRule_ok parsed _),
    fun s tag ps n x takes parsed settled => ?_, ?_⟩
  · have composed := recomposeAll_ends
      (s := { dropFrame s with ap := { s.ap with scenes := put s.ap.scenes n (some x) } }) settled
    refine ⟨_, request_done rfl takes (loadScene_ok parsed _), composed.only, composed.overrides, fun r => ?_⟩
    exact (composed.recomposed trivial).of_earlier (fun _ => rfl) (fun _ => rfl) rfl
  · intro s tag ps rounding mirror takes parsed settled v
    have done := request_done (c := .loadWing) rfl takes (loadWing_ok parsed _)
    refine ⟨fun same => ?_, fun other => ?_⟩
    · rwa [loadWingWork, if_pos (show rounding = (dropFrame s).ap.rounding from same)] at done
    rw [loadWingWork, if_neg (show rounding ≠ (dropFrame s).ap.rounding from other)] at done
    have composed := recomposeAll_ends (s := v) settled
    exact ⟨_, done, composed.only, composed.overrides,
      fun r => (composed.recomposed trivial).of_earlier (fun _ => rfl) (fun _ => rfl) rfl⟩

theorem dropRule_error {ps : List Byte} {r : ResultCode} (refused : oneByte 128 ps = .error r) (s : State) :
    dropRule ps s = .error r := by
  simp [dropRule, refused, bind, Except.bind]

theorem dropRule_empty {ps : List Byte} {i : Fin 128} {s : State} (parsed : oneByte 128 ps = .ok i)
    (empty : look s.cl.rules i = none) : dropRule ps s = .error .unknown := by
  simp [dropRule, parsed, empty, refuseWhen, bind, Except.bind]

theorem dropRule_ok {ps : List Byte} {i : Fin 128} {x : Rule} {s : State} (parsed : oneByte 128 ps = .ok i)
    (held : look s.cl.rules i = some x) : dropRule ps s = .ok (setRule i none s, []) := by
  simp [dropRule, parsed, held, refuseWhen, bind, Except.bind, pure, Except.pure]

/-- Settles O24: the three refusals in the order of the tests, and the place emptied. -/
theorem dropRuleEmptiesOnePlace : Obligations.DropRuleEmptiesOnePlace := by
  refine fun s tag ps takes => ⟨fun length => ?_, fun b parameters large => ?_, fun b i parameters index empty => ?_,
    fun b i x parameters index held => ?_⟩
  · exact request_error rfl takes (dropRule_error (oneByte_of_length length) _)
  · subst parameters
    exact request_error rfl takes (dropRule_error (oneByte_of_large large) _)
  · subst parameters
    exact request_error rfl takes (dropRule_empty (oneByte_of_toNat index) empty)
  · subst parameters
    exact request_done rfl takes (dropRule_ok (oneByte_of_toNat index) held)

end Sys2Proof.Machine
end

section
/-!
PROOFS. The classifier's tests and its search (R49, R50, R57, R58).
-/

namespace Sys2Proof.Machine

/-! ### The four tests (R49) -/

theorem anyOr_iff {α : Type} [DecidableEq α] {field : Option α} {x : α} :
    anyOr field x = true ↔ field = none ∨ field = some x := by
  cases field <;> simp [anyOr]

/-- A word is not 0 when one of its bits is set. -/
theorem bne_zero_iff_bit {w : Nat} {x : BitVec w} : (x != 0) = true ↔ ∃ i, i < w ∧ x.getLsbD i = true := by
  rw [bne_iff_ne, ne_eq, BitVec.eq_of_getLsbD_eq_iff, not_forall]
  simp

/-- The bits that a rule's mask leaves of a value are those that differ from the reference (R49). -/
theorem maskedBit_iff (x : Rule) (v : Half) (i : Nat) :
    ((v ^^^ x.reference) &&& x.mask).getLsbD i = true ↔
      x.mask.getLsbD i = true ∧ v.getLsbD i ≠ x.reference.getLsbD i := by
  rw [BitVec.getLsbD_and, BitVec.getLsbD_xor, Bool.and_eq_true, bne_iff_ne, and_comm]

theorem valueTest_iff (x : Rule) (v : Half) :
    x.valueTest v = true ↔
      (x.whenDifferent = true ↔ ∃ i, i < 16 ∧ x.mask.getLsbD i = true ∧ v.getLsbD i ≠ x.reference.getLsbD i) := by
  have bits : (((v ^^^ x.reference) &&& x.mask) != 0) = true ↔
      ∃ i, i < 16 ∧ x.mask.getLsbD i = true ∧ v.getLsbD i ≠ x.reference.getLsbD i :=
    bne_zero_iff_bit.trans (exists_congr fun i => and_congr_right fun _ => maskedBit_iff x v i)
  rw [Rule.valueTest, beq_iff_eq, Bool.eq_iff_iff, bits]
  exact iff_comm

theorem hits_iff (x : Rule) (rep : LineReport) :
    x.hits rep = true ↔
      (x.line = none ∨ x.line = some rep.ref.line) ∧ (x.node = none ∨ x.node = some rep.ref.addr) ∧
        (x.code = none ∨ x.code = some rep.code) ∧ x.valueTest rep.value = true := by
  rw [Rule.hits, Bool.and_eq_true, Bool.and_eq_true, Bool.and_eq_true, anyOr_iff, anyOr_iff, anyOr_iff, and_assoc, and_assoc]

/-! ### The examples of R49 -/

theorem valueTest_of_no_mask {x : Rule} (mask : x.mask = 0) (v : Half) :
    x.valueTest v = true ↔ x.whenDifferent = false := by
  have nothing : ¬ ∃ i, i < 16 ∧ x.mask.getLsbD i = true ∧ v.getLsbD i ≠ x.reference.getLsbD i := by
    rintro ⟨i, -, bit, -⟩
    simp [mask] at bit
  rw [valueTest_iff, iff_false_right nothing, Bool.not_eq_true]

theorem valueTest_of_full_mask {x : Rule} (mask : x.mask = 0xFFFF) (equal : x.whenDifferent = false) (v : Half) :
    x.valueTest v = true ↔ v = x.reference := by
  have all : x.mask = BitVec.allOnes 16 := mask
  rw [Rule.valueTest, all, BitVec.and_allOnes, equal, beq_false, Bool.not_eq_true', bne_eq_false_iff_eq]
  exact BitVec.xor_eq_zero_iff

/-- The mask of the nine upper bits. -/
theorem bit_of_upper_mask {i : Nat} (low : i < 16) : (0xFF80#16).getLsbD i = true ↔ 7 ≤ i := by
  have all : ∀ j : Fin 16, (0xFF80#16).getLsbD j.val = true ↔ 7 ≤ j.val := by decide
  exact all ⟨i, low⟩

theorem exists_upper_bit_iff (v : Half) : (∃ i, i < 16 ∧ 7 ≤ i ∧ v.getLsbD i = true) ↔ 128 ≤ v.toNat := by
  constructor
  · rintro ⟨i, -, upper, bit⟩
    calc 128 = 2 ^ 7 := rfl
      _ ≤ 2 ^ i := Nat.pow_le_pow_right (by omega) upper
      _ ≤ v.toNat := Nat.ge_two_pow_of_testBit bit
  · intro large
    obtain ⟨i, upper, bit⟩ := Nat.exists_ge_and_testBit_of_ge_two_pow (n := 7) large
    exact ⟨i, BitVec.lt_of_getLsbD bit, upper, bit⟩

theorem valueTest_of_upper_mask {x : Rule} (mask : x.mask = 0xFF80) (reference : x.reference = 0)
    (different : x.whenDifferent = true) (v : Half) : x.valueTest v = true ↔ 128 ≤ v.toNat := by
  rw [valueTest_iff, iff_true_left different, ← exists_upper_bit_iff]
  refine exists_congr fun i => and_congr_right fun low => and_congr ?_ ?_
  · rw [mask]; exact bit_of_upper_mask low
  · simp [reference]

/-- Settles O25: the tests by `hits_iff` and `valueTest_iff`; the search passes an empty place over. -/
theorem ruleHitsByItsFourTests : Obligations.RuleHitsByItsFourTests :=
  ⟨fun x rep => ⟨(hits_iff x rep).trans (by rw [valueTest_iff]), fun mask => valueTest_of_no_mask mask rep.value,
    fun mask equal => valueTest_of_full_mask mask equal rep.value,
    fun mask reference different => valueTest_of_upper_mask mask reference different rep.value⟩, fun _ _ => rfl⟩

/-! ### The search (R50) -/

/-- The rules of a table that hit a report, in ascending index. -/
def hitsOf (rep : LineReport) (table : List (Option Rule)) : List Rule := (table.filterMap id).filter (·.hits rep)

theorem hitsOf_cons_hit {rep : LineReport} {x : Rule} (hit : x.hits rep = true) (rest : List (Option Rule)) :
    hitsOf rep (some x :: rest) = x :: hitsOf rep rest := by
  simp [hitsOf, hit]

theorem hitsOf_cons_miss {rep : LineReport} {x : Rule} (miss : ¬ x.hits rep = true) (rest : List (Option Rule)) :
    hitsOf rep (some x :: rest) = hitsOf rep rest := by
  simp [hitsOf, miss]

/-- The hits up to and with the first that does not continue (R50). -/
def uptoFinal : List Rule → List Rule
  | [] => []
  | x :: rest => if x.goesOn then x :: uptoFinal rest else [x]

theorem search_eq (rep : LineReport) (table : List (Option Rule)) : search rep table = uptoFinal (hitsOf rep table) := by
  induction table with
  | nil => rfl
  | cons place rest ih =>
    cases place with
    | none => exact ih
    | some x =>
      by_cases hit : x.hits rep = true
      · rw [hitsOf_cons_hit hit, search, if_pos hit, uptoFinal, ih]
      · rw [hitsOf_cons_miss hit, search, if_neg hit, ih]

theorem uptoFinal_prefix (hits : List Rule) : uptoFinal hits <+: hits := by
  induction hits with
  | nil => exact List.prefix_rfl
  | cons x rest ih =>
    unfold uptoFinal
    split
    · exact (List.prefix_cons_inj x).mpr ih
    · exact List.prefix_append [x] rest

theorem uptoFinal_eq_nil_iff {hits : List Rule} : uptoFinal hits = [] ↔ hits = [] := by
  cases hits with
  | nil => exact Iff.rfl
  | cons x rest => unfold uptoFinal; split <;> simp

theorem uptoFinal_goesOn (hits : List Rule) : ∀ x ∈ (uptoFinal hits).dropLast, x.goesOn = true := by
  induction hits with
  | nil => intro x mem; cases mem
  | cons y rest ih =>
    unfold uptoFinal
    split
    · rename_i on
      intro x mem
      cases more : uptoFinal rest with
      | nil => rw [more] at mem; cases mem
      | cons z zs =>
        rw [more, List.dropLast_cons_of_ne_nil (List.cons_ne_nil z zs), ← more, List.mem_cons] at mem
        exact mem.elim (fun same => same ▸ on) (ih x)
    · intro x mem; cases mem

theorem uptoFinal_ends (hits : List Rule) :
    uptoFinal hits = hits ∨ ∃ x, (uptoFinal hits).getLast? = some x ∧ x.goesOn = false := by
  induction hits with
  | nil => exact .inl rfl
  | cons y rest ih =>
    unfold uptoFinal
    split
    · refine ih.imp (congrArg (y :: ·)) ?_
      rintro ⟨x, last, final⟩
      exact ⟨x, by rw [List.getLast?_cons, last]; rfl, final⟩
    · rename_i final
      exact .inr ⟨y, rfl, Bool.not_eq_true _ ▸ final⟩

/-- A classified report is mirrored when one of its hits says so (R57). -/
theorem mirrored_iff {found : List Rule} (classified : found ≠ []) (unclassified : Bool) :
    mirrored found unclassified = true ↔ ∃ x ∈ found, x.mirror = true := by
  cases found with
  | nil => exact absurd rfl classified
  | cons x rest => exact List.any_eq_true

/-- Settles O26: the search is `uptoFinal` of the hits. -/
theorem searchEndsAtTheFirstFinalHit : Obligations.SearchEndsAtTheFirstFinalHit := by
  intro rep table unclassified hits found
  have eq : found = uptoFinal hits := search_eq rep table
  rw [eq]
  exact ⟨uptoFinal_prefix hits, uptoFinal_goesOn hits, uptoFinal_ends hits, uptoFinal_eq_nil_iff,
    fun empty => by rw [empty]; rfl, fun classified => mirrored_iff classified unclassified⟩

end Sys2Proof.Machine
end

section
/-!
PROOFS. Override scenes (R53, R128, R129, R132): what a new override scene does to a room, and ROOM SCENE and the panel actions as
its uses.
-/

namespace Sys2Proof.Machine

/-! ### The room and its node overrides, changed (R128, R130) -/

theorem clearOverrides_target (p : Family → Bool) (r : RoomId) (n : NodeRef) (s : State) :
    ((clearOverrides p r s).plan n).map Plan.target = (s.plan n).map Plan.target := by
  refine forEach_keeps (fun u => (u.plan n).map Plan.target) (fun m t => ?_) _ s
  unfold clearOverride
  split
  · by_cases same : n = m
    · rw [same, plan_onPlan, Option.map_map]; rfl
    · rw [plan_onPlan_ne same]
  · rfl

theorem clearOverrides_air (p : Family → Bool) (r : RoomId) (s : State) : (clearOverrides p r s).ap.air = s.ap.air :=
  forEach_keeps (fun u => u.ap.air) (fun m t => by unfold clearOverride; split <;> rfl) _ s

/-- The state in which a room has its override scene, before AP composes it; a scene clears the room's node overrides, and no
scene leaves them (R128, R129). -/
def overridden (r : RoomId) (n : Option SceneNum) (s : State) : State :=
  let t := onRoom r (fun x => { x with overrideScene := n }) s
  if n = none then t else clearOverrides (fun _ => true) r t

section
variable (r : RoomId) (n : Option SceneNum) (s : State)

theorem overridden_only : OnlyActuation (onRoom r (fun x => { x with overrideScene := n }) s) (overridden r n s) := by
  unfold overridden
  dsimp only
  split
  · exact .refl _
  · exact clearOverrides_only _ r _

theorem overridden_entry (m : NodeRef) : (overridden r n s).entry m = s.entry m := (overridden_only r n s).entry m

theorem overridden_target (m : NodeRef) : ((overridden r n s).plan m).map Plan.target = (s.plan m).map Plan.target := by
  unfold overridden
  dsimp only
  split
  · rfl
  · exact clearOverrides_target _ r m _

theorem overridden_air (q : RoomId) : (overridden r n s).air q = s.air q := by
  have same : (overridden r n s).ap.air = s.ap.air := by
    unfold overridden
    dsimp only
    split
    · rfl
    · exact clearOverrides_air _ r _
  rw [State.air, same, ← State.air]

theorem overridden_spares : KeepsPlansBut (· = r) s (overridden r n s) := by
  intro m e entry other
  unfold overridden
  dsimp only
  split
  · rfl
  · refine congrArg (Option.map Plan.kept) (clearOverrides_spares _ r m (onRoom r _ s) fun e' entry' => ?_)
    rwa [Option.some.inj (entry'.symm.trans entry)]

variable {n}

theorem overridden_noOverrides (scene : n ≠ none) : (overridden r n s).NoOverrides r := by
  unfold overridden
  rw [if_neg scene]
  exact clearOverrides_noOverrides r _

end

/-! ### The room composed, to the end of the event (R132) -/

/-- What a change of a room's override scene does: with a scene the room has no node override, with none every node keeps its
own; the room is composed, and other nodes are offered at most. -/
structure OverrideTaken (r : RoomId) (n : Option SceneNum) (s t : State) : Prop where
  only : OnlyActuation (onRoom r (fun x => { x with overrideScene := n }) s) t
  cleared : n ≠ none → ∀ m e q, s.entry m = some e → e.room = r → e.role.family ≠ none → t.plan m = some q →
    q.override = none
  kept : n = none → KeepsOverrides s t
  spared : KeepsPlansBut (· = r) s t
  recomposed : Recomposed s t r

theorem overrideTaken (r : RoomId) (n : Option SceneNum) {s : State} (settled : s.Settled) :
    OverrideTaken r n s (endEvent (recompose r (overridden r n s))) := by
  have before := overridden_only r n s
  have due : (recompose r (overridden r n s)).Settled :=
    (congrArg Nu.due ((recompose_only r _).nu.trans before.nu)).trans settled
  have composed := (recompose_composed r (overridden r n s)).offers (endEvent_offers due)
  have entry (m : NodeRef) := (composed.only.entry m).trans (overridden_entry r n s m)
  refine ⟨before.trans composed.only, fun scene m e q here room actuator plan => ?_, fun cleared => ?_, ?_,
    (composed.recomposed rfl).of_earlier (overridden_entry r n s) (overridden_target r n s)
      (congrArg RoomAir.mode (overridden_air r n s r))⟩
  · exact (overridden_noOverrides r s scene).keeps composed.overrides composed.only.entry m e q ((entry m).trans here)
      room actuator plan
  · have same : KeepsOverrides s (overridden r n s) := by
      intro m
      rw [overridden, if_pos cleared]; rfl
    exact same.trans composed.overrides
  · intro m e here other
    exact (composed.keepsPlansBut m e ((overridden_entry r n s m).trans here) other).trans
      (overridden_spares r n s m e here other)

/-! ### ROOM SCENE and the panel actions (R128, R129) -/

theorem roomSceneWork_eq (r : RoomId) (n : Option SceneNum) (s : State) :
    roomSceneWork r n s = endEvent (recompose r (overridden r n s)) := by
  cases n <;> rfl

theorem roomScene_ok {ps : List Byte} {r : RoomId} {n : Option SceneNum} {s : State} (parsed : roomSceneOf ps = .ok (r, n))
    (loaded : ∀ k, n = some k → s.loadedScene k ≠ none) (on : (s.room r).state ≠ .off) (own : (s.room r).state ≠ .joined) :
    roomScene ps s = .ok (roomSceneWork r n s, []) := by
  have place : (n.any fun k => (s.loadedScene k).isNone) = false := by
    cases n with
    | none => rfl
    | some k => exact Option.isNone_eq_false_iff.mpr (Option.isSome_iff_ne_none.mpr (loaded k rfl))
  simp [roomScene, parsed, place, on, own, refuseWhen, bind, Except.bind, pure, Except.pure]

/-- A panel action chooses scene `n`, or none (R53, R128): PANEL OFF scene 0, PANEL SCENE its fixed scene or the report's
value. -/
def PanelChooses (act : RoomAct) (v : Half) (n : Option SceneNum) : Prop :=
  (act = .panelOff ∧ n = some 0) ∨ (∃ k, act = .panelScene (some k) ∧ n = some k) ∨
    (act = .panelScene none ∧ n.map Fin.val = if v.toNat < 32 then some v.toNat else none)

/-- The room's part in a panel action that has chosen a scene or none (R128). -/
def panelIf (n : Option SceneNum) (r : RoomId) (s : State) : State :=
  match n with
  | some k => panel k r s
  | none => s

theorem roomAction_panel {r : RoomId} {node : NodeRef} {v : Half} {act : RoomAct} {n : Option SceneNum} {s : State}
    (loaded : (s.room r).state ≠ .off) (chosen : PanelChooses act v n) :
    roomAction act node v r s = endEvent (panelIf n r s) := by
  rw [roomAction, if_neg loaded]
  obtain ⟨rfl, rfl⟩ | ⟨k, rfl, rfl⟩ | ⟨rfl, value⟩ := chosen
  · rfl
  · rfl
  · rw [takeRoomAct]
    split at value
    · rename_i small
      obtain ⟨k, rfl, same⟩ := Option.map_eq_some_iff.mp value
      rw [dif_pos small]
      exact congrArg (fun k => endEvent (panel k r s)) (Fin.ext same.symm)
    · rename_i large
      rw [dif_neg large, Option.map_eq_none_iff.mp value]
      rfl

/-- No scene chosen, a JOINED room and an empty place each discard the action (R128). -/
theorem panelIf_discards {n : Option SceneNum} {r : RoomId} {s : State}
    (h : (s.room r).state = .joined ∨ n = none ∨ ∃ k, n = some k ∧ s.loadedScene k = none) : panelIf n r s = s := by
  cases n with
  | none => rfl
  | some k =>
    refine if_pos (h.imp_right fun missing => ?_)
    obtain unchosen | ⟨j, same, empty⟩ := missing
    · cases unchosen
    · rwa [Option.some.inj same]

theorem panelIf_takes {k : SceneNum} {r : RoomId} {s : State} (own : (s.room r).state ≠ .joined)
    (loaded : s.loadedScene k ≠ none) : panelIf (some k) r s = recompose r (overridden r (some k) s) :=
  if_neg (not_or.mpr ⟨own, loaded⟩)

/-- Settles O43: ROOM SCENE and the panel actions that are taken by `overrideTaken`; the others leave the event nothing to do. -/
theorem roomSceneSetsTheOverride : Obligations.RoomSceneSetsTheOverride := by
  refine ⟨fun s tag ps r n takes parsed scene on own settled => ?_,
    fun s r node v act n on settled handed freed chosen => ⟨fun discarded => ?_, fun k scene own held => ?_⟩⟩
  · have done := request_done (c := .roomScene) rfl takes (roomScene_ok (s := dropFrame s) parsed scene on own)
    rw [roomSceneWork_eq] at done
    have taken := overrideTaken r n (s := dropFrame s) settled
    exact ⟨_, done, taken.only, taken.cleared, taken.kept, taken.spared,
      taken.recomposed.of_earlier (fun _ => rfl) (fun _ => rfl) rfl⟩
  · rw [roomAction_panel on chosen, panelIf_discards discarded]
    exact endEvent_of_quiet handed freed settled
  · subst scene
    rw [roomAction_panel on chosen, panelIf_takes own held]
    have taken := overrideTaken r (some k) settled
    exact ⟨taken.only, taken.cleared (Option.some_ne_none k), taken.spared, taken.recomposed⟩

end Sys2Proof.Machine
end

section
/-!
PROOFS. Conditions, NOTICE frames and wing reports (R6, R59, R60, R174, R175, R184, R185).
-/

namespace Sys2Proof.Machine

/-! ### A condition (R174) -/

section
variable {c : Condition} {r : RoomId} {s : State} (loaded : (s.room r).state ≠ .off)
include loaded

/-- A notifiable condition of a room that is not pending makes it pending, lists it, and owes a NOTICE where its class is
enabled. -/
theorem raise_lists (notify : (s.notice r).notify.getLsbD c.code = true) (fresh : (s.notice r).pending = false) :
    (raise c r s).notice r = { s.notice r with conds := CondSet.add (s.notice r).conds c, pending := true } ∧
      (raise c r s).nu.pendingList = s.nu.pendingList ++ [r] ∧
      (raise c r s).nu.due = if s.enabled (s.notice r).cls then s.nu.due ++ [r] else s.nu.due := by
  have lists : (CondSet.holds (s.notice r).notify c && !(s.notice r).pending) = true := by
    rw [CondSet.holds, notify, fresh]; rfl
  simp only [raise, if_neg loaded, lists, if_true]
  refine ⟨?_, rfl, rfl⟩
  refine (notice_onNotice r (fun n => { n with pending := true })
    (onNotice r (fun n => { n with conds := CondSet.add n.conds c }) s)).trans ?_
  rw [notice_onNotice]

/-- In every other case the condition is accumulated, and that is all. -/
theorem raise_accumulates (rests : (s.notice r).notify.getLsbD c.code = false ∨ (s.notice r).pending = true) :
    (raise c r s).notice r = { s.notice r with conds := CondSet.add (s.notice r).conds c } ∧
      (raise c r s).nu.pendingList = s.nu.pendingList ∧ (raise c r s).nu.due = s.nu.due := by
  have stays : (CondSet.holds (s.notice r).notify c && !(s.notice r).pending) = false := by
    obtain silent | pending := rests
    · rw [CondSet.holds, silent]; rfl
    · rw [pending]; exact Bool.and_false _
  simp only [raise, if_neg loaded, stays, Bool.false_eq_true, if_false]
  exact ⟨notice_onNotice r _ s, rfl, rfl⟩

end

/-! ### The NOTICE frames of an event (R6, R175) -/

/-- TI with these NOTICE frames offered, in order: those that find 11 frames or fewer join the transmit queue, the others are
dropped and counted (R6). -/
def Ti.offered (t : Ti) (frames : List TxFrame) : Ti :=
  { t with
    tx := t.tx ++ frames.take (12 - t.tx.length)
    counts := { t.counts with
      noticesDropped := t.counts.noticesDropped + BitVec.ofNat 32 (frames.drop (12 - t.tx.length)).length } }

theorem offerTx_place {f : TxFrame} {s : State} (place : s.ti.tx.length ≤ 11) : offerTx f s = pushTx f s := if_pos place

theorem offerTx_dropped {f : TxFrame} {s : State} (notice : f.kind = .notice) (full : ¬ s.ti.tx.length ≤ 11) :
    offerTx f s = countTrunk (fun c => { c with noticesDropped := c.noticesDropped + 1 }) s := by
  rw [offerTx, if_neg full, notice]

theorem Ti.offered_nil (t : Ti) : t.offered [] = t := by
  simp [Ti.offered]

/-- A frame that finds a place joins the queue before those behind it. -/
theorem Ti.offered_cons_place {t : Ti} (place : t.tx.length ≤ 11) (f : TxFrame) (frames : List TxFrame) :
    t.offered (f :: frames) = ({ t with tx := t.tx ++ [f] } : Ti).offered frames := by
  have places : 12 - t.tx.length = (12 - (t.tx ++ [f]).length) + 1 := by
    rw [List.length_append, List.length_singleton]; omega
  rw [Ti.offered, Ti.offered, places, List.take_succ_cons, List.drop_succ_cons, List.append_assoc, List.singleton_append]

/-- A frame that finds none is counted, as are all behind it. -/
theorem Ti.offered_cons_dropped {t : Ti} (full : ¬ t.tx.length ≤ 11) (f : TxFrame) (frames : List TxFrame) :
    t.offered (f :: frames) =
      ({ t with counts := { t.counts with noticesDropped := t.counts.noticesDropped + 1 } } : Ti).offered frames := by
  have places : 12 - t.tx.length = 0 := by omega
  have counted (n : Nat) : BitVec.ofNat 32 (n + 1) = 1 + BitVec.ofNat 32 n := by
    rw [Nat.add_comm, BitVec.ofNat_add]; rfl
  simp only [Ti.offered, places, List.take_zero, List.drop_zero, List.length_cons, counted, BitVec.add_assoc]

/-- Offering a NOTICE for each of some rooms is TI's work alone, and no frame depends on it. -/
theorem forEach_offerTx_notices (rs : List RoomId) (s : State) :
    forEach rs (fun r t => offerTx (t.noticeFrame r) t) s = { s with ti := s.ti.offered (rs.map s.noticeFrame) } := by
  induction rs generalizing s with
  | nil => rw [List.map_nil, Ti.offered_nil]; rfl
  | cons r rs ih =>
    refine (ih (offerTx (s.noticeFrame r) s)).trans ?_
    rw [List.map_cons]
    by_cases place : s.ti.tx.length ≤ 11
    · rw [offerTx_place place, Ti.offered_cons_place place]; rfl
    · rw [offerTx_dropped rfl place, Ti.offered_cons_dropped place]; rfl

/-- The end of an event, as far as NU and TI go: the NOTICE frames owed are offered (R175; log 11). -/
theorem endEvent_notices (s : State) :
    (endEvent s).nu = { s.nu with due := [] } ∧ (endEvent s).ti = s.ti.offered (s.nu.due.map s.noticeFrame) := by
  have only := settle_only s
  have frames : (settle s).noticeFrame = s.noticeFrame := funext fun r => by
    simp only [State.noticeFrame, only.notice]
  rw [endEvent, buildNotices, forEach_offerTx_notices]
  refine ⟨by rw [only.nu], ?_⟩
  have built : ({ settle s with nu := { (settle s).nu with due := [] } } : State).noticeFrame = (settle s).noticeFrame := rfl
  rw [built, frames, only.nu, only.ti]

/-! ### READ WING REPORT (R60, R185) -/

theorem readWingReport_of_ne_nil {ps : List Byte} (s : State) (h : ps ≠ []) : readWingReport ps s = .error .format := by
  cases ps with
  | nil => exact absurd rfl h
  | cons b ps => rfl

theorem readWingReport_empty {s : State} (empty : s.nu.wing = []) : readWingReport [] s = .ok (s, [0]) := by
  simp [readWingReport, noBytes, empty, bind, Except.bind, pure, Except.pure]

theorem readWingReport_cons {s : State} {w : WingReport} {rest : List WingReport} (wing : s.nu.wing = w :: rest) :
    readWingReport [] s = .ok (forgetStranger w.kind { s with nu := { s.nu with wing := rest } }, 1 :: w.bytes) := by
  simp [readWingReport, noBytes, wing, bind, Except.bind, pure, Except.pure]

/-- Forgetting a stranger is the work of CL's flags alone. -/
theorem forgetStranger_rest (k : WingKind) (s : State) :
    { forgetStranger k s with cl := s.cl } = s ∧ (forgetStranger k s).cl.rules = s.cl.rules := by
  unfold forgetStranger
  split <;> exact ⟨rfl, rfl⟩

/-- A STRANGER entry that leaves clears its line's flag, and no other entry clears one (R60). -/
theorem forgetStranger_flag (k : WingKind) (l : LineId) (s : State) :
    look (forgetStranger k s).cl.strangers l = if ∃ n, k = .stranger l n then false else look s.cl.strangers l := by
  by_cases stranger : ∃ j n, k = .stranger j n
  · obtain ⟨j, n, rfl⟩ := stranger
    by_cases here : l = j
    · subst here
      rw [if_pos ⟨n, rfl⟩]
      exact look_put_same _ l false
    · rw [if_neg fun ⟨m, same⟩ => here (WingKind.stranger.inj same).1.symm]
      exact look_put_ne _ here false
  · rw [if_neg fun ⟨n, same⟩ => stranger ⟨l, n, same⟩]
    have untouched : forgetStranger k s = s := by
      unfold forgetStranger
      split
      · exact absurd ⟨_, _, rfl⟩ stranger
      · rfl
    rw [untouched]

/-! ### Wing reports and strangers (R59, R184) -/

theorem markNewest_append (older : List WingReport) (newest : WingReport) :
    markNewest (older ++ [newest]) = older ++ [{ newest with overflow := true }] := by
  induction older with
  | nil => rfl
  | cons w older ih =>
    cases older with
    | nil => rfl
    | cons v older => exact congrArg (w :: ·) ih

theorem writeWing_place {s : State} (place : s.nu.wing.length < 16) (k : WingKind) :
    writeWing k s = { s with nu := { s.nu with
      wing := s.nu.wing ++ [{ kind := k, stamp := s.tu.clock, overflow := false }] } } := if_pos place

theorem writeWing_full {s : State} (full : 16 ≤ s.nu.wing.length) (k : WingKind) :
    writeWing k s = { s with nu := { s.nu with wing := markNewest s.nu.wing } } := if_neg (Nat.not_lt.mpr full)

theorem noteStranger_known {n : NodeRef} {s : State} (known : look s.cl.strangers n.line = true) : noteStranger n s = s :=
  if_pos known

/-- A stranger of a line whose flag is clear is written, and sets the flag when its entry found a place (R59). -/
theorem noteStranger_new {n : NodeRef} {s : State} (new : look s.cl.strangers n.line = false) :
    noteStranger n s =
      let t := writeWing (.stranger n.line n.addr) s
      if s.nu.wing.length < 16 then { t with cl := { t.cl with strangers := put t.cl.strangers n.line true } } else t :=
  if_neg (Bool.not_eq_true _ ▸ new)

/-- Settles O51, part by part: a condition, the end of an event, READ WING REPORT, wing reports, and strangers. -/
theorem conditionsAndWingReportsAreKept : Obligations.ConditionsAndWingReportsAreKept := by
  refine ⟨fun c r s => ⟨fun off => if_pos off, fun loaded => ?_⟩, fun s => ?_, fun s tag ps takes =>
    ⟨fun parameters => ?_, fun parameters empty => ?_, fun w rest parameters wing => ?_⟩, fun k s => ?_, fun n s => ?_⟩
  · obtain ⟨mask, wing⟩ := (raise_work c r s).queue
    exact ⟨raise_rest c r s, fun q other => raise_notice_ne c other s, mask, wing, raise_lists loaded,
      raise_accumulates loaded⟩
  · obtain ⟨nu, ti⟩ := endEvent_notices s
    refine ⟨nu, (congrArg Ti.tx ti).trans ?_, (congrArg Ti.counts ti).trans ?_⟩
    · rw [Ti.offered, List.map_take]
    · rw [Ti.offered, ← List.map_drop, List.length_map]
  · exact request_error rfl takes (readWingReport_of_ne_nil _ parameters)
  · subst parameters
    exact request_done rfl takes (readWingReport_empty empty)
  · subst parameters
    refine ⟨_, request_done rfl takes (readWingReport_cons (s := dropFrame s) wing), ?_⟩
    obtain ⟨others, rules⟩ := forgetStranger_rest w.kind { dropFrame s with nu := { s.nu with wing := rest } }
    refine ⟨congrArg (fun u : State => { u with nu := s.nu }) others, ?_, rules, fun l => forgetStranger_flag w.kind l _⟩
    have nu := congrArg State.nu others
    exact nu
  · obtain ⟨others, queue, -⟩ := writeWing_rest k s
    refine ⟨others, ?_, ?_, fun place => ?_, fun full older newest held => ?_⟩
    · have rooms := congrArg Nu.rooms queue
      exact rooms
    · have listed := congrArg Nu.pendingList queue
      exact listed
    · rw [writeWing_place place]
    · rw [writeWing_full full, held, markNewest_append]
  · refine ⟨noteStranger_known, fun new place => ?_, fun new full => ?_⟩
    · rw [noteStranger_new new, if_pos place, writeWing_place place]
      exact ⟨rfl, rfl⟩
    · rw [noteStranger_new new, if_neg (Nat.not_lt.mpr full), writeWing_full full]
      exact ⟨rfl, rfl⟩

end Sys2Proof.Machine
end

section
/-!
PROOFS. The records of RE and of TU's rooms (R61, R102, R160): the work that leaves them as they are. Conditions, composition, the
lines, the fault sources and what TI sends are of this kind.
-/

namespace Sys2Proof.Machine

/-- The records of the rooms and suites: RE's, and TU's of each room. -/
def State.records (s : State) : Re × Vector RoomTime 48 := (s.re, s.tu.rooms)

theorem State.records_eq_iff {s t : State} : t.records = s.records ↔ t.re = s.re ∧ t.tu.rooms = s.tu.rooms :=
  Prod.mk_inj

theorem OnlyActuation.records {s t : State} (h : OnlyActuation s t) : t.records = s.records :=
  State.records_eq_iff.mpr ⟨h.re, congrArg Tu.rooms h.tu⟩

/-- Work of the room engine that leaves its own records leaves TU's too. -/
theorem RoomWork.records {s t : State} (h : RoomWork s t) (re : t.re = s.re) : t.records = s.records :=
  State.records_eq_iff.mpr ⟨re, congrArg Tu.rooms h.tu⟩

theorem forEach_records {α : Type} {f : α → State → State} (h : ∀ x s, (f x s).records = s.records) (xs : List α) (s : State) :
    (forEach xs f s).records = s.records := forEach_keeps State.records h xs s

theorem forEachFree_records {α : Type} {f : α → State → State} (h : ∀ x s, (f x s).records = s.records) (xs : List α)
    (s : State) : (forEachFree xs f s).records = s.records := forEachFree_keeps State.records (fun _ => rfl) h xs s

theorem ite_records {c : Prop} [Decidable c] {s a b : State} (h : a.records = s.records) (k : b.records = s.records) :
    (if c then a else b).records = s.records := by
  split
  · exact h
  · exact k

/-! ### Conditions, frames and composition -/

@[simp] theorem raise_records (c : Condition) (r : RoomId) (s : State) : (raise c r s).records = s.records :=
  (raise_work c r s).records (raise_re c r s)

@[simp] theorem offerTx_records (f : TxFrame) (s : State) : (offerTx f s).records = s.records :=
  have same := congrArg State.records (offerTx_rest f s); same

@[simp] theorem writeWing_records (k : WingKind) (s : State) : (writeWing k s).records = s.records :=
  have same := congrArg State.records (writeWing_rest k s).1; same

@[simp] theorem endEvent_records (s : State) : (endEvent s).records = s.records := (endEvent_work s).records (endEvent_re s)

@[simp] theorem examine_records (link : Option RoomId) (n : NodeRef) (s : State) : (examine link n s).records = s.records :=
  (examine_only link n s).records

@[simp] theorem recompose_records (r : RoomId) (s : State) : (recompose r s).records = s.records := (recompose_only r s).records

@[simp] theorem recomposeMembers_records (g : SuiteId) (s : State) : (recomposeMembers g s).records = s.records :=
  (recomposeMembers_only g s).records

@[simp] theorem recomposeAll_records (s : State) : (recomposeAll s).records = s.records :=
  forEachFree_records recompose_records _ s

@[simp] theorem clearOverrides_records (p : Family → Bool) (r : RoomId) (s : State) :
    (clearOverrides p r s).records = s.records := (clearOverrides_only p r s).records

@[simp] theorem dutyEdge_records (was : Bool) (r : RoomId) (s : State) : (dutyEdge was r s).records = s.records :=
  (dutyEdge_work was r s).records (dutyEdge_re was r s)

@[simp] theorem recomposeAfter_records (s0 : State) (r : RoomId) (s : State) : (recomposeAfter s0 r s).records = s.records :=
  (recomposeAfter_work s0 r s).records (recomposeAfter_re s0 r s)

theorem recomposePart_records (before : Option DutyPart) (r : RoomId) (s : State) :
    (recomposePart before r s).records = s.records := ite_records rfl (by simp)

theorem travelEnds_records (n : NodeRef) (s : State) : (travelEnds n s).records = s.records := by
  unfold travelEnds
  split
  · exact (endEvent_records _).trans (raise_records ..)
  · rfl

/-! ### Protection -/

theorem protectionChange_records (old : Pu) (r : RoomId) (s : State) : (protectionChange old r s).records = s.records := by
  unfold protectionChange
  refine ite_records rfl (ite_records rfl ((endEvent_records _).trans ?_))
  have composed : (recompose r (clearOverrides (enters old s.pu r) r (removeFamily (enters old s.pu r) r s))).records =
      s.records := by
    rw [recompose_records, clearOverrides_records, (removeFamily_only _ r s).records]
  have entered {c : Prop} [Decidable c] := ite_records (c := c) ((raise_records .protectionEntered r _).trans composed) composed
  exact ite_records ((raise_records ..).trans entered) entered

theorem sourceMoves_records (i : SourceId) (f : Source → Source) (k : WingKind) (s : State) :
    (sourceMoves i f k s).records = s.records :=
  (forEach_records (protectionChange_records _) _ _).trans (writeWing_records k (onSource i f s))

theorem testAssertion_records (i : SourceId) (s : State) : (testAssertion i s).records = s.records := by
  unfold testAssertion
  dsimp only
  split
  · exact sourceMoves_records i _ _ s
  · split
    · rfl
    · exact ite_records (sourceMoves_records i _ _ s) rfl
  · rfl
  · rfl
  · rfl

theorem claimFault_records (i : SourceId) (sets : Bool) (s : State) : (claimFault i sets s).records = s.records :=
  ite_records rfl (testAssertion_records i (onSource i (fun x => { x with classifierFlag := sets }) s))

theorem pinChanges_records (p : PinId) (low : Bool) (s : State) : (pinChanges p low s).records = s.records :=
  ite_records rfl (forEachFree_records testAssertion_records _ { s with pu := { s.pu with pins := put s.pu.pins p low } })

/-! ### The lines -/

theorem HealthWork.records {P : NodeRef → Prop} {s t : State} (h : HealthWork P s t) : t.records = s.records :=
  State.records_eq_iff.mpr ⟨h.re, congrArg Tu.rooms h.tu⟩

theorem noteStranger_records (n : NodeRef) (s : State) : (noteStranger n s).records = s.records := by
  unfold noteStranger
  have written := writeWing_records (.stranger n.line n.addr) s
  exact ite_records rfl (ite_records written written)

theorem hearNode_records (n : NodeRef) (s : State) : (hearNode n s).records = s.records := by
  unfold hearNode
  split
  · exact ite_records rfl (examine_records none n (setHealth n .online false s))
  · rfl

theorem validFrame_records (l : LineId) (sender : NodeAddr) (s : State) : (validFrame l sender s).records = s.records := by
  unfold validFrame
  refine ite_records ?_ rfl
  unfold lineComesUp
  refine (forEach_records (examine_records none) _ _).trans ((examine_records ..).trans ((writeWing_records ..).trans ?_))
  exact forEach_records (fun n t => (rfl : (setHealth n .suspect false t).records = t.records)) _ _

theorem heardFrom_records (n : NodeRef) (s : State) : (heardFrom n s).records = s.records :=
  (hearNode_records n _).trans (validFrame_records n.line n.addr s)

theorem takeArrived_records (n : NodeRef) (position : Byte) (s : State) : (takeArrived n position s).records = s.records := by
  refine Eq.trans ?_ (heardFrom_records n s)
  unfold takeArrived
  dsimp only
  split
  · refine (endEvent_records _).trans ?_
    unfold judgeArrival
    refine ite_records (ite_records rfl (raise_records ..)) (examine_records none n _)
  · exact endEvent_records _

theorem deliverPlan_records (n : NodeRef) (it : Item) (status current : Half) (s : State) :
    (deliverPlan n it status current s).records = s.records := by
  unfold deliverPlan
  split
  · refine (examine_records ..).trans ?_
    unfold compareStatus
    exact ite_records rfl (ite_records rfl (raise_records ..))
  · rfl

theorem deliverItem_records (n : NodeRef) (it : Item) (status current : Half) (s : State) :
    (deliverItem n it status current s).records = s.records := by
  have mirrored (t : State) : (mirrorEcho n it status current t).records = t.records := by
    unfold mirrorEcho
    split
    · exact offerTx_records _ t
    · rfl
  exact (mirrored _).trans (deliverPlan_records n it status current _)

theorem takeEcho_records (n : NodeRef) (status current : Half) (s : State) : (takeEcho n status current s).records = s.records := by
  refine Eq.trans ?_ (validFrame_records n.line n.addr s)
  have late (t : State) : (lateEcho n t).records = t.records := hearNode_records n _
  unfold takeEcho
  dsimp only
  split
  · exact ite_records ((endEvent_records _).trans (deliverItem_records n _ status current _))
      ((endEvent_records _).trans (late _))
  · exact (endEvent_records _).trans (late _)

theorem goOffline_records (n : NodeRef) (s : State) : (goOffline n s).records = s.records :=
  (HealthWork.goOffline (P := (· = n)) rfl s).records

theorem echoTimerEnds_records (l : LineId) (s : State) : (echoTimerEnds l s).records = s.records := by
  have missed (n : NodeRef) (t : State) : (missNode n t).records = t.records := by
    unfold missNode
    split
    · split
      · rfl
      · exact ite_records (goOffline_records n t) rfl
      · rfl
    · rfl
  have down (t : State) : (lineGoesDown l t).records = t.records := by
    unfold lineGoesDown
    refine (writeWing_records ..).trans ((forEach_records (fun n u => ite_records rfl (goOffline_records n u)) _ _).trans ?_)
    exact (removeItems_only ..).records
  unfold echoTimerEnds
  split
  · unfold timeOut
    have examined (n : NodeRef) (t : State) : (examine none n (onPlan n (fun p => { p with confirmed := false })
        (missNode n t))).records = t.records := (examine_records ..).trans (missed n t)
    exact (endEvent_records _).trans (ite_records ((down _).trans (examined ..)) (examined ..))
  · rfl

theorem admitPass_records (tag : Byte) (c : PassCommand) (s : State) : (admitPass tag c s).records = s.records := by
  have offered := (offer_only c.ref.line (c.item tag) s).records
  unfold admitPass
  refine ite_records ?_ ((endEvent_records _).trans offered)
  exact (endEvent_records _).trans ((examine_records ..).trans ((composeNode_only c.ref _).records.trans offered))

end Sys2Proof.Machine
end

section
/-!
PROOFS. The occupancy machines on the records (R65, R77 to R83, R160, R166 to R168): the room and suite records that a move of a
room's machine, of a suite's machine, or a change of presence leaves.
-/

namespace Sys2Proof.Machine

/-! ### One room's record -/

theorem put_put {n : Nat} {α : Type} (t : Vector α n) (i : Fin n) (x y : α) : put (put t i x) i y = put t i y :=
  Vector.set_set x i.isLt

theorem onRoom_re {s t : State} (r : RoomId) (f : Room → Room) (h : t.re = s.re) : (onRoom r f t).re = (onRoom r f s).re := by
  simp only [onRoom, State.room, h]

theorem onRoom_onRoom (r : RoomId) (f g : Room → Room) (s : State) :
    onRoom r g (onRoom r f s) = onRoom r (fun x => g (f x)) s := by
  simp [onRoom, State.room, put_put]

/-- An update that leaves the record changes nothing. -/
theorem onRoom_self {r : RoomId} {f : Room → Room} {s : State} (h : f (s.room r) = s.room r) : onRoom r f s = s := by
  have same : put s.re.rooms r (f (s.room r)) = s.re.rooms := by rw [h]; exact put_look _ r
  rw [onRoom, same]

/-- Work that leaves RE's records leaves the room and the suite of every place. -/
theorem room_of_re {s t : State} (h : t.re = s.re) (r : RoomId) : t.room r = s.room r := by simp only [State.room, h]

theorem suite_of_re {s t : State} (h : t.re = s.re) (g : SuiteId) : t.suite g = s.suite g := by simp only [State.suite, h]

theorem suitePresence_congr {s t : State} {g : SuiteId} (members : t.members g = s.members g)
    (same : ∀ r ∈ s.members g, (t.room r).presence = (s.room r).presence) : t.suitePresence g = s.suitePresence g := by
  rw [State.suitePresence, State.suitePresence, members, Bool.eq_iff_iff, List.any_eq_true, List.any_eq_true]
  exact exists_congr fun r => and_congr_right fun mem => by rw [same r mem]

theorem effectivePhase_congr {s t : State} {g : SuiteId} (members : t.members g = s.members g)
    (same : ∀ r ∈ s.members g, (t.room r).phase = (s.room r).phase) : t.effectivePhase g = s.effectivePhase g := by
  rw [State.effectivePhase, State.effectivePhase, members, List.map_congr_left same]

theorem members_of_suite {s : State} {g : SuiteId} {x : Suite} (h : s.suite g = some x) : s.members g = x.members := by
  rw [State.members, h]

theorem joinedSuite_of_run {s : State} {r : RoomId} {o : OccState} (own : (s.room r).state = .run o) :
    s.joinedSuite r = none := if_neg (by rw [own]; exact RoomState.noConfusion)

/-! ### The machine of a room (R77, R78, R82) -/

/-- A room's record after a move of its machine. -/
def Room.moved (f : OccState → OccState) (x : Room) : Room :=
  match x.state with
  | .run o =>
    if f o = o then x
    else
      let y := { x with state := .run (f o), linger := lingerAfter (f o) x.cfg.lingerTime }
      if f o = .vacant then { y with overrideScene := none, boost := false } else y
  | .off => x
  | .joined => x

section
variable {f : OccState → OccState} {x : Room} {o : OccState} (own : x.state = .run o)
include own

theorem Room.moved_of_stays (stays : f o = o) : x.moved f = x := by
  simp only [Room.moved, own, stays, if_true]

theorem Room.moved_of_moves (moves : f o ≠ o) : x.moved f =
    { x with
      state := .run (f o), linger := lingerAfter (f o) x.cfg.lingerTime
      overrideScene := if f o = .vacant then none else x.overrideScene
      boost := if f o = .vacant then false else x.boost } := by
  simp only [Room.moved, own, if_neg moves]
  split <;> rfl

/-- A move to another state than VACANT concerns the state and the linger timer alone. -/
theorem Room.moved_of_ne_vacant (moves : f o ≠ o) (ne : f o ≠ .vacant) : x.moved f =
    { x with state := .run (f o), linger := lingerAfter (f o) x.cfg.lingerTime } := by
  rw [Room.moved_of_moves own moves, if_neg ne, if_neg ne]

theorem Room.moved_state : (x.moved f).state = .run (f o) := by
  by_cases stays : f o = o
  · rw [Room.moved_of_stays own stays, own, stays]
  · rw [Room.moved_of_moves own stays]

end

/-- What a room's own machine never touches. -/
theorem Room.moved_keeps (f : OccState → OccState) (x : Room) : x.moved f =
    { x with state := (x.moved f).state, linger := (x.moved f).linger, overrideScene := (x.moved f).overrideScene
             boost := (x.moved f).boost } := by
  unfold Room.moved
  split
  · split
    · rfl
    · dsimp only
      split <;> rfl
  · rfl
  · rfl

theorem moveRoom_re (r : RoomId) (f : OccState → OccState) (s : State) :
    (moveRoom r f s).re = (onRoom r (Room.moved f) s).re := by
  have room : (moveRoom r f s).room r = (s.room r).moved f := by
    cases state : (s.room r).state with
    | run o =>
      rw [moveRoom_room r f s state]
      simp only [Room.moved, state]
    | off => simp only [moveRoom, Room.moved, state]
    | joined => simp only [moveRoom, Room.moved, state]
  have suites : (moveRoom r f s).re.suites = s.re.suites := by
    refine Vector.ext fun k low => ?_
    have same := moveRoom_suite r f ⟨k, low⟩ s
    exact same
  have rooms : (moveRoom r f s).re.rooms = put s.re.rooms r ((s.room r).moved f) := by
    refine Vector.ext fun k low => ?_
    have same : look (moveRoom r f s).re.rooms ⟨k, low⟩ = look (put s.re.rooms r ((s.room r).moved f)) ⟨k, low⟩ := by
      rw [look_put]
      split
      · rename_i here
        rw [← room, ← here]; rfl
      · rename_i other
        exact moveRoom_room_ne r f other s
    exact same
  exact congrArg₂ Re.mk rooms suites

/-! ### The machine of a suite (R166 to R168) -/

/-- A suite's record after a move of its machine; `length` is the lead's linger time. -/
def Suite.moved (f : OccState → OccState) (length : Nat) (x : Suite) : Suite :=
  match x.occ with
  | some o => if f o = o then x else { x with occ := some (f o), linger := lingerAfter (f o) length }
  | none => x

theorem Suite.moved_keeps (f : OccState → OccState) (length : Nat) (x : Suite) :
    (x.moved f length).members = x.members ∧ (x.moved f length).adHocScene = x.adHocScene ∧
      (x.moved f length).seen = x.seen := by
  unfold Suite.moved
  split
  · split <;> exact ⟨rfl, rfl, rfl⟩
  · exact ⟨rfl, rfl, rfl⟩

theorem Suite.moved_of_occ {x : Suite} {o : OccState} (occ : x.occ = some o) (f : OccState → OccState) (length : Nat) :
    x.moved f length = { x with
      occ := some (f o), linger := if f o = o then x.linger else lingerAfter (f o) length } := by
  simp only [Suite.moved, occ]
  split
  · rename_i stays
    rw [stays, ← occ]
  · rfl

/-- A member of a suite that enters VACANT (R82, R168). -/
def vacateMember (m : RoomId) (s : State) : State :=
  clearOverrides (fun _ => true) m (onRoom m (fun x => { x with boost := false }) s)

theorem vacateMember_re (m : RoomId) (s : State) : (vacateMember m s).re = (onRoom m (fun x => { x with boost := false }) s).re :=
  (clearOverrides_only _ m _).re

theorem vacateMembers_room (ms : List RoomId) (r : RoomId) (s : State) :
    (forEach ms vacateMember s).room r = if r ∈ ms then { s.room r with boost := false } else s.room r := by
  induction ms generalizing s with
  | nil => rfl
  | cons m ms ih =>
    refine (ih (vacateMember m s)).trans ?_
    rw [room_of_re (vacateMember_re m s)]
    by_cases here : r = m
    · subst here
      simp
    · simp [room_onRoom_ne here, here]

theorem vacateMembers_suite (ms : List RoomId) (g : SuiteId) (s : State) : (forEach ms vacateMember s).suite g = s.suite g :=
  forEach_keeps (State.suite · g) (fun m t => suite_of_re (vacateMember_re m t) g) ms s

theorem moveSuite_of_stays {g : SuiteId} {f : OccState → OccState} {s : State} (stays : ∀ o, s.suiteOcc g = some o → f o = o) :
    moveSuite g f s = s := by
  unfold moveSuite
  split
  · rename_i o occ
    rw [if_pos (stays o occ)]
  · rfl

/-- The suite's members hear of its new state, before what entry to VACANT clears (R168). -/
def suiteTold (g : SuiteId) (f : OccState → OccState) (s : State) : State :=
  forEach (s.members g) (raise .stateChanged) (onSuite g (Suite.moved f (s.room (s.leadOf g)).cfg.lingerTime) s)

theorem suiteTold_re (g : SuiteId) (f : OccState → OccState) (s : State) :
    (suiteTold g f s).re = (onSuite g (Suite.moved f (s.room (s.leadOf g)).cfg.lingerTime) s).re :=
  forEach_keeps State.re (raise_re .stateChanged) _ _

theorem members_suiteMoved (g k : SuiteId) (f : OccState → OccState) (length : Nat) (s : State) :
    (onSuite g (Suite.moved f length) s).members k = s.members k :=
  members_onSuite g k _ (fun x => (x.moved_keeps f length).1) s

theorem moveSuite_of_moves {g : SuiteId} {f : OccState → OccState} {o : OccState} {s : State} (occ : s.suiteOcc g = some o)
    (moves : f o ≠ o) : moveSuite g f s =
      if f o = .vacant then forEach (s.members g) vacateMember (suiteTold g f s) else suiteTold g f s := by
  obtain ⟨x, held, state⟩ := Option.bind_eq_some_iff.mp occ
  have moved (length : Nat) : onSuite g (fun x => { x with occ := some (f o), linger := lingerAfter (f o) length }) s =
      onSuite g (Suite.moved f length) s := by
    rw [onSuite, onSuite, held, Option.map_some, Option.map_some, Suite.moved_of_occ state, if_neg moves]
  have told : (suiteTold g f s).members g = s.members g := by
    rw [State.members, suite_of_re (suiteTold_re g f s), ← State.members, members_suiteMoved]
  unfold moveSuite
  simp only [occ, if_neg moves, moved, members_suiteMoved]
  rw [← suiteTold, told]
  rfl

theorem moveSuite_suite (g k : SuiteId) (f : OccState → OccState) (s : State) : (moveSuite g f s).suite k =
    if k = g then (s.suite g).map (Suite.moved f (s.room (s.leadOf g)).cfg.lingerTime) else s.suite k := by
  have told : (suiteTold g f s).suite k =
      if k = g then (s.suite g).map (Suite.moved f (s.room (s.leadOf g)).cfg.lingerTime) else s.suite k := by
    rw [suite_of_re (suiteTold_re g f s)]
    split
    · rename_i here
      rw [here, suite_onSuite]
    · rename_i other
      exact suite_setSuite_ne other _ s
  by_cases moves : ∃ o, s.suiteOcc g = some o ∧ f o ≠ o
  · obtain ⟨o, occ, moves⟩ := moves
    rw [moveSuite_of_moves occ moves]
    split
    · rw [vacateMembers_suite, told]
    · exact told
  · have stays : ∀ o, s.suiteOcc g = some o → f o = o := fun o occ => not_not.mp fun ne => moves ⟨o, occ, ne⟩
    rw [moveSuite_of_stays stays]
    split
    · rename_i here
      subst here
      cases held : s.suite k with
      | none => rfl
      | some x =>
        refine congrArg some ?_
        unfold Suite.moved
        split
        · rename_i o occ
          rw [if_pos (stays o (by rw [State.suiteOcc, held, Option.bind_some, occ]))]
        · rfl
    · rfl

theorem moveSuite_room (g : SuiteId) (f : OccState → OccState) (r : RoomId) (s : State) : (moveSuite g f s).room r =
    if (∃ o, s.suiteOcc g = some o ∧ f o ≠ o ∧ f o = .vacant) ∧ r ∈ s.members g then { s.room r with boost := false }
    else s.room r := by
  have told : (suiteTold g f s).room r = s.room r := room_of_re (suiteTold_re g f s) r
  by_cases moves : ∃ o, s.suiteOcc g = some o ∧ f o ≠ o
  · obtain ⟨o, occ, moves⟩ := moves
    rw [moveSuite_of_moves occ moves]
    by_cases enters : f o = .vacant
    · rw [if_pos enters, vacateMembers_room, told]
      refine if_congr (Iff.symm (and_iff_right ⟨o, occ, moves, enters⟩)) rfl rfl
    · rw [if_neg enters, told, if_neg]
      rintro ⟨⟨o', occ', -, enters'⟩, -⟩
      exact enters (Option.some.inj (occ.symm.trans occ') ▸ enters')
  · rw [moveSuite_of_stays fun o occ => not_not.mp fun ne => moves ⟨o, occ, ne⟩, if_neg]
    rintro ⟨⟨o, occ, ne, -⟩, -⟩
    exact moves ⟨o, occ, ne⟩

/-! ### A change of presence (R65, R81, R166) -/

/-- What presence before and after an event makes of a state: a rise gives OCCUPIED, a fall takes OCCUPIED to LINGER. -/
def OccState.onEdge (before after : Bool) (o : OccState) : OccState :=
  if after && !before then .occupied else if before && !after then o.onFall else o

/-- A rise of presence sets the seen flag (R81). -/
def Room.onEdge (before : Bool) (x : Room) : Room := if x.presence && !before then { x with seen := true } else x

theorem Room.onEdge_keeps (before : Bool) (x : Room) :
    x.onEdge before = { x with seen := x.seen || (x.presence && !before) } := by
  unfold Room.onEdge
  split
  · rename_i rises
    rw [rises, Bool.or_true]
  · rename_i rests
    rw [Bool.eq_false_of_not_eq_true rests, Bool.or_false]

theorem Room.onEdge_presence (before : Bool) (x : Room) : (x.onEdge before).presence = x.presence := by
  rw [Room.onEdge_keeps]; rfl

theorem OccState.onEdge_ne_vacant {before after : Bool} {o : OccState} (moves : o.onEdge before after ≠ o) :
    o.onEdge before after ≠ .vacant := by
  revert moves
  cases before <;> cases after <;> cases o <;> decide

/-- The room with its seen flag, before the machines are told of its presence. -/
theorem seenEdge_eq (before : Bool) (r : RoomId) (s : State) :
    (if (s.room r).presence && !before then onRoom r (fun x => { x with seen := true }) s else s) =
      onRoom r (Room.onEdge before) s := by
  split
  · rename_i rises
    simp only [onRoom, Room.onEdge, rises, if_true]
  · rename_i rests
    exact (onRoom_self (by rw [Room.onEdge, if_neg rests])).symm

theorem joinedSuite_onRoom {r : RoomId} {f : Room → Room} {s : State} (state : (f (s.room r)).state = (s.room r).state)
    (suite : (f (s.room r)).suite = (s.room r).suite) : (onRoom r f s).joinedSuite r = s.joinedSuite r := by
  simp only [State.joinedSuite, room_onRoom, state, suite]

theorem presenceEdge_own {s0 s : State} {r : RoomId} (own : s.joinedSuite r = none) : presenceEdge s0 r s =
    moveRoom r (OccState.onEdge (s0.room r).presence (s.room r).presence) (onRoom r (Room.onEdge (s0.room r).presence) s) := by
  have stays (u : State) : moveRoom r (fun o => o) u = u := by
    unfold moveRoom
    split
    · exact if_pos rfl
    · rfl
    · rfl
  have suite : (onRoom r (Room.onEdge (s0.room r).presence) s).joinedSuite r = none := by
    rw [joinedSuite_onRoom (by rw [Room.onEdge_keeps]) (by rw [Room.onEdge_keeps]), own]
  unfold presenceEdge
  simp only [seenEdge_eq, suite]
  split
  · rename_i rises
    refine congrArg (moveRoom r · _) (funext fun o => ?_)
    rw [OccState.onEdge, if_pos rises]
  · rename_i steady
    split
    · rename_i falls
      refine congrArg (moveRoom r · _) (funext fun o => ?_)
      rw [OccState.onEdge, if_neg steady, if_pos falls]
    · rename_i level
      refine ((congrArg (moveRoom r · _) (funext fun o => ?_)).trans (stays _)).symm
      rw [OccState.onEdge, if_neg steady, if_neg level]

/-- The suite's seen flag at a rise of its presence (R166). -/
def Suite.onEdge (before after : Bool) (x : Suite) : Suite := if after && !before then { x with seen := true } else x

theorem Suite.onEdge_keeps (before after : Bool) (x : Suite) :
    x.onEdge before after = { x with seen := x.seen || (after && !before) } := by
  unfold Suite.onEdge
  split
  · rename_i rises
    rw [rises, Bool.or_true]
  · rename_i rests
    rw [Bool.eq_false_of_not_eq_true rests, Bool.or_false]

theorem onSuite_self {g : SuiteId} {f : Suite → Suite} {s : State} (h : ∀ x, s.suite g = some x → f x = x) :
    onSuite g f s = s := by
  have same : (s.suite g).map f = s.suite g := by
    cases held : s.suite g with
    | none => rfl
    | some x => rw [Option.map_some, h x held]
  have kept : put s.re.suites g (s.suite g) = s.re.suites := put_look _ g
  rw [onSuite, same, setSuite, kept]

theorem presenceEdge_joined {s0 s : State} {r : RoomId} {g : SuiteId} (joined : s.joinedSuite r = some g) : presenceEdge s0 r s =
    moveSuite g (OccState.onEdge (s0.suitePresence g) (s.suitePresence g))
      (onSuite g (Suite.onEdge (s0.suitePresence g) (s.suitePresence g)) (onRoom r (Room.onEdge (s0.room r).presence) s)) := by
  have suite : (onRoom r (Room.onEdge (s0.room r).presence) s).joinedSuite r = some g := by
    rw [joinedSuite_onRoom (by rw [Room.onEdge_keeps]) (by rw [Room.onEdge_keeps]), joined]
  have presence : (onRoom r (Room.onEdge (s0.room r).presence) s).suitePresence g = s.suitePresence g := by
    refine suitePresence_congr rfl fun q _ => ?_
    by_cases here : q = r
    · rw [here, room_onRoom, Room.onEdge_presence]
    · rw [room_onRoom_ne here]
  unfold presenceEdge
  simp only [seenEdge_eq, suite, presence]
  have rest (u : State) (steady : ¬ (s.suitePresence g && !s0.suitePresence g) = true) :
      onSuite g (Suite.onEdge (s0.suitePresence g) (s.suitePresence g)) u = u :=
    onSuite_self fun x _ => by rw [Suite.onEdge, if_neg steady]
  split
  · rename_i rises
    have edge : (OccState.onEdge (s0.suitePresence g) (s.suitePresence g)) = fun _ => .occupied := by
      funext o; rw [OccState.onEdge, if_pos rises]
    have seen : Suite.onEdge (s0.suitePresence g) (s.suitePresence g) = fun x => { x with seen := true } := by
      funext x; rw [Suite.onEdge, if_pos rises]
    rw [edge, seen]
  · rename_i steady
    rw [rest _ steady]
    split
    · rename_i falls
      refine congrArg (moveSuite g · _) (funext fun o => ?_)
      rw [OccState.onEdge, if_neg steady, if_pos falls]
    · rename_i level
      refine (moveSuite_of_stays fun o _ => ?_).symm
      rw [OccState.onEdge, if_neg steady, if_neg level]

/-! ### The records after a change of presence -/

section
variable {s0 s : State} {r : RoomId}

/-- A room with a machine of its own takes its own edge, and nothing else moves. -/
theorem presenceEdge_own_re {o : OccState} (own : (s.room r).state = .run o) : (presenceEdge s0 r s).re =
    (onRoom r (fun x => (x.onEdge (s0.room r).presence).moved
      (OccState.onEdge (s0.room r).presence (s.room r).presence)) s).re := by
  rw [presenceEdge_own (joinedSuite_of_run own), moveRoom_re, onRoom_onRoom]

/-- With presence as it was, a room's own machine stays (R65). -/
theorem presenceEdge_level (own : s.joinedSuite r = none) (level : (s.room r).presence = (s0.room r).presence) :
    presenceEdge s0 r s = s := by
  have stays : OccState.onEdge (s0.room r).presence (s.room r).presence = fun o => o := by
    funext o
    rw [level]
    cases (s0.room r).presence <;> rfl
  have unseen : Room.onEdge (s0.room r).presence (s.room r) = s.room r := by
    rw [Room.onEdge, level]
    cases (s0.room r).presence <;> rfl
  rw [presenceEdge_own own, onRoom_self unseen, stays]
  unfold moveRoom
  split
  · exact if_pos rfl
  · rfl
  · rfl

variable {g : SuiteId} (joined : s.joinedSuite r = some g)
include joined

/-- A JOINED room keeps its state, and the other rooms keep theirs: no edge takes a suite to VACANT. -/
theorem presenceEdge_joined_room (q : RoomId) : (presenceEdge s0 r s).room q =
    if q = r then (s.room r).onEdge (s0.room r).presence else s.room q := by
  rw [presenceEdge_joined joined, moveSuite_room, if_neg, room_onSuite]
  · split
    · rename_i here
      rw [here, room_onRoom]
    · rename_i other
      exact room_onRoom_ne other _ s
  · rintro ⟨⟨o, -, moves, enters⟩, -⟩
    exact OccState.onEdge_ne_vacant moves enters

theorem presenceEdge_joined_suite (k : SuiteId) : (presenceEdge s0 r s).suite k =
    if k = g then (s.suite g).map fun x => (x.onEdge (s0.suitePresence g) (s.suitePresence g)).moved
      (OccState.onEdge (s0.suitePresence g) (s.suitePresence g)) (s.room (s.leadOf g)).cfg.lingerTime
    else s.suite k := by
  have cfg (q : RoomId) : ((onRoom r (Room.onEdge (s0.room r).presence) s).room q).cfg = (s.room q).cfg := by
    by_cases here : q = r
    · rw [here, room_onRoom, Room.onEdge_keeps]
    · rw [room_onRoom_ne here]
  have lead (u : State) : (onSuite g (Suite.onEdge (s0.suitePresence g) (s.suitePresence g)) u).leadOf g = u.leadOf g := by
    rw [State.leadOf, members_onSuite g g _ fun x => by rw [Suite.onEdge_keeps], ← State.leadOf]
  rw [presenceEdge_joined joined, moveSuite_suite, suite_onSuite, Option.map_map, lead, room_onSuite, cfg]
  split
  · rfl
  · rename_i other
    exact suite_setSuite_ne other _ _

end

end Sys2Proof.Machine
end

section
/-!
PROOFS. The law of rooms and suites (R62, R77, R160, R165 to R168) through the machines: a room's own machine, a joined suite's, and
the events that move them.
-/

namespace Sys2Proof.Machine

/-! ### The machine's law (R77, R79, R83) -/

namespace OccLaw

theorem presence_of_ne {o : OccState} {presence : Bool} {phase : Phase} {linger : Timer} (h : OccLaw o presence phase linger)
    (ne : o ≠ .occupied) : presence = false := Bool.eq_false_of_not_eq_true fun p => ne (h.occupied.mpr p)

/-- OCCUPIED is presence, and no linger timer runs. -/
theorem of_occupied (phase : Phase) : OccLaw .occupied true phase none :=
  ⟨nofun, nofun, nofun, iff_of_true rfl rfl, iff_of_false nofun nofun⟩

/-- LINGER has its timer and no presence. -/
theorem of_linger (phase : Phase) (ms : Nat) : OccLaw .linger false phase (some ms) :=
  ⟨nofun, nofun, nofun, iff_of_false nofun nofun, iff_of_true rfl rfl⟩

/-- The state a phase gives without presence. -/
theorem of_place (phase : Phase) : OccLaw phase.place false phase none := by
  cases phase <;> constructor <;> simp [Phase.place]

theorem of_reentry (presence : Bool) (phase : Phase) : OccLaw (reentry presence phase) presence phase none := by
  cases presence
  · exact of_place phase
  · exact of_occupied phase

variable {o : OccState} {presence : Bool} {phase : Phase} {linger : Timer} (h : OccLaw o presence phase linger)
include h

/-- A rise gives OCCUPIED and a fall LINGER; with presence as before, the machine stays. -/
theorem onEdge (after : Bool) (length : Nat) : OccLaw (o.onEdge presence after) after phase
    (if o.onEdge presence after = o then linger else lingerAfter (o.onEdge presence after) length) := by
  have level : o.onEdge presence presence = o := by cases presence <;> rfl
  by_cases same : after = presence
  · rw [same, level, if_pos rfl]; exact h
  · cases presence
    · obtain rfl : after = true := Bool.eq_true_of_not_eq_false same
      have moves : o ≠ .occupied := fun e => Bool.noConfusion (h.occupied.mp e)
      have moved : o.onEdge false true = .occupied := rfl
      rw [moved, if_neg fun e => moves e.symm]
      exact of_occupied phase
    · obtain rfl : after = false := Bool.eq_false_of_not_eq_true same
      obtain rfl := h.occupied.mpr rfl
      exact of_linger phase _

/-- A phase report moves a machine without presence that does not linger, and no other. -/
theorem onPhase (p : Phase) (length : Nat) : OccLaw (o.onPhase p) presence p
    (if o.onPhase p = o then linger else lingerAfter (o.onPhase p) length) := by
  obtain ⟨-, -, -, occupied, lingers⟩ := h
  cases o <;> cases p <;> constructor <;> simp_all [OccState.onPhase, lingerAfter]

end OccLaw

/-! ### A room's law -/

/-- What the law says of a room's stillness timer (R70 to R72). -/
def Room.Still (x : Room) : Prop := x.stillness.isSome = true → 0 < x.head ∧ x.motionHold = none ∧ x.suspended = false

/-- A room's standing: its state and suite, its linger timer and override scene. -/
def Room.standing (x : Room) : RoomState × Option SuiteId × Timer × Option SceneNum :=
  (x.state, x.suite, x.linger, x.overrideScene)

theorem Room.standing_eq_iff {x y : Room} : y.standing = x.standing ↔ y.state = x.state ∧ y.suite = x.suite ∧
    y.linger = x.linger ∧ y.overrideScene = x.overrideScene := by
  simp only [Room.standing, Prod.mk.injEq]

/-- A room's record with the law, moved by a machine whose law holds afterwards. -/
theorem Room.Lawful.moved {x : Room} {o : OccState} {f : OccState → OccState} (own : x.state = .run o) (still : x.Still)
    (law : OccLaw (f o) x.presence x.phase (if f o = o then x.linger else lingerAfter (f o) x.cfg.lingerTime)) :
    (x.moved f).Lawful := by
  have state := Room.moved_state (f := f) own
  have linger : (x.moved f).linger = if f o = o then x.linger else lingerAfter (f o) x.cfg.lingerTime := by
    split
    · rename_i stays
      rw [Room.moved_of_stays own stays]
    · rename_i moves
      rw [Room.moved_of_moves own moves]
  have keeps := x.moved_keeps f
  refine ⟨fun o' run => ?_, fun joined => RoomState.noConfusion (state.symm.trans joined), ?_⟩
  · obtain rfl := RoomState.run.inj (state.symm.trans run)
    rw [linger, keeps]; exact law
  · rw [keeps]; exact still

/-- A room that keeps its standing keeps the law while its presence and phase are as they were, or while it is JOINED. -/
theorem Room.Lawful.of_standing {x y : Room} (h : x.Lawful) (standing : y.standing = x.standing) (still : y.Still)
    (same : (∃ o, x.state = .run o) → y.presence = x.presence ∧ y.phase = x.phase) : y.Lawful := by
  obtain ⟨state, suite, linger, scene⟩ := Room.standing_eq_iff.mp standing
  refine ⟨fun o run => ?_, fun joined => ?_, still⟩
  · have own : x.state = .run o := state.symm.trans run
    obtain ⟨presence, phase⟩ := same ⟨o, own⟩
    rw [presence, phase, linger]
    exact h.run o own
  · rw [linger, scene]
    exact h.joined (state.symm.trans joined)

/-! ### The law of all rooms and suites -/

/-- The law of rooms and suites, with what an OFF room holds. -/
structure State.Lawful (s : State) : Prop where
  occupancy : s.Occupancy
  off : s.OffIsEmpty

theorem State.Occupancy.congr {s t : State} (h : s.Occupancy) (re : t.re = s.re) : t.Occupancy := by
  have room := room_of_re re
  have suite := suite_of_re re
  have members (g : SuiteId) : t.members g = s.members g := by rw [State.members, suite, ← State.members]
  obtain ⟨rooms, suites, membership, joined⟩ := h
  refine ⟨fun r => room r ▸ rooms r, fun g x held => ?_, fun r g => by rw [room, suite]; exact membership r g,
    fun r => room r ▸ joined r⟩
  rw [suite] at held
  obtain ⟨distinct, size, member, machine, split⟩ := suites g x held
  refine ⟨distinct, size, fun r mem => by rw [room]; exact member r mem, fun o occ => ?_, split⟩
  rw [suitePresence_congr (members g) fun r _ => by rw [room], effectivePhase_congr (members g) fun r _ => by rw [room]]
  exact machine o occ

theorem State.Lawful.congr {s t : State} (h : s.Lawful) (same : t.records = s.records) : t.Lawful := by
  obtain ⟨re, times⟩ := State.records_eq_iff.mp same
  refine ⟨h.occupancy.congr re, fun r off => ?_⟩
  rw [room_of_re re] at off
  rw [room_of_re re, State.time, times, ← State.time]
  exact h.off r off

/-- From `s` to `t` the law is kept, and the same rooms are OFF. -/
structure KeepsLaw (s t : State) : Prop where
  law : s.Lawful → t.Lawful
  off : s.Lawful → ∀ r, (t.room r).state = .off ↔ (s.room r).state = .off

namespace KeepsLaw

theorem of_same {s t : State} (same : t.records = s.records) : KeepsLaw s t where
  law h := h.congr same
  off _ r := by rw [room_of_re (State.records_eq_iff.mp same).1]

theorem refl (s : State) : KeepsLaw s s := .of_same rfl

theorem trans {a b c : State} (h : KeepsLaw a b) (k : KeepsLaw b c) : KeepsLaw a c where
  law l := k.law (h.law l)
  off l r := (k.off (h.law l) r).trans (h.off l r)

theorem ite {c : Prop} [Decidable c] {s a b : State} (h : KeepsLaw s a) (k : KeepsLaw s b) :
    KeepsLaw s (if c then a else b) := by
  split
  · exact h
  · exact k

/-- The law is kept where it is kept of a lawful state. -/
theorem of_lawful {s t : State} (h : s.Lawful → KeepsLaw s t) : KeepsLaw s t :=
  ⟨fun l => (h l).law l, fun l => (h l).off l⟩

theorem forEach {α : Type} {f : α → State → State} (h : ∀ x s, KeepsLaw s (f x s)) (xs : List α) (s : State) :
    KeepsLaw s (Machine.forEach xs f s) :=
  forEach_rel KeepsLaw refl (fun h k => h.trans k) h xs s

/-- Work on rooms that are not OFF, none of which it takes to OFF. -/
theorem forEach_loaded {f : RoomId → State → State} (h : ∀ r s, (s.room r).state ≠ .off → KeepsLaw s (f r s))
    {rs : List RoomId} {s : State} (loaded : ∀ r ∈ rs, (s.room r).state ≠ .off) : KeepsLaw s (Machine.forEach rs f s) := by
  induction rs generalizing s with
  | nil => exact .refl s
  | cons r rs ih =>
    have first := h r s (loaded r List.mem_cons_self)
    refine of_lawful fun l => first.trans (ih fun q mem => ?_)
    exact fun off => loaded q (List.mem_cons_of_mem r mem) ((first.off l q).mp off)

theorem forEachFree {α : Type} {f : α → State → State} (h : ∀ x s, KeepsLaw s (f x s)) (xs : List α) (s : State) :
    KeepsLaw s (Machine.forEachFree xs f s) :=
  forEachFree_rel KeepsLaw refl (fun h k => h.trans k) (fun _ => .of_same rfl) h xs s

theorem forEachFree_loaded {f : RoomId → State → State} (h : ∀ r s, (s.room r).state ≠ .off → KeepsLaw s (f r s))
    {rs : List RoomId} {s : State} (loaded : ∀ r ∈ rs, (s.room r).state ≠ .off) :
    KeepsLaw s (Machine.forEachFree rs f s) := by
  rw [forEachFree_eq]
  exact trans (b := { s with choices := s.choices + 1 }) (.of_same rfl)
    (forEach_loaded h fun r mem => loaded r (mem_freeOrder.mp mem))

end KeepsLaw

/-! ### Records that move -/

/-- A room's place in the law: OFF, with a machine of its own, or JOINED. -/
def RoomState.kind : RoomState → RoomState
  | .run _ => .run .vacant
  | st => st

theorem RoomState.kind_off {a b : RoomState} (h : a.kind = b.kind) : a = .off ↔ b = .off := by
  cases a <;> cases b <;> simp_all [RoomState.kind]

theorem RoomState.kind_joined {a b : RoomState} (h : a.kind = b.kind) : a = .joined ↔ b = .joined := by
  cases a <;> cases b <;> simp_all [RoomState.kind]

/-- Rooms and suites move, and no room changes its kind or its suite, no suite its members or its partition. -/
structure SameForm (s t : State) : Prop where
  kind : ∀ r, (t.room r).state.kind = (s.room r).state.kind
  suite : ∀ r, (t.room r).suite = (s.room r).suite
  form : ∀ g, (t.suite g).map (fun x => (x.members, x.occ.isSome)) = (s.suite g).map (fun x => (x.members, x.occ.isSome))

namespace SameForm

variable {s t : State} (h : SameForm s t)
include h

theorem members (g : SuiteId) : t.members g = s.members g := by
  have form := h.form g
  unfold State.members
  cases held : s.suite g with
  | none =>
    rw [held, Option.map_none, Option.map_eq_none_iff] at form
    rw [form]
  | some x =>
    rw [held, Option.map_some, Option.map_eq_some_iff] at form
    obtain ⟨y, here, same⟩ := form
    rw [here]
    exact (Prod.mk.inj same).1

/-- The law holds again once each room and each machine has it. -/
theorem occupancy (law : s.Occupancy) (rooms : ∀ r, (t.room r).Lawful)
    (machines : ∀ g x o, t.suite g = some x → x.occ = some o → OccLaw o (t.suitePresence g) (t.effectivePhase g) x.linger)
    (splits : ∀ g x, t.suite g = some x → x.occ = none → x.linger = none ∧ x.seen = false) : t.Occupancy where
  rooms := rooms
  suites g x here := by
    have form := h.form g
    rw [here, Option.map_some, eq_comm, Option.map_eq_some_iff] at form
    obtain ⟨y, held, same⟩ := form
    obtain ⟨members, occ⟩ := Prod.mk.inj same
    obtain ⟨distinct, size, member, -, -⟩ := law.suites g y held
    refine ⟨members ▸ distinct, members ▸ size, fun r mem => ?_, fun o => machines g x o here, splits g x here⟩
    obtain ⟨named, loaded, joined⟩ := member r (members ▸ mem)
    rw [h.suite, ← occ, RoomState.kind_joined (h.kind r)]
    exact ⟨named, fun off => loaded ((RoomState.kind_off (h.kind r)).mp off), joined⟩
  membership r g named := by
    rw [h.suite] at named
    obtain ⟨y, held, mem⟩ := law.membership r g named
    have form := h.form g
    rw [held, Option.map_some, Option.map_eq_some_iff] at form
    obtain ⟨x, here, same⟩ := form
    exact ⟨x, here, (Prod.mk.inj same).1 ▸ mem⟩
  joined r joined := by
    rw [h.suite]
    exact law.joined r ((RoomState.kind_joined (h.kind r)).mp joined)

end SameForm

/-- An OFF room's record and time are left as they are, and no other room is taken to OFF. -/
structure SparesOff (s t : State) : Prop where
  kind : ∀ r, (t.room r).state = .off ↔ (s.room r).state = .off
  room : ∀ r, s.room r = Room.off → t.room r = s.room r
  time : ∀ r, (s.room r).state = .off → s.time r = RoomTime.empty → t.time r = s.time r

theorem SparesOff.off {s t : State} (h : SparesOff s t) (off : s.OffIsEmpty) : t.OffIsEmpty := by
  intro r here
  obtain ⟨empty, idle⟩ := off r ((h.kind r).mp here)
  exact ⟨(h.room r empty).trans empty, (h.time r ((h.kind r).mp here) idle).trans idle⟩

/-- The law is kept by what spares the OFF rooms and keeps the law of the others and of the suites. -/
theorem KeepsLaw.of_spares {s t : State} (h : s.Lawful → SparesOff s t ∧ t.Occupancy) : KeepsLaw s t where
  law l := ⟨(h l).2, (h l).1.off l.off⟩
  off l := (h l).1.kind

end Sys2Proof.Machine
end

section
/-!
PROOFS. The law of rooms and suites through the room engine's events: room actions, phase reports and expiries (R63 to R81, R166 to
R168).
-/

namespace Sys2Proof.Machine

/-! ### One room, and one suite -/

/-- A room with a machine of its own takes another lawful record, and nothing else moves. -/
theorem oneRoom_law {s t : State} {r : RoomId} {y : Room} {o o' : OccState} (law : s.Lawful)
    (records : t.records = (onRoom r (fun _ => y) s).records) (own : (s.room r).state = .run o) (run : y.state = .run o')
    (suite : y.suite = (s.room r).suite) (lawful : y.Lawful) : SparesOff s t ∧ t.Occupancy := by
  obtain ⟨re, times⟩ := State.records_eq_iff.mp records
  have here : t.room r = y := (room_of_re re r).trans (room_onRoom r _ s)
  have there (q : RoomId) (ne : q ≠ r) : t.room q = s.room q := (room_of_re re q).trans (room_onRoom_ne ne _ s)
  have suites (g : SuiteId) : t.suite g = s.suite g := suite_of_re re g
  have form : SameForm s t := by
    refine ⟨fun q => ?_, fun q => ?_, fun g => by rw [suites g]⟩
    · by_cases e : q = r
      · rw [e, here, own, run]; rfl
      · rw [there q e]
    · by_cases e : q = r
      · rw [e, here, suite]
      · rw [there q e]
  refine ⟨⟨fun q => RoomState.kind_off (form.kind q), fun q off => there q fun e => ?_, fun q _ _ => ?_⟩,
    form.occupancy law.occupancy (fun q => ?_) (fun g x o held occ => ?_) fun g x held occ => ?_⟩
  · rw [← e, off] at own; cases own
  · simp only [State.time, times]; rfl
  · by_cases e : q = r
    · rw [e, here]; exact lawful
    · rw [there q e]; exact law.occupancy.rooms q
  · rw [suites] at held
    obtain ⟨-, -, member, machine, -⟩ := law.occupancy.suites g x held
    have apart (q : RoomId) (mem : q ∈ s.members g) : t.room q = s.room q := there q fun e => by
      rw [members_of_suite held] at mem
      have joined := (member q mem).2.2.mpr (Option.isSome_of_eq_some occ)
      rw [e, own] at joined; cases joined
    rw [suitePresence_congr (form.members g) fun q mem => by rw [apart q mem],
      effectivePhase_congr (form.members g) fun q mem => by rw [apart q mem]]
    exact machine o occ
  · rw [suites] at held
    exact (law.occupancy.suites g x held).split occ

/-- A joined suite's machine moves, and its members' evidence and phases with it; nothing else moves. -/
theorem oneSuite_law {s t : State} {g : SuiteId} {x x' : Suite} {o' : OccState} (law : s.Lawful) (held : s.suite g = some x)
    (partition : x.occ.isSome = true) (here : t.suite g = some x') (members : x'.members = x.members) (occ : x'.occ = some o')
    (others : ∀ k, k ≠ g → t.suite k = s.suite k) (standing : ∀ q, (t.room q).standing = (s.room q).standing)
    (still : ∀ q, (t.room q).Still)
    (apart : ∀ q, q ∉ x.members → (t.room q).presence = (s.room q).presence ∧ (t.room q).phase = (s.room q).phase)
    (spares : ∀ q, s.room q = Room.off → t.room q = s.room q) (times : t.tu.rooms = s.tu.rooms)
    (machine : OccLaw o' (t.suitePresence g) (t.effectivePhase g) x'.linger) : SparesOff s t ∧ t.Occupancy := by
  have state (q : RoomId) : (t.room q).state = (s.room q).state := (Room.standing_eq_iff.mp (standing q)).1
  have form : SameForm s t := by
    refine ⟨fun q => by rw [state], fun q => (Room.standing_eq_iff.mp (standing q)).2.1, fun k => ?_⟩
    by_cases e : k = g
    · rw [e, here, held, Option.map_some, Option.map_some, members, occ, partition]; rfl
    · rw [others k e]
  have member := (law.occupancy.suites g x held).member
  refine ⟨⟨fun q => by rw [state], spares, fun q _ _ => by simp only [State.time, times]⟩,
    form.occupancy law.occupancy (fun q => ?_) (fun k y o held' occ' => ?_) fun k y held' occ' => ?_⟩
  · refine (law.occupancy.rooms q).of_standing (standing q) (still q) fun ⟨o, own⟩ => apart q fun mem => ?_
    have joined := (member q mem).2.2.mpr partition
    rw [own] at joined; cases joined
  · by_cases e : k = g
    · subst e
      obtain rfl := Option.some.inj (here.symm.trans held')
      obtain rfl := Option.some.inj (occ.symm.trans occ')
      exact machine
    · rw [others k e] at held'
      obtain ⟨-, -, member', machine', -⟩ := law.occupancy.suites k y held'
      have away (q : RoomId) (mem : q ∈ s.members k) : q ∉ x.members := fun mine => by
        rw [members_of_suite held'] at mem
        exact e (Option.some.inj ((member' q mem).1.symm.trans (member q mine).1))
      rw [suitePresence_congr (form.members k) fun q mem => (apart q (away q mem)).1,
        effectivePhase_congr (form.members k) fun q mem => (apart q (away q mem)).2]
      exact machine' o occ'
  · by_cases e : k = g
    · subst e
      obtain rfl := Option.some.inj (here.symm.trans held')
      rw [occ] at occ'; cases occ'
    · rw [others k e] at held'
      exact (law.occupancy.suites k y held').split occ'

/-- A joined room's suite, with its state. -/
theorem State.Occupancy.suite_of_joined {s : State} (h : s.Occupancy) {r : RoomId} (joined : (s.room r).state = .joined) :
    ∃ g x o, (s.room r).suite = some g ∧ s.suite g = some x ∧ r ∈ x.members ∧ x.occ = some o := by
  obtain ⟨g, named⟩ := Option.ne_none_iff_exists'.mp (h.joined r joined)
  obtain ⟨x, held, mem⟩ := h.membership r g named
  obtain ⟨o, occ⟩ := Option.isSome_iff_exists.mp (((h.suites g x held).member r mem).2.2.mp joined)
  exact ⟨g, x, o, named, held, mem, occ⟩

theorem suiteOcc_of_suite {s : State} {g : SuiteId} {x : Suite} (held : s.suite g = some x) : s.suiteOcc g = x.occ := by
  rw [State.suiteOcc, held, Option.bind_some]

/-! ### Room events -/

theorem Room.onEdge_standing (before : Bool) (x : Room) : (x.onEdge before).standing = x.standing := by
  rw [Room.onEdge_keeps]; rfl

theorem Room.Still.onEdge {x : Room} (h : x.Still) (before : Bool) : (x.onEdge before).Still := by
  rw [Room.onEdge_keeps]; exact h

/-- The evidence of a room has changed: from `s0` to `s` its record alone, to `y`, which keeps the standing and phase of the record
before, and whose stillness timer has its law. -/
structure EvidenceChange (r : RoomId) (y : Room) (s0 s : State) : Prop where
  records : s.records = (onRoom r (fun _ => y) s0).records
  loaded : (s0.room r).state ≠ .off
  standing : y.standing = (s0.room r).standing
  phase : y.phase = (s0.room r).phase
  still : (s0.room r).Still → y.Still

namespace EvidenceChange

variable {r : RoomId} {y : Room} {s0 s : State} (h : EvidenceChange r y s0 s)
include h

theorem re : s.re = (onRoom r (fun _ => y) s0).re := (State.records_eq_iff.mp h.records).1

theorem room : s.room r = y := (room_of_re h.re r).trans (room_onRoom r _ s0)

theorem room_ne {q : RoomId} (ne : q ≠ r) : s.room q = s0.room q := (room_of_re h.re q).trans (room_onRoom_ne ne _ s0)

theorem suite (g : SuiteId) : s.suite g = s0.suite g := suite_of_re h.re g

theorem state : y.state = (s0.room r).state := (Room.standing_eq_iff.mp h.standing).1

theorem time (s1 : State) : (presenceEdge s1 r s).tu.rooms = s0.tu.rooms :=
  (congrArg Tu.rooms (presenceEdge_work s1 r s).tu).trans (State.records_eq_iff.mp h.records).2

theorem own_law {o : OccState} (own : (s0.room r).state = .run o) (law : s0.Lawful) :
    SparesOff s0 (presenceEdge s0 r s) ∧ (presenceEdge s0 r s).Occupancy := by
  have before := law.occupancy.rooms r
  obtain ⟨state, suite, linger, -⟩ := Room.standing_eq_iff.mp h.standing
  have run : (y.onEdge (s0.room r).presence).state = .run o := by rw [Room.onEdge_keeps]; exact state.trans own
  have edge := (before.run o own).onEdge y.presence y.cfg.lingerTime
  refine oneRoom_law (y := (y.onEdge (s0.room r).presence).moved (OccState.onEdge (s0.room r).presence y.presence)) law
    (State.records_eq_iff.mpr ⟨?_, h.time s0⟩) own (Room.moved_state run) ?_
    (Room.Lawful.moved run ((h.still before.stillness).onEdge _) ?_)
  · rw [presenceEdge_own_re (h.room.symm ▸ state.trans own), onRoom_re r _ h.re, onRoom_onRoom, h.room]
  · rw [Room.moved_keeps, Room.onEdge_keeps]; exact suite
  · rw [Room.onEdge_presence, Room.onEdge_keeps]
    dsimp only
    rwa [h.phase, linger]

theorem joined_law (joined : (s0.room r).state = .joined) (law : s0.Lawful) :
    SparesOff s0 (presenceEdge s0 r s) ∧ (presenceEdge s0 r s).Occupancy := by
  obtain ⟨g, x, o, named, held, mem, occ⟩ := law.occupancy.suite_of_joined joined
  obtain ⟨state, suite, -, -⟩ := Room.standing_eq_iff.mp h.standing
  have joins : s.joinedSuite r = some g := by
    rw [State.joinedSuite, h.room, if_pos (state.trans joined), suite, named]
  have members : s.members g = s0.members g := by rw [State.members, h.suite, ← State.members]
  have room (q : RoomId) : (presenceEdge s0 r s).room q = if q = r then y.onEdge (s0.room r).presence else s0.room q := by
    rw [presenceEdge_joined_room joins, h.room]
    split
    · rfl
    · rename_i ne
      exact h.room_ne ne
  have here := presenceEdge_joined_suite (s0 := s0) joins g
  rw [if_pos rfl, h.suite, held, Option.map_some] at here
  have after : (presenceEdge s0 r s).members g = s.members g := (presenceEdge_work s0 r s).members g
  have presence : (presenceEdge s0 r s).suitePresence g = s.suitePresence g := suitePresence_congr after fun q _ => by
    rw [room]
    split
    · rename_i e
      rw [Room.onEdge_presence, e, h.room]
    · rename_i ne
      rw [h.room_ne ne]
  have phase : (presenceEdge s0 r s).effectivePhase g = s0.effectivePhase g :=
    effectivePhase_congr (after.trans members) fun q _ => by
      rw [room]
      split
      · rename_i e
        rw [Room.onEdge_keeps, e]; exact h.phase
      · rfl
  have edge := ((law.occupancy.suites g x held).machine o occ).onEdge (s.suitePresence g)
    (s.room (s.leadOf g)).cfg.lingerTime
  have moved := Suite.moved_of_occ (x := x.onEdge (s0.suitePresence g) (s.suitePresence g)) (o := o)
    (by rw [Suite.onEdge_keeps]; exact occ)
    (OccState.onEdge (s0.suitePresence g) (s.suitePresence g)) (s.room (s.leadOf g)).cfg.lingerTime
  refine oneSuite_law law held (Option.isSome_of_eq_some occ) here ?_ (by rw [moved]) (fun k ne => ?_) (fun q => ?_)
    (fun q => ?_) (fun q away => ?_) (fun q empty => ?_) (h.time s0) ?_
  · rw [(Suite.moved_keeps ..).1, Suite.onEdge_keeps]
  · rw [presenceEdge_joined_suite joins, if_neg ne, h.suite]
  · rw [room]
    split
    · rename_i e
      rw [Room.onEdge_standing, h.standing, e]
    · rfl
  · rw [room]
    split
    · exact (h.still (law.occupancy.rooms r).stillness).onEdge _
    · exact (law.occupancy.rooms q).stillness
  · have ne : q ≠ r := fun e => away (e.symm ▸ mem)
    rw [room, if_neg ne]
    exact ⟨rfl, rfl⟩
  · rw [room, if_neg fun e => h.loaded (by rw [← e, empty]; rfl)]
  · rw [moved, presence, phase, Suite.onEdge_keeps]
    exact edge

/-- The event of a room whose evidence has changed keeps the law. -/
theorem law : KeepsLaw s0 (afterRoomEvent s0 r s) := by
  refine .trans (b := presenceEdge s0 r s) (.of_spares fun law => ?_) (.of_same ?_)
  · cases kind : (s0.room r).state with
    | off => exact absurd kind h.loaded
    | run o => exact h.own_law kind law
    | joined => exact h.joined_law kind law
  · rw [afterRoomEvent, endEvent_records, recomposeAfter_records, dutyEdge_records]

end EvidenceChange

/-! ### Room actions (R66 to R75) -/

theorem Room.startStillness_eq (x : Room) : x.startStillness = { x with stillness := x.startStillness.stillness } := by
  unfold Room.startStillness; split <;> rfl

theorem Room.restartStillness_eq (x : Room) : x.restartStillness = { x with stillness := x.restartStillness.stillness } := by
  unfold Room.restartStillness; split <;> rfl

theorem Room.startStillness_still {x : Room} (h : x.Still) : x.startStillness.Still := by
  unfold Room.startStillness
  split
  · rename_i test
    obtain ⟨heads, moved, suspended, -⟩ := test
    exact fun _ => ⟨heads, Option.isNone_iff_eq_none.mp moved, Bool.eq_false_of_not_eq_true suspended⟩
  · exact h

theorem Room.restartStillness_still {x : Room} (h : x.Still) : x.restartStillness.Still := by
  unfold Room.restartStillness
  split
  · rename_i runs
    exact fun _ => h runs
  · exact h

/-- A stillness timer that does not run has its law. -/
theorem Room.still_of_none {x : Room} (h : x.stillness = none) : x.Still := by
  intro runs
  rw [h] at runs; cases runs

theorem Room.countIn_eq (v : Half) (x : Room) :
    x.countIn v = { x with head := min 999 (x.head + countValue v), stillness := (x.countIn v).stillness } := by
  unfold Room.countIn
  dsimp only
  split
  · exact Room.startStillness_eq _
  · exact Room.restartStillness_eq _

theorem Room.countOut_eq (v : Half) (x : Room) :
    x.countOut v = { x with head := x.head - countValue v, stillness := (x.countOut v).stillness } := by
  unfold Room.countOut
  dsimp only
  split
  · rename_i empty
    rw [empty, Nat.zero_sub, ← empty]
  · split
    · rfl
    · exact Room.restartStillness_eq _

theorem Room.windowOpen_eq (n : NodeRef) (x : Room) : x.windowOpen n = { x with windows := (x.windowOpen n).windows } := by
  unfold Room.windowOpen; split <;> rfl

theorem countValue_pos (v : Half) : 0 < countValue v := by
  unfold countValue
  split
  · exact Nat.one_pos
  · rename_i ne
    have : v.toNat ≠ 0 := fun e => ne (BitVec.eq_of_toNat_eq e)
    omega

theorem Room.countIn_still {x : Room} (v : Half) (h : x.Still) : (x.countIn v).Still := by
  have heads := countValue_pos v
  unfold Room.countIn
  dsimp only
  split
  · rename_i empty
    exact Room.startStillness_still fun runs => absurd (h runs).1 (by omega)
  · refine Room.restartStillness_still fun runs => ?_
    obtain ⟨-, moved, suspended⟩ := h runs
    exact ⟨by dsimp only; omega, moved, suspended⟩

theorem Room.countOut_still {x : Room} (v : Half) (h : x.Still) : (x.countOut v).Still := by
  unfold Room.countOut
  dsimp only
  split
  · exact h
  · split
    · exact Room.still_of_none rfl
    · rename_i left
      refine Room.restartStillness_still fun runs => ?_
      obtain ⟨-, moved, suspended⟩ := h runs
      exact ⟨Nat.pos_of_ne_zero left, moved, suspended⟩

/-- The above-capacity flag of a room, from its head estimate (R69). -/
def Room.crowded (x : Room) : Room := { x with aboveCapacity := decide (x.cfg.capacity < x.head) }

theorem overcrowdTest_re (r : RoomId) (s : State) : (overcrowdTest r s).re = (onRoom r Room.crowded s).re := by
  unfold overcrowdTest
  dsimp only
  split
  · rename_i above
    split
    · rename_i known
      refine congrArg State.re (onRoom_self ?_).symm
      rw [Room.crowded, decide_eq_true above, ← known]
    · rw [raise_re]
      simp only [onRoom, Room.crowded, decide_eq_true above]
  · rename_i within
    simp only [onRoom, Room.crowded, decide_eq_false within]

theorem overcrowdTest_records (r : RoomId) (s : State) : (overcrowdTest r s).records = (onRoom r Room.crowded s).records :=
  State.records_eq_iff.mpr ⟨overcrowdTest_re r s, congrArg Tu.rooms (overcrowdTest_work r s).tu⟩

theorem onRoom_records {s t : State} (r : RoomId) (f : Room → Room) (h : t.records = s.records) :
    (onRoom r f t).records = (onRoom r f s).records := by
  obtain ⟨re, times⟩ := State.records_eq_iff.mp h
  exact State.records_eq_iff.mpr ⟨onRoom_re r f re, times⟩

/-- The event of a room action that changes the room's evidence alone. -/
theorem evidence_law {f : Room → Room} {s0 s : State} {r : RoomId} (loaded : (s0.room r).state ≠ .off)
    (records : s.records = (onRoom r f s0).records) (standing : ∀ x, (f x).standing = x.standing)
    (phase : ∀ x, (f x).phase = x.phase) (still : ∀ x, x.Still → (f x).Still) : KeepsLaw s0 (afterRoomEvent s0 r s) :=
  EvidenceChange.law ⟨records, loaded, standing _, phase _, still _⟩

/-- The tests of R73 apply to a room's CO2 latch. -/
def State.testsCo2 (s : State) (r : RoomId) : Bool := s.inUse r && (s.air r).mode == some .comfort

/-- A room's record once an evidence action has reached it, its machine apart (R66 to R75); a panel action leaves it. -/
def Room.afterAct (act : RoomAct) (tested : Bool) (n : NodeRef) (v : Half) (x : Room) : Room :=
  match act with
  | .motion => x.motion
  | .countIn => (x.countIn v).crowded
  | .countOut => (x.countOut v).crowded
  | .co2 => x.co2Action tested v
  | .windowOpen => x.windowOpen n
  | .windowClosed => x.windowClosed n
  | .panelScene _ => x
  | .panelOff => x

/-- The state once an evidence action has changed the room's evidence and raised its conditions. -/
def actEvidence (act : RoomAct) (n : NodeRef) (v : Half) (r : RoomId) (s : State) : State :=
  match act with
  | .motion => onRoom r Room.motion s
  | .countIn => overcrowdTest r (onRoom r (Room.countIn v) s)
  | .countOut =>
    let t := onRoom r (Room.countOut v) s
    overcrowdTest r (if (s.room r).drifts v then raise .countDrift r t else t)
  | .co2 => onRoom r (Room.co2Action (s.testsCo2 r) v) s
  | .windowOpen => onRoom r (Room.windowOpen n) s
  | .windowClosed => onRoom r (Room.windowClosed n) s
  | .panelScene _ => s
  | .panelOff => s

section
variable (act : RoomAct) (n : NodeRef) (v : Half)

theorem actEvidence_records (r : RoomId) (s : State) :
    (actEvidence act n v r s).records = (onRoom r (Room.afterAct act (s.testsCo2 r) n v) s).records := by
  cases act with
  | motion | co2 | windowOpen | windowClosed => rfl
  | countIn =>
    unfold actEvidence
    dsimp only
    rw [overcrowdTest_records, onRoom_onRoom]
    rfl
  | countOut =>
    unfold actEvidence
    dsimp only
    rw [overcrowdTest_records, onRoom_records r _ (ite_records (raise_records ..) rfl), onRoom_onRoom]
    rfl
  | panelScene | panelOff => exact congrArg State.records (onRoom_self (r := r) (f := fun x => x) rfl).symm

variable (tested : Bool) (x : Room)

/-- An evidence action leaves a room's standing, its phase, its seen flag and its configuration. -/
theorem Room.afterAct_keeps : (x.afterAct act tested n v).standing = x.standing ∧ (x.afterAct act tested n v).phase = x.phase ∧
    (x.afterAct act tested n v).seen = x.seen ∧ (x.afterAct act tested n v).cfg = x.cfg := by
  cases act with
  | motion | co2 | windowClosed | panelScene | panelOff => exact ⟨rfl, rfl, rfl, rfl⟩
  | countIn =>
    unfold Room.afterAct
    dsimp only
    rw [Room.crowded, Room.countIn_eq]
    exact ⟨rfl, rfl, rfl, rfl⟩
  | countOut =>
    unfold Room.afterAct
    dsimp only
    rw [Room.crowded, Room.countOut_eq]
    exact ⟨rfl, rfl, rfl, rfl⟩
  | windowOpen =>
    unfold Room.afterAct
    dsimp only
    rw [Room.windowOpen_eq]
    exact ⟨rfl, rfl, rfl, rfl⟩

theorem Room.afterAct_still {x : Room} (still : x.Still) : (x.afterAct act tested n v).Still := by
  cases act with
  | motion => exact Room.still_of_none rfl
  | countIn => exact x.countIn_still v still
  | countOut => exact x.countOut_still v still
  | windowOpen =>
    unfold Room.afterAct
    dsimp only
    rw [Room.windowOpen_eq]
    exact still
  | co2 | windowClosed | panelScene | panelOff => exact still

theorem actEvidence_change {r : RoomId} {s : State} (loaded : (s.room r).state ≠ .off) :
    EvidenceChange r ((s.room r).afterAct act (s.testsCo2 r) n v) s (actEvidence act n v r s) :=
  have keeps := Room.afterAct_keeps act n v (s.testsCo2 r) (s.room r)
  ⟨actEvidence_records act n v r s, loaded, keeps.1, keeps.2.1, Room.afterAct_still act n v (s.testsCo2 r)⟩

end

theorem setOverrideScene_law (n : Option SceneNum) {r : RoomId} {s : State} (own : (s.room r).state ≠ .joined)
    (loaded : (s.room r).state ≠ .off) {t : State}
    (records : t.records = (onRoom r (fun x => { x with overrideScene := n }) s).records) : KeepsLaw s t := by
  refine .of_spares fun law => ?_
  cases kind : (s.room r).state with
  | off => exact absurd kind loaded
  | joined => exact absurd kind own
  | run o =>
    obtain ⟨run, -, still⟩ := law.occupancy.rooms r
    exact oneRoom_law law records kind kind rfl ⟨run, fun joined => absurd joined own, still⟩

theorem panel_law (n : SceneNum) {r : RoomId} {s : State} (loaded : (s.room r).state ≠ .off) :
    KeepsLaw s (endEvent (panel n r s)) := by
  unfold panel
  split
  · exact .of_same (endEvent_records s)
  · rename_i taken
    refine setOverrideScene_law (some n) (fun joined => taken (.inl joined)) loaded ?_
    rw [setOverrideScene, endEvent_records, recompose_records, clearOverrides_records]

theorem takeRoomAct_law (act : RoomAct) (n : NodeRef) (value : Half) {r : RoomId} {s : State}
    (loaded : (s.room r).state ≠ .off) : KeepsLaw s (takeRoomAct act n value r s) := by
  have evidence (act : RoomAct) : KeepsLaw s (afterRoomEvent s r (actEvidence act n value r s)) :=
    (actEvidence_change act n value loaded).law
  cases act with
  | motion => exact evidence .motion
  | countIn => exact evidence .countIn
  | countOut => exact evidence .countOut
  | co2 => exact evidence .co2
  | windowOpen => exact evidence .windowOpen
  | windowClosed => exact evidence .windowClosed
  | panelScene scene =>
    cases scene with
    | some _ => exact panel_law _ loaded
    | none =>
      unfold takeRoomAct
      dsimp only
      split
      · exact panel_law _ loaded
      · exact .of_same (endEvent_records s)
  | panelOff => exact panel_law _ loaded

theorem roomAction_law (act : RoomAct) (n : NodeRef) (value : Half) (r : RoomId) (s : State) :
    KeepsLaw s (roomAction act n value r s) := by
  unfold roomAction
  split
  · exact .refl s
  · rename_i loaded
    exact takeRoomAct_law act n value loaded

end Sys2Proof.Machine
end

section
/-!
PROOFS. The law of rooms and suites through phase reports, expiries, and the joining and splitting of suites (R72, R76 to R83, R164
to R168, R171).
-/

namespace Sys2Proof.Machine

/-! ### A phase report on the records (R72, R76, R77, R167, R168) -/

theorem storePhase_standing (p : Phase) (k : Option Booking) (x : Room) : (x.storePhase p k).standing = x.standing := by
  rw [storePhase_eq]; rfl

theorem storePhase_presence (p : Phase) (k : Option Booking) (x : Room) : (x.storePhase p k).presence = x.presence := by
  rw [storePhase_eq]; rfl

theorem storePhase_phase (p : Phase) (k : Option Booking) (x : Room) : (x.storePhase p k).phase = p := by
  rw [storePhase_eq]

/-- The exam suspension keeps the stillness timer's law: it stops the timer, or starts it by its test (R72). -/
theorem suspendExam_still {was : Bool} {x : Room}
    (h : x.stillness.isSome = true → 0 < x.head ∧ x.motionHold = none ∧ was = false) : (x.suspendExam was).Still := by
  unfold Room.suspendExam
  split
  · split
    · rename_i on
      intro runs
      rw [(h runs).2.2] at on; cases on
    · exact Room.still_of_none rfl
  · rename_i free
    have still : x.Still := fun runs => ⟨(h runs).1, (h runs).2.1, Bool.eq_false_of_not_eq_true free⟩
    split
    · exact Room.startStillness_still still
    · exact still

theorem storePhase_still (p : Phase) (k : Option Booking) {x : Room} (h : x.Still) : (x.storePhase p k).Still :=
  suspendExam_still h

theorem phaseReport_run_re {r : RoomId} {s : State} {o : OccState} (own : (s.room r).state = .run o) (p : Phase)
    (k : Option Booking) : (phaseReport r p k s).re =
      (onRoom r (fun x => (x.storePhase p k).moved fun o => o.onPhase p) s).re := by
  have stored : (if o = .occupied ∧ (s.room r).phase = .on ∧ p = .lag then raise .overrun r (onRoom r (Room.storePhase p k) s)
      else onRoom r (Room.storePhase p k) s).re = (onRoom r (Room.storePhase p k) s).re := by
    split
    · exact raise_re ..
    · rfl
  simp only [phaseReport, own]
  rw [(recompose_only r _).re, dutyEdge_re, moveRoom_re, onRoom_re r _ stored, onRoom_onRoom]

/-- A suite's record with the seen flag that a report of ON settles (R167). -/
def Suite.settleSeen (p : Phase) (presence : Bool) (x : Suite) : Suite := { x with seen := if p = .on then presence else x.seen }

section
variable (g : SuiteId) (p before : Phase) (s : State)

/-- The suite before its machine takes the effective phase: its seen flag settled, its members told of an overrun. -/
def suiteReported : State :=
  let t := if p = .on then onSuite g (fun x => { x with seen := s.suitePresence g }) s else s
  if t.suiteOcc g = some .occupied ∧ before = .on ∧ s.effectivePhase g = .lag then forEach (t.members g) (raise .overrun) t else t

theorem suitePhase_eq : suitePhase g p before s =
    recomposeMembers g (moveSuite g (fun o => o.onPhase (s.effectivePhase g)) (suiteReported g p before s)) := rfl

theorem suiteReported_re : (suiteReported g p before s).re = (onSuite g (Suite.settleSeen p (s.suitePresence g)) s).re := by
  have settled : (if p = .on then onSuite g (fun x => { x with seen := s.suitePresence g }) s else s) =
      onSuite g (Suite.settleSeen p (s.suitePresence g)) s := by
    split
    · rename_i on
      exact congrArg (onSuite g · s) (funext fun x => by rw [Suite.settleSeen, if_pos on])
    · rename_i other
      exact (onSuite_self fun x _ => by rw [Suite.settleSeen, if_neg other]).symm
  unfold suiteReported
  rw [settled]
  dsimp only
  split
  · exact forEach_keeps State.re (raise_re .overrun) _ _
  · rfl

theorem suiteReported_room (q : RoomId) : (suiteReported g p before s).room q = s.room q := room_of_re (suiteReported_re g p before s) q

theorem suiteReported_suite : (suiteReported g p before s).suite g = (s.suite g).map (Suite.settleSeen p (s.suitePresence g)) :=
  (suite_of_re (suiteReported_re g p before s) g).trans (suite_onSuite ..)

theorem suiteReported_suiteOcc : (suiteReported g p before s).suiteOcc g = s.suiteOcc g := by
  rw [State.suiteOcc, suiteReported_suite, State.suiteOcc]
  cases s.suite g <;> rfl

theorem suiteReported_members : (suiteReported g p before s).members g = s.members g := by
  rw [State.members, suiteReported_suite, State.members]
  cases s.suite g <;> rfl

theorem suitePhase_room (q : RoomId) : (suitePhase g p before s).room q =
    if (∃ o, s.suiteOcc g = some o ∧ o.onPhase (s.effectivePhase g) ≠ o ∧ o.onPhase (s.effectivePhase g) = .vacant) ∧
      q ∈ s.members g then { s.room q with boost := false } else s.room q := by
  rw [suitePhase_eq, (recomposeMembers_only g _).room, moveSuite_room, suiteReported_suiteOcc, suiteReported_members,
    suiteReported_room]

theorem suitePhase_suite (k : SuiteId) : (suitePhase g p before s).suite k =
    if k = g then (s.suite g).map fun x => (x.settleSeen p (s.suitePresence g)).moved
      (fun o => o.onPhase (s.effectivePhase g)) (s.room (s.leadOf g)).cfg.lingerTime
    else s.suite k := by
  rw [suitePhase_eq, (recomposeMembers_only g _).suite, moveSuite_suite, suiteReported_suite, Option.map_map, State.leadOf,
    suiteReported_members, ← State.leadOf, suiteReported_room]
  split
  · rfl
  · rename_i other
    exact (suite_of_re (suiteReported_re g p before s) k).trans (suite_setSuite_ne other _ s)

end

/-- A room's record after a move of its suite: the boost latch clears on entry to VACANT (R82), and an OFF record is left. -/
theorem vacated_record (c : Prop) [Decidable c] (x : Room) : ∃ b, (if c then { x with boost := false } else x) =
    { x with boost := b } ∧ (x = Room.off → b = false) := by
  split
  · exact ⟨false, rfl, fun _ => rfl⟩
  · exact ⟨x.boost, rfl, fun off => by rw [off]; rfl⟩

theorem phaseReport_run_law {r : RoomId} {s : State} {o : OccState} (own : (s.room r).state = .run o) (p : Phase)
    (k : Option Booking) : KeepsLaw s (phaseReport r p k s) := by
  refine .of_spares fun law => ?_
  have before := law.occupancy.rooms r
  obtain ⟨state, suite, linger, -⟩ := Room.standing_eq_iff.mp (storePhase_standing p k (s.room r))
  refine oneRoom_law (y := ((s.room r).storePhase p k).moved fun o => o.onPhase p) law
    (State.records_eq_iff.mpr ⟨phaseReport_run_re own p k, congrArg Tu.rooms (phaseReport_work r p k s).tu⟩) own
    (Room.moved_state (state.trans own)) (by rw [Room.moved_keeps]; exact suite)
    (Room.Lawful.moved (state.trans own) (storePhase_still p k before.stillness) ?_)
  rw [storePhase_presence, storePhase_phase, linger]
  exact (before.run o own).onPhase p _

theorem phaseReport_joined_law {r : RoomId} {s : State} (joined : (s.room r).state = .joined) (p : Phase)
    (k : Option Booking) : KeepsLaw s (phaseReport r p k s) := by
  refine .of_spares fun law => ?_
  obtain ⟨g, x, o, named, held, mem, occ⟩ := law.occupancy.suite_of_joined joined
  set u := onRoom r (Room.storePhase p k) s with u_def
  have report : phaseReport r p k s = suitePhase g p (s.effectivePhase g) u := by
    simp only [phaseReport, joined, named, u_def]
  have heldHere : u.suite g = some x := held
  have occHere : u.suiteOcc g = some o := (suiteOcc_of_suite heldHere).trans occ
  have stored (q : RoomId) : u.room q = if q = r then (s.room r).storePhase p k else s.room q := by
    split
    · rename_i e
      rw [e, u_def, room_onRoom]
    · rename_i ne
      rw [u_def, room_onRoom_ne ne]
  have room (q : RoomId) : ∃ b, (phaseReport r p k s).room q = { u.room q with boost := b } ∧
      (u.room q = Room.off → b = false) := by
    rw [report, suitePhase_room]
    exact vacated_record _ _
  have here := suitePhase_suite g p (s.effectivePhase g) u g
  rw [if_pos rfl, heldHere, Option.map_some, ← report] at here
  have moved := Suite.moved_of_occ (x := x.settleSeen p (u.suitePresence g)) occ
    (fun o => o.onPhase (u.effectivePhase g)) (u.room (u.leadOf g)).cfg.lingerTime
  have members : (phaseReport r p k s).members g = s.members g := (phaseReport_work r p k s).members g
  have presence (q : RoomId) : ((phaseReport r p k s).room q).presence = (s.room q).presence := by
    obtain ⟨b, same, -⟩ := room q
    rw [same, stored]
    split
    · rename_i e
      rw [e]; exact storePhase_presence p k _
    · rfl
  have phase (q : RoomId) : ((phaseReport r p k s).room q).phase = (u.room q).phase := by
    obtain ⟨b, same, -⟩ := room q
    rw [same]
  refine oneSuite_law law held (Option.isSome_of_eq_some occ) here (Suite.moved_keeps ..).1 (by rw [moved]) (fun j ne => ?_)
    (fun q => ?_) (fun q => ?_) (fun q away => ⟨presence q, ?_⟩) (fun q empty => ?_)
    (congrArg Tu.rooms (phaseReport_work r p k s).tu) ?_
  · rw [report, suitePhase_suite, if_neg ne]; rfl
  · obtain ⟨b, same, -⟩ := room q
    rw [same, stored]
    split
    · rename_i e
      rw [e]; exact storePhase_standing p k _
    · rfl
  · obtain ⟨b, same, -⟩ := room q
    rw [same, stored]
    split
    · exact storePhase_still p k (law.occupancy.rooms r).stillness
    · exact (law.occupancy.rooms q).stillness
  · have ne : q ≠ r := fun e => away (e.symm ▸ mem)
    rw [phase, stored, if_neg ne]
  · have ne : q ≠ r := fun e => by rw [← e, empty] at joined; cases joined
    have kept : u.room q = s.room q := by rw [stored, if_neg ne]
    obtain ⟨b, same, off⟩ := room q
    rw [same, kept, off (kept.trans empty), empty]; rfl
  · rw [suitePresence_congr members fun q _ => presence q, moved,
      effectivePhase_congr (s := u) members fun q _ => phase q]
    exact ((law.occupancy.suites g x held).machine o occ).onPhase _ _

theorem phaseReport_law (r : RoomId) (p : Phase) (k : Option Booking) (s : State) : KeepsLaw s (phaseReport r p k s) := by
  cases kind : (s.room r).state with
  | off =>
    have nothing : phaseReport r p k s = s := by simp only [phaseReport, kind]
    rw [nothing]; exact .refl s
  | run o => exact phaseReport_run_law kind p k
  | joined => exact phaseReport_joined_law kind p k

/-! ### Expiries (R66, R71, R79, R168) -/

/-- No timer of an OFF room runs. -/
theorem State.Lawful.loaded_of_timer {s : State} (h : s.Lawful) {r : RoomId} {t : Room → Timer} (never : t Room.off = none)
    (runs : (t (s.room r)).isSome = true) : (s.room r).state ≠ .off := by
  intro off
  rw [(h.off r off).1, never] at runs; cases runs

theorem motionHoldEnds_law {r : RoomId} {s : State} (runs : (s.room r).motionHold.isSome = true) :
    KeepsLaw s (motionHoldEnds r s) := by
  refine .of_lawful fun law => evidence_law (f := fun x => Room.startStillness { x with motionHold := none })
    (law.loaded_of_timer (t := Room.motionHold) rfl runs) rfl (fun x => ?_) (fun x => ?_) fun x still => ?_
  · rw [Room.startStillness_eq]; rfl
  · rw [Room.startStillness_eq]
  · exact Room.startStillness_still fun runs => ⟨(still runs).1, rfl, (still runs).2.2⟩

theorem stillnessEnds_law {r : RoomId} {s : State} (runs : (s.room r).stillness.isSome = true) :
    KeepsLaw s (stillnessEnds r s) :=
  .of_lawful fun law => evidence_law (f := fun x => { x with head := 0, stillness := none, aboveCapacity := false })
    (law.loaded_of_timer (t := Room.stillness) rfl runs) (raise_records ..) (fun _ => rfl) (fun _ => rfl)
    fun _ _ => Room.still_of_none rfl

/-- What the end of a linger makes of a machine: LINGER gives way to the state of the phase (R79). -/
def OccState.onLingerEnd (p : Phase) (o : OccState) : OccState := if o = .linger then p.place else o

theorem Phase.place_ne_linger (p : Phase) : p.place ≠ .linger := by
  cases p <;> exact nofun

theorem lingerEnds_eq {r : RoomId} {s : State} (lingers : (s.room r).state = .run .linger) : lingerEnds r s =
    endEvent (recomposeAfter s r (dutyEdge (s.inDuty r) r
      (moveRoom r (OccState.onLingerEnd (s.room r).phase) (onRoom r (fun x => { x with linger := none }) s)))) := by
  have run : ((onRoom r (fun x => { x with linger := none }) s).room r).state = .run .linger := by
    rw [room_onRoom]; exact lingers
  have level := presenceEdge_level (s0 := s) (r := r)
    (s := moveRoom r (OccState.onLingerEnd (s.room r).phase) (onRoom r (fun x => { x with linger := none }) s))
    (joinedSuite_of_run (o := (s.room r).phase.place) ?_) ?_
  · unfold lingerEnds afterRoomEvent
    exact congrArg (fun t => endEvent (recomposeAfter s r (dutyEdge (s.inDuty r) r t))) level
  · rw [room_of_re (moveRoom_re ..), room_onRoom, Room.moved_state run]; rfl
  · rw [room_of_re (moveRoom_re ..), room_onRoom, Room.moved_keeps, room_onRoom]; rfl

theorem lingerEnds_law {r : RoomId} {s : State} (runs : (s.room r).linger.isSome = true) : KeepsLaw s (lingerEnds r s) := by
  refine .of_spares fun law => ?_
  have before := law.occupancy.rooms r
  cases kind : (s.room r).state with
  | off => exact absurd kind (law.loaded_of_timer (t := Room.linger) rfl runs)
  | joined => rw [(before.joined kind).1] at runs; cases runs
  | run o =>
    have machine := before.run o kind
    obtain rfl := machine.linger.mp runs
    set y : Room := { s.room r with linger := none } with y_def
    have run : y.state = .run .linger := kind
    have gives : OccState.onLingerEnd (s.room r).phase .linger = (s.room r).phase.place := rfl
    refine oneRoom_law (y := y.moved (OccState.onLingerEnd (s.room r).phase)) law ?_ kind (Room.moved_state run)
      (by rw [Room.moved_keeps]) (Room.Lawful.moved run before.stillness ?_)
    · rw [lingerEnds_eq kind, endEvent_records, recomposeAfter_records, dutyEdge_records]
      refine State.records_eq_iff.mpr ⟨?_, congrArg Tu.rooms (moveRoom_work ..).tu⟩
      rw [moveRoom_re, onRoom_onRoom]
      rfl
    · rw [gives, if_neg (Phase.place_ne_linger _), lingerAfter, if_neg (Phase.place_ne_linger _)]
      have away : y.presence = false := machine.presence_of_ne nofun
      rw [away]
      exact OccLaw.of_place _

theorem suiteLingerEnds_law {g : SuiteId} {s : State} (runs : ((s.suite g).bind Suite.linger).isSome = true) :
    KeepsLaw s (suiteLingerEnds g s) := by
  refine .of_spares fun law => ?_
  obtain ⟨ms, timer⟩ := Option.isSome_iff_exists.mp runs
  obtain ⟨x, held, timer⟩ := Option.bind_eq_some_iff.mp timer
  have suite := law.occupancy.suites g x held
  cases occ : x.occ with
  | none => rw [(suite.split occ).1] at timer; cases timer
  | some o =>
    have machine := suite.machine o occ
    obtain rfl := machine.linger.mp (Option.isSome_of_eq_some timer)
    set u := onSuite g (fun x => { x with linger := none }) s with u_def
    have records : (suiteLingerEnds g s).records = (moveSuite g (OccState.onLingerEnd (s.effectivePhase g)) u).records := by
      rw [suiteLingerEnds, endEvent_records, recomposeMembers_records]; rfl
    obtain ⟨re, times⟩ := State.records_eq_iff.mp records
    have room (q : RoomId) : ∃ b, (suiteLingerEnds g s).room q = { s.room q with boost := b } ∧
        (s.room q = Room.off → b = false) := by
      rw [room_of_re re, moveSuite_room]
      exact vacated_record _ (s.room q)
    have here := (suite_of_re re g).trans (moveSuite_suite g g (OccState.onLingerEnd (s.effectivePhase g)) u)
    have heldHere : u.suite g = some { x with linger := none } := by rw [u_def, suite_onSuite, held]; rfl
    rw [if_pos rfl, heldHere, Option.map_some] at here
    have moved := Suite.moved_of_occ (x := { x with linger := none }) occ (OccState.onLingerEnd (s.effectivePhase g))
      (u.room (u.leadOf g)).cfg.lingerTime
    have members : (suiteLingerEnds g s).members g = s.members g := (suiteLingerEnds_work g s).members g
    refine oneSuite_law law held (Option.isSome_of_eq_some occ) here (Suite.moved_keeps ..).1 (by rw [moved]) (fun j ne => ?_)
      (fun q => ?_) (fun q => ?_) (fun q _ => ?_) (fun q empty => ?_) (congrArg Tu.rooms (suiteLingerEnds_work g s).tu) ?_
    · rw [suite_of_re re, moveSuite_suite, if_neg ne, u_def]
      exact suite_setSuite_ne ne _ s
    · obtain ⟨b, same, -⟩ := room q
      rw [same]; rfl
    · obtain ⟨b, same, -⟩ := room q
      rw [same]; exact (law.occupancy.rooms q).stillness
    · obtain ⟨b, same, -⟩ := room q
      rw [same]; exact ⟨rfl, rfl⟩
    · obtain ⟨b, same, off⟩ := room q
      rw [same, off empty, empty]; rfl
    · have presence : (suiteLingerEnds g s).suitePresence g = s.suitePresence g := suitePresence_congr members fun q _ => by
        obtain ⟨b, same, -⟩ := room q
        rw [same]; rfl
      have phase : (suiteLingerEnds g s).effectivePhase g = s.effectivePhase g := effectivePhase_congr members fun q _ => by
        obtain ⟨b, same, -⟩ := room q
        rw [same]
      have gives : OccState.onLingerEnd (s.effectivePhase g) .linger = (s.effectivePhase g).place := rfl
      rw [moved, presence, phase, gives, if_neg (Phase.place_ne_linger _), lingerAfter, if_neg (Phase.place_ne_linger _),
        machine.presence_of_ne nofun]
      exact OccLaw.of_place _

/-! ### Joining and splitting (R164, R165, R171) -/

/-- One change of a room's record after another, on rooms each of which it changes but once. -/
theorem forEach_rooms {f : RoomId → State → State} {F : Room → Room} (h : ∀ r s, (f r s).re = (onRoom r F s).re)
    (once : ∀ x, F (F x) = F x) (rs : List RoomId) (s : State) :
    (∀ q, (forEach rs f s).room q = if q ∈ rs then F (s.room q) else s.room q) ∧
      (∀ g, (forEach rs f s).suite g = s.suite g) := by
  induction rs generalizing s with
  | nil => exact ⟨fun _ => rfl, fun _ => rfl⟩
  | cons r rs ih =>
    obtain ⟨rooms, suites⟩ := ih (f r s)
    refine ⟨fun q => (rooms q).trans ?_, fun g => (suites g).trans (suite_of_re (h r s) g)⟩
    rw [room_of_re (h r s)]
    by_cases here : q = r
    · rw [here, room_onRoom, once, ite_self, if_pos List.mem_cons_self]
    · rw [room_onRoom_ne here]
      exact if_congr (by rw [List.mem_cons, or_iff_right here]) rfl rfl

/-- A room's record after it takes a state (R82). -/
def Room.entered (st : RoomState) (x : Room) : Room :=
  if x.state = st then x
  else if st = .run .vacant then { x with state := st, overrideScene := none, boost := false }
  else { x with state := st }

theorem setRoomState_re (r : RoomId) (st : RoomState) (s : State) :
    (setRoomState r st s).re = (onRoom r (Room.entered st) s).re := by
  by_cases same : (s.room r).state = st
  · rw [setRoomState, if_pos same, onRoom_self (by rw [Room.entered, if_pos same])]
  · simp only [setRoomState, if_neg same]
    split
    · rename_i vacant
      rw [enterVacant_re, onRoom_re r _ (raise_re ..), onRoom_onRoom]
      simp only [onRoom, Room.entered, if_neg same, if_pos vacant]
    · rename_i other
      rw [raise_re]
      simp only [onRoom, Room.entered, if_neg same, if_neg other]

/-- A member's record once its suite has joined (R165). -/
def Room.joins (x : Room) : Room := { x with state := .joined, linger := none, overrideScene := none }

/-- A member's record once its suite has split (R171). -/
def Room.splits (x : Room) : Room := x.entered (.run (reentry x.presence x.phase))

theorem Room.splits_of_joined {x : Room} (joined : x.state = .joined) (scene : x.overrideScene = none) : x.splits =
    let o := reentry x.presence x.phase
    { x with state := .run o, boost := if o = .vacant then false else x.boost } := by
  have ne : x.state ≠ .run (reentry x.presence x.phase) := by rw [joined]; exact nofun
  simp only [Room.splits, Room.entered, if_neg ne, RoomState.run.injEq]
  split
  · rw [← scene]
  · rfl

theorem Room.splits_splits (x : Room) : x.splits.splits = x.splits := by
  have state (x : Room) (st : RoomState) : (x.entered st).state = st ∧ (x.entered st).presence = x.presence ∧
      (x.entered st).phase = x.phase := by
    unfold Room.entered
    split
    · rename_i same
      exact ⟨same, rfl, rfl⟩
    · split <;> exact ⟨rfl, rfl, rfl⟩
  obtain ⟨takes, presence, phase⟩ := state x (.run (reentry x.presence x.phase))
  rw [Room.splits, Room.splits, presence, phase]
  exact if_pos takes

theorem joinMember_re (r : RoomId) (s : State) : (joinMember r s).re = (onRoom r Room.joins s).re := by
  have left : (if s.inDuty r then onAir r RoomAir.leaveDuty s else s).re = s.re := by split <;> rfl
  unfold joinMember
  dsimp only
  rw [(clearOverrides_only ..).re, onRoom_re r _ (setRoomState_re ..), onRoom_onRoom, onRoom_re r _ left]
  have record : (fun x => { Room.entered .joined x with linger := none, overrideScene := none }) = Room.joins := by
    funext x
    unfold Room.entered Room.joins
    split
    · rename_i same
      rw [← same]
    · rw [if_neg nofun]
  exact congrArg (fun f => (onRoom r f s).re) record

theorem splitMember_re (r : RoomId) (s : State) : (splitMember r s).re = (onRoom r Room.splits s).re := by
  unfold splitMember
  dsimp only
  rw [(recompose_only ..).re, dutyEdge_re, (clearOverrides_only ..).re, setRoomState_re]
  rfl

section
variable {g : SuiteId} {x : Suite} {s : State} (held : s.suite g = some x)
include held

theorem joinSuite_room (q : RoomId) : (joinSuite g s).room q = if q ∈ x.members then (s.room q).joins else s.room q := by
  unfold joinSuite
  rw [(recomposeMembers_only ..).room, room_onSuite, members_of_suite held]
  exact (forEach_rooms joinMember_re (fun _ => rfl) x.members s).1 q

theorem splitSuite_room (q : RoomId) : (splitSuite g s).room q = if q ∈ x.members then (s.room q).splits else s.room q := by
  unfold splitSuite
  rw [members_of_suite held]
  exact (forEach_rooms splitMember_re Room.splits_splits x.members _).1 q

theorem joinSuite_suite (k : SuiteId) : (joinSuite g s).suite k = if k = g then some { x with
    occ := some (reentry (s.suitePresence g) (s.effectivePhase g))
    seen := x.members.any fun r => (s.room r).seen, linger := none } else s.suite k := by
  obtain ⟨rooms, suites⟩ := forEach_rooms joinMember_re (fun _ => rfl) x.members s
  have members : (forEach x.members joinMember s).members g = x.members := members_of_suite ((suites g).trans held)
  have seen : (fun r => ((forEach x.members joinMember s).room r).seen) = fun r => (s.room r).seen := funext fun r => by
    rw [rooms]
    split <;> rfl
  have presence : (forEach x.members joinMember s).suitePresence g = s.suitePresence g :=
    suitePresence_congr (members.trans (members_of_suite held).symm) fun r _ => by
      rw [rooms]
      split <;> rfl
  have phase : (forEach x.members joinMember s).effectivePhase g = s.effectivePhase g :=
    effectivePhase_congr (members.trans (members_of_suite held).symm) fun r _ => by
      rw [rooms]
      split <;> rfl
  unfold joinSuite
  simp only [(recomposeMembers_only ..).suite, members_of_suite held, members, seen, presence, phase]
  split
  · rename_i here
    rw [here, suite_onSuite, suites, held]; rfl
  · rename_i other
    exact (suite_setSuite_ne other _ _).trans (suites k)

theorem splitSuite_suite (k : SuiteId) : (splitSuite g s).suite k =
    if k = g then some { x with occ := none, seen := false, linger := none } else s.suite k := by
  unfold splitSuite
  rw [members_of_suite held, (forEach_rooms splitMember_re Room.splits_splits x.members _).2]
  split
  · rename_i here
    rw [here, suite_onSuite, held]; rfl
  · rename_i other
    exact suite_setSuite_ne other _ _

/-- A suite's members take lawful records of another kind with the suite's partition, and nothing else moves. -/
theorem partition_law {t : State} {x' : Suite} (law : s.Lawful) (here : t.suite g = some x') (same : x'.members = x.members)
    (others : ∀ k, k ≠ g → t.suite k = s.suite k) (away : ∀ q, q ∉ x.members → t.room q = s.room q)
    (members : ∀ q ∈ x.members, (t.room q).suite = (s.room q).suite ∧ (t.room q).state ≠ .off ∧
      ((t.room q).state = .joined ↔ x'.occ.isSome = true) ∧ (t.room q).Lawful)
    (times : t.tu.rooms = s.tu.rooms)
    (machine : ∀ o, x'.occ = some o → OccLaw o (t.suitePresence g) (t.effectivePhase g) x'.linger)
    (split : x'.occ = none → x'.linger = none ∧ x'.seen = false) : SparesOff s t ∧ t.Occupancy := by
  obtain ⟨distinct, size, member, -, -⟩ := law.occupancy.suites g x held
  have suite (q : RoomId) : (t.room q).suite = (s.room q).suite := by
    by_cases mem : q ∈ x.members
    · exact (members q mem).1
    · rw [away q mem]
  refine ⟨⟨fun q => ?_, fun q empty => away q fun mem => ?_, fun q _ _ => by simp only [State.time, times]⟩,
    fun q => ?_, fun k y held' => ?_, fun q k named => ?_, fun q joined => ?_⟩
  · by_cases mem : q ∈ x.members
    · exact iff_of_false (members q mem).2.1 (member q mem).2.1
    · rw [away q mem]
  · exact (member q mem).2.1 (by rw [empty]; rfl)
  · by_cases mem : q ∈ x.members
    · exact (members q mem).2.2.2
    · rw [away q mem]; exact law.occupancy.rooms q
  · by_cases e : k = g
    · subst e
      obtain rfl := Option.some.inj (here.symm.trans held')
      refine ⟨same ▸ distinct, same ▸ size, fun q mem => ?_, machine, split⟩
      rw [same] at mem
      obtain ⟨named, loaded, joined, -⟩ := members q mem
      exact ⟨named.trans (member q mem).1, loaded, joined⟩
    · rw [others k e] at held'
      obtain ⟨distinct', size', member', machine', split'⟩ := law.occupancy.suites k y held'
      have apart (q : RoomId) (mem : q ∈ y.members) : t.room q = s.room q := away q fun mine =>
        e (Option.some.inj ((member' q mem).1.symm.trans (member q mine).1))
      have list : t.members k = s.members k := by rw [State.members, others k e, ← State.members]
      have listed := members_of_suite held'
      refine ⟨distinct', size', fun q mem => by rw [apart q mem]; exact member' q mem, fun o occ => ?_, split'⟩
      rw [suitePresence_congr list fun q mem => by rw [apart q (listed ▸ mem)],
        effectivePhase_congr list fun q mem => by rw [apart q (listed ▸ mem)]]
      exact machine' o occ
  · rw [suite] at named
    obtain ⟨y, held', mem⟩ := law.occupancy.membership q k named
    by_cases e : k = g
    · subst e
      obtain rfl := Option.some.inj (held.symm.trans held')
      exact ⟨x', here, same ▸ mem⟩
    · exact ⟨y, (others k e).trans held', mem⟩
  · rw [suite]
    by_cases mem : q ∈ x.members
    · rw [(member q mem).1]; exact nofun
    · rw [away q mem] at joined
      exact law.occupancy.joined q joined

theorem joinSuite_law (split : x.occ = none) : KeepsLaw s (joinSuite g s) := by
  refine .of_spares fun law => ?_
  have room := joinSuite_room held
  have list : (joinSuite g s).members g = s.members g := (joinSuite_work g s).members g
  refine partition_law held law (x' := { x with
    occ := some (reentry (s.suitePresence g) (s.effectivePhase g))
    seen := x.members.any fun r => (s.room r).seen, linger := none }) (by rw [joinSuite_suite held, if_pos rfl]) rfl
    (fun k ne => by rw [joinSuite_suite held, if_neg ne]) (fun q away => by rw [room, if_neg away]) (fun q mem => ?_)
    (congrArg Tu.rooms (joinSuite_work g s).tu) (fun o occ => ?_) nofun
  · rw [room, if_pos mem]
    exact ⟨rfl, nofun, iff_of_true rfl rfl, fun _ run => RoomState.noConfusion run, fun _ => ⟨rfl, rfl⟩,
      (law.occupancy.rooms q).stillness⟩
  · obtain rfl := Option.some.inj occ
    have presence : (joinSuite g s).suitePresence g = s.suitePresence g := suitePresence_congr list fun q _ => by
      rw [room]
      split <;> rfl
    have phase : (joinSuite g s).effectivePhase g = s.effectivePhase g := effectivePhase_congr list fun q _ => by
      rw [room]
      split <;> rfl
    rw [presence, phase]
    exact OccLaw.of_reentry _ _

theorem splitSuite_law (joined : x.occ.isSome = true) : KeepsLaw s (splitSuite g s) := by
  refine .of_spares fun law => ?_
  have room := splitSuite_room held
  refine partition_law held law (x' := { x with occ := none, seen := false, linger := none })
    (by rw [splitSuite_suite held, if_pos rfl]) rfl
    (fun k ne => by rw [splitSuite_suite held, if_neg ne]) (fun q away => by rw [room, if_neg away]) (fun q mem => ?_)
    (congrArg Tu.rooms (splitSuite_work g s).tu) nofun fun _ => ⟨rfl, rfl⟩
  have before := law.occupancy.rooms q
  have member := ((law.occupancy.suites g x held).member q mem).2.2.mpr joined
  obtain ⟨linger, scene⟩ := before.joined member
  rw [room, if_pos mem, Room.splits_of_joined member scene]
  refine ⟨rfl, nofun, iff_of_false nofun nofun, fun o run => ?_, nofun, before.stillness⟩
  obtain rfl := RoomState.run.inj run
  have machine := OccLaw.of_reentry (s.room q).presence (s.room q).phase
  rwa [← linger] at machine

end

theorem partitionAction_law (opens : Bool) (g : SuiteId) (s : State) : KeepsLaw s (partitionAction opens g s) := by
  unfold partitionAction
  split
  · exact .refl s
  · rename_i x held
    split
    · rename_i joins
      exact (joinSuite_law held (Option.isNone_iff_eq_none.mp (Bool.and_eq_true_iff.mp joins).2)).trans
        (.of_same (endEvent_records _))
    · split
      · rename_i splits
        exact (splitSuite_law held (Bool.and_eq_true_iff.mp splits).2).trans (.of_same (endEvent_records _))
      · exact .refl s

end Sys2Proof.Machine
end

section
/-!
PROOFS. The law of rooms and suites through the timetable (R90 to R93, R105 to R115): cursors and release records change, and what is
learned of them reaches the rooms as phase reports.
-/

namespace Sys2Proof.Machine

/-- TU's records change, and no empty record of an OFF room. -/
theorem KeepsLaw.of_times {s t : State} (re : t.re = s.re)
    (times : ∀ r, (s.room r).state = .off → s.time r = RoomTime.empty → t.time r = s.time r) : KeepsLaw s t :=
  .of_spares fun law => ⟨⟨fun r => by rw [room_of_re re], fun r _ => room_of_re re r, times⟩, law.occupancy.congr re⟩

/-- The record of a loaded room changes. -/
theorem onTime_law {r : RoomId} {s : State} (f : RoomTime → RoomTime) (loaded : (s.room r).state ≠ .off) :
    KeepsLaw s (onTime r f s) :=
  .of_times rfl fun q off _ => time_onTime_ne (fun e : q = r => loaded (e ▸ off)) f s

theorem clearReleases_law (p : Occurrence → Bool) (s : State) : KeepsLaw s (clearReleases p s) := by
  refine .of_times rfl fun r _ idle => ?_
  have cleared : (clearReleases p s).time r = { s.time r with released := (s.time r).released.filter fun o => !p o } := by
    simp only [State.time, clearReleases, look_map]
  rw [cleared, idle]
  rfl

theorem removeBookings_law (p : Booking → Bool) (s : State) : KeepsLaw s (removeBookings p s) :=
  .trans (b := { s with tu := { s.tu with store := s.tu.store.filter fun b => !p b } }) (.of_same rfl) (clearReleases_law _ _)

theorem giveCursor_law {r : RoomId} {s : State} (found : Option (Booking × Nat)) (loaded : (s.room r).state ≠ .off) :
    KeepsLaw s (giveCursor r found s) :=
  (onTime_law _ loaded).trans (phaseReport_law r _ _ _)

/-- Work on a room that is not OFF follows work that takes no room to OFF. -/
theorem KeepsLaw.then_loaded {s t u : State} {r : RoomId} (h : KeepsLaw s t) (law : s.Lawful) (loaded : (s.room r).state ≠ .off)
    (k : (t.room r).state ≠ .off → KeepsLaw t u) : KeepsLaw s u :=
  h.trans (k fun off => loaded ((h.off law r).mp off))

/-- A room with a cursor is not OFF. -/
theorem State.Lawful.loaded_of_cursor {s : State} (h : s.Lawful) {r : RoomId} {c : Cursor} (held : (s.time r).cursor = some c) :
    (s.room r).state ≠ .off := by
  intro off
  rw [(h.off r off).2] at held; cases held

theorem passOccurrence_law (early : Bool) (r : RoomId) (s : State) : KeepsLaw s (passOccurrence early r s) := by
  refine .of_lawful fun law => ?_
  unfold passOccurrence
  split
  · exact .refl s
  · rename_i c held
    split
    · exact .refl s
    · have loaded := law.loaded_of_cursor held
      dsimp only
      have noted : KeepsLaw s (if early then onTime r (fun t => { t with released := some c.occ }) s else s) :=
        .ite (onTime_law _ loaded) (.refl s)
      have cleaned (p : Booking → Bool) (c : Prop) [Decidable c] (t : State) :
          KeepsLaw t (if c then removeBookings p t else t) := .ite (removeBookings_law p t) (.refl t)
      exact (noted.trans (cleaned ..)).then_loaded law loaded (giveCursor_law _)

theorem reselect_law (changed : Option Nat) (r : RoomId) (s : State) : KeepsLaw s (reselect changed r s) := by
  unfold reselect
  split
  · exact .refl s
  · rename_i loaded
    split
    · exact .refl s
    · exact .ite (.refl s) (giveCursor_law _ loaded)
    · exact giveCursor_law _ loaded

theorem takeMark_law (r : RoomId) (o : Occurrence) (k : MarkName) (s : State) : KeepsLaw s (takeMark r o k s).1 := by
  have reported (p : Phase) : KeepsLaw s (markPhase r p s) := phaseReport_law r p _ s
  cases k with
  | prep => exact reported .prep
  | start => exact reported .on
  | confirm =>
    unfold takeMark
    dsimp only
    split
    · exact .refl s
    · exact .trans (b := raise .noShow r s) (.of_same (raise_records ..)) (passOccurrence_law true r _)
  | finish =>
    unfold takeMark
    dsimp only
    split
    · exact passOccurrence_law false r s
    · exact reported .lag
  | release => exact passOccurrence_law false r s

theorem takeMarks_law (r : RoomId) (minute week : Nat) (ks : List MarkName) (s : State) :
    KeepsLaw s (takeMarks r minute week ks s) := by
  induction ks generalizing s with
  | nil => exact .refl s
  | cons k ks ih =>
    unfold takeMarks
    split
    · exact .refl s
    · rename_i c held
      split
      · refine .of_lawful fun law => ?_
        have taken : KeepsLaw s (endEvent (takeMark r c.occ k
            (onTime r (fun t => { t with cursor := some { c with marks := c.marks.spend k } }) s)).1) :=
          ((onTime_law _ (law.loaded_of_cursor held)).trans (takeMark_law ..)).trans (.of_same (endEvent_records _))
        exact .ite taken (taken.trans (ih _))
      · exact ih s

/-- The rooms a timetable event visits are not OFF. -/
theorem loaded_of_mem {s : State} : ∀ r ∈ s.loadedRooms, (s.room r).state ≠ .off := by
  intro r mem off
  have loaded := (List.mem_filter.mp mem).2
  rw [Room.loaded, off] at loaded
  cases loaded

theorem selectIfNone_law {r : RoomId} {s : State} (loaded : (s.room r).state ≠ .off) : KeepsLaw s (selectIfNone r s) := by
  unfold selectIfNone
  split
  · exact (giveCursor_law _ loaded).trans (.of_same (endEvent_records _))
  · exact .refl s

theorem weekBoundary_law (ended : Nat) (s : State) : KeepsLaw s (weekBoundary ended s) :=
  ((removeBookings_law _ s).trans (clearReleases_law _ _)).trans
    (.forEachFree_loaded (fun _ _ => selectIfNone_law) loaded_of_mem)

theorem minutePasses_law (c : Clock) (s : State) : KeepsLaw s (minutePasses c s) :=
  .trans (b := { s with tu := { s.tu with clock := some c.nextMinute } }) (.of_same rfl)
    (.trans (.ite (weekBoundary_law _ _) (.refl _)) (.forEachFree (fun r => takeMarks_law r _ _ allMarks) _ _))

theorem setClock_law (c : Clock) (s : State) : KeepsLaw s (setClock c s) := by
  have cleaned : KeepsLaw s _ := .trans (b := replaceClock c s) (.of_same rfl)
    ((removeBookings_law (fun b => match b.week with | some w => decide (w < c.week) | none => false) _).trans
      (clearReleases_law (fun _ => true) _))
  refine cleaned.trans (.trans ?_ (.of_same ((endEvent_records _).trans (writeWing_records _ _))))
  exact .forEachFree_loaded (fun r t loaded => giveCursor_law (t.select r) loaded) loaded_of_mem

end Sys2Proof.Machine
end

section
/-!
PROOFS. The law of rooms and suites through the requests of the room engine (R85 to R89, R161 to R163, R191 to R194).
-/

namespace Sys2Proof.Machine

/-! ### Rooms in and out of service (R86, R87, R89) -/

/-- The rooms keep their standing, presence and phase, and the suites everything. -/
theorem steady_law {s t : State} (suites : ∀ g, t.suite g = s.suite g) (standing : ∀ r, (t.room r).standing = (s.room r).standing)
    (same : ∀ r, (t.room r).presence = (s.room r).presence ∧ (t.room r).phase = (s.room r).phase)
    (still : ∀ r, (s.room r).Still → (t.room r).Still) (spares : ∀ r, s.room r = Room.off → t.room r = s.room r)
    (times : t.tu.rooms = s.tu.rooms) : KeepsLaw s t := by
  have state (r : RoomId) : (t.room r).state = (s.room r).state := (Room.standing_eq_iff.mp (standing r)).1
  have form : SameForm s t :=
    ⟨fun r => by rw [state], fun r => (Room.standing_eq_iff.mp (standing r)).2.1, fun g => by rw [suites]⟩
  refine .of_spares fun law => ⟨⟨fun r => by rw [state], spares, fun r _ _ => by simp only [State.time, times]⟩,
    form.occupancy law.occupancy (fun r => ?_) (fun g x o held occ => ?_) fun g x held occ => ?_⟩
  · exact (law.occupancy.rooms r).of_standing (standing r) (still r (law.occupancy.rooms r).stillness) fun _ => same r
  · rw [suites] at held
    rw [suitePresence_congr (form.members g) fun r _ => (same r).1, effectivePhase_congr (form.members g) fun r _ => (same r).2]
    exact (law.occupancy.suites g x held).machine o occ
  · rw [suites] at held
    exact (law.occupancy.suites g x held).split occ

/-- A room in no suite takes another record with the law, in no suite either, and nothing else moves. -/
theorem loneRoom_law {s t : State} {r : RoomId} {y : Room} (law : s.Lawful) (re : t.re = (onRoom r (fun _ => y) s).re)
    (alone : (s.room r).suite = none) (suite : y.suite = none) (own : y.state ≠ .joined) (lawful : y.Lawful)
    (off : y.state = .off → y = Room.off ∧ t.time r = RoomTime.empty) (times : ∀ q, q ≠ r → t.time q = s.time q) : t.Lawful := by
  have here : t.room r = y := (room_of_re re r).trans (room_onRoom r _ s)
  have there (q : RoomId) (ne : q ≠ r) : t.room q = s.room q := (room_of_re re q).trans (room_onRoom_ne ne _ s)
  have suites (g : SuiteId) : t.suite g = s.suite g := suite_of_re re g
  refine ⟨⟨fun q => ?_, fun g x held => ?_, fun q g named => ?_, fun q joined => ?_⟩, fun q empty => ?_⟩
  · by_cases e : q = r
    · rw [e, here]; exact lawful
    · rw [there q e]; exact law.occupancy.rooms q
  · rw [suites] at held
    obtain ⟨distinct, size, member, machine, split⟩ := law.occupancy.suites g x held
    have apart (q : RoomId) (mem : q ∈ x.members) : t.room q = s.room q := there q fun e => by
      have named := (member q mem).1
      rw [e, alone] at named; cases named
    have list : t.members g = s.members g := by rw [State.members, suites, ← State.members]
    have listed := members_of_suite held
    refine ⟨distinct, size, fun q mem => by rw [apart q mem]; exact member q mem, fun o occ => ?_, split⟩
    rw [suitePresence_congr list fun q mem => by rw [apart q (listed ▸ mem)],
      effectivePhase_congr list fun q mem => by rw [apart q (listed ▸ mem)]]
    exact machine o occ
  · by_cases e : q = r
    · rw [e, here, suite] at named; cases named
    · rw [there q e] at named
      rw [suites]
      exact law.occupancy.membership q g named
  · by_cases e : q = r
    · rw [e, here] at joined
      exact absurd joined own
    · rw [there q e] at joined ⊢
      exact law.occupancy.joined q joined
  · by_cases e : q = r
    · rw [e, here] at empty ⊢
      exact off empty
    · rw [there q e] at empty
      rw [there q e, times q e]
      exact law.off q empty

/-- A room's record as LOAD ROOM configures it and catch-up reports to it, before it has a state (R86). -/
def Room.configured (cfg : RoomConfig) (p : Phase) (k : Option Booking) : Room :=
  Room.storePhase p k { Room.off with cfg := cfg }

theorem Room.entered_state (st : RoomState) (x : Room) : (x.entered st).state = st := by
  unfold Room.entered
  split
  · assumption
  · split <;> rfl

/-- Entering a state leaves a room's suite, evidence, timers and phase. -/
theorem Room.entered_keeps (st : RoomState) (x : Room) : x.entered st = { x with
    state := st, overrideScene := (x.entered st).overrideScene, boost := (x.entered st).boost } := by
  unfold Room.entered
  split
  · rename_i same
    rw [← same]
  · split <;> rfl

/-- A room enters the state its presence and phase give. -/
theorem Room.Lawful.entered_reentry {x : Room} (linger : x.linger = none) (still : x.Still) :
    (x.entered (.run (reentry x.presence x.phase))).Lawful := by
  rw [Room.entered_keeps]
  refine ⟨fun o run => ?_, nofun, still⟩
  obtain rfl := RoomState.run.inj run
  dsimp only
  rw [linger]
  exact OccLaw.of_reentry _ _

/-- The record of a room that has come into service (R86). -/
def Room.placed (cfg : RoomConfig) (p : Phase) (k : Option Booking) : Room :=
  let y := Room.configured cfg p k
  y.entered (.run (reentry y.presence y.phase))

theorem onAir_records (r : RoomId) (f : RoomAir → RoomAir) (s : State) : (onAir r f s).records = s.records := rfl

theorem onNotice_records (r : RoomId) (f : RoomNotice → RoomNotice) (s : State) : (onNotice r f s).records = s.records := rfl

theorem unlist_records (r : RoomId) (s : State) : (unlist r s).records = s.records := rfl

theorem writeNotice_records (x : RoomLoad) (s : State) : (writeNotice x s).records = s.records := rfl

/-- A room whose records stand ready for catch-up (R86, R126, R173). -/
def intoService (x : RoomLoad) (s : State) : State :=
  onAir x.room (fun _ => RoomAir.initial) (writeNotice x (onRoom x.room (fun _ => { Room.off with cfg := x.cfg }) s))

/-- Catch-up of the room that comes into service. -/
def foundInService (x : RoomLoad) (s : State) : Option Cursor × Phase × Option Booking :=
  catchUp (intoService x s).tu.clock ((intoService x s).select x.room)

/-- The room with its cursor and phase, in the state these give it (R86). -/
def roomPlaced (x : RoomLoad) (s : State) : State :=
  let c := foundInService x s
  let t := onRoom x.room (Room.storePhase c.2.1 c.2.2) (onTime x.room (fun t => { t with cursor := c.1 }) (intoService x s))
  setRoomState x.room (.run (reentry (t.room x.room).presence (t.room x.room).phase)) t

theorem roomIntoService_eq (x : RoomLoad) (s : State) :
    roomIntoService x s = endEvent (recompose x.room (dutyEdge false x.room (roomPlaced x s))) := rfl

theorem roomPlaced_re (x : RoomLoad) (s : State) : (roomPlaced x s).re =
    (onRoom x.room (fun _ => Room.placed x.cfg (foundInService x s).2.1 (foundInService x s).2.2) s).re := by
  unfold roomPlaced
  have record : (onTime x.room (fun t => { t with cursor := (foundInService x s).1 }) (intoService x s)).room x.room =
      { Room.off with cfg := x.cfg } := room_onRoom x.room (fun _ => { Room.off with cfg := x.cfg }) s
  have ready : (onTime x.room (fun t => { t with cursor := (foundInService x s).1 }) (intoService x s)).re =
      (onRoom x.room (fun _ => { Room.off with cfg := x.cfg }) s).re := rfl
  rw [setRoomState_re, onRoom_onRoom, room_onRoom, record, onRoom_re x.room _ ready, onRoom_onRoom]
  rfl

theorem roomPlaced_tu (x : RoomLoad) (s : State) : (roomPlaced x s).tu =
    (onTime x.room (fun t => { t with cursor := (foundInService x s).1 }) s).tu := (setRoomState_work ..).tu

theorem roomIntoService_records (x : RoomLoad) (s : State) : (roomIntoService x s).records = (roomPlaced x s).records := by
  rw [roomIntoService_eq, endEvent_records, recompose_records, dutyEdge_records]

theorem roomIntoService_law {x : RoomLoad} {s : State} (off : (s.room x.room).state = .off) (law : s.Lawful) :
    (roomIntoService x s).Lawful := by
  obtain ⟨re, times⟩ := State.records_eq_iff.mp (roomIntoService_records x s)
  have state : (Room.placed x.cfg (foundInService x s).2.1 (foundInService x s).2.2).state = .run _ := Room.entered_state _ _
  refine loneRoom_law law (re.trans (roomPlaced_re x s)) ?_ ?_ (by rw [state]; exact nofun) ?_ ?_ fun q ne => ?_
  · rw [(law.off x.room off).1]; rfl
  · rw [Room.placed, Room.entered_keeps, Room.configured, storePhase_eq]; rfl
  · refine Room.Lawful.entered_reentry ?_ (storePhase_still _ _ (Room.still_of_none rfl))
    rw [Room.configured, storePhase_eq]; rfl
  · rw [state]; exact nofun
  · rw [State.time, times, roomPlaced_tu]
    exact time_onTime_ne ne _ s

theorem reloadRoom_law {x : RoomLoad} {s : State} (loaded : (s.room x.room).state ≠ .off) : KeepsLaw s (reloadRoom x s) := by
  have composed (t : State) : (recomposeFrom x.room t).records = t.records := by
    unfold recomposeFrom
    split
    · exact recomposeMembers_records _ t
    · exact recompose_records _ t
  have records : (reloadRoom x s).records =
      (onRoom x.room (fun y => { y with cfg := x.cfg, aboveCapacity := decide (x.cfg.capacity < y.head) }) s).records := by
    rw [reloadRoom, endEvent_records, composed, overcrowdTest_records,
      onRoom_records x.room _ (writeNotice_records x _), onRoom_onRoom]
    rfl
  obtain ⟨re, times⟩ := State.records_eq_iff.mp records
  have room (q : RoomId) : ∃ cfg above, (reloadRoom x s).room q = { s.room q with cfg := cfg, aboveCapacity := above } ∧
      (s.room q = Room.off → (reloadRoom x s).room q = s.room q) := by
    rw [room_of_re re]
    by_cases e : q = x.room
    · rw [e, room_onRoom]
      exact ⟨_, _, rfl, fun off => absurd (congrArg Room.state off) loaded⟩
    · rw [room_onRoom_ne e]
      exact ⟨_, _, rfl, fun _ => rfl⟩
  refine steady_law (fun g => suite_of_re re g) (fun q => ?_) (fun q => ?_) (fun q still => ?_) (fun q off => ?_) times
  all_goals obtain ⟨cfg, above, same, spared⟩ := room q
  · rw [same]; rfl
  · rw [same]; exact ⟨rfl, rfl⟩
  · rw [same]; exact still
  · exact spared off

theorem loadRoomWork_law (x : RoomLoad) {s : State} (law : s.Lawful) :
    (if (s.room x.room).state = .off then roomIntoService x s else reloadRoom x s).Lawful := by
  split
  · rename_i off
    exact roomIntoService_law off law
  · rename_i loaded
    exact (reloadRoom_law loaded).law law

theorem flushNode_records (n : NodeRef) (s : State) : (flushNode n s).records = s.records := (flushNode_only n s).records

theorem disableRoomWork_law {r : RoomId} {s : State} (alone : (s.room r).suite = none) (law : s.Lawful) :
    (disableRoomWork r s).Lawful := by
  have renewed (t : State) : (renewPlans r t).records = t.records :=
    forEach_records (fun n u => by split <;> rfl) _ t
  have records : (disableRoomWork r s).records =
      (onTime r (fun _ => RoomTime.empty) (onRoom r (fun _ => Room.off) s)).records := by
    unfold disableRoomWork
    dsimp only
    rw [endEvent_records, unlist_records, onNotice_records, onAir_records, renewed, forEach_records flushNode_records]
  obtain ⟨re, times⟩ := State.records_eq_iff.mp records
  refine loneRoom_law law (y := Room.off) re alone rfl nofun
    ⟨fun _ run => RoomState.noConfusion run, fun joined => RoomState.noConfusion joined, Room.still_of_none rfl⟩
    (fun _ => ⟨rfl, ?_⟩) fun q ne => ?_
  · rw [State.time, times]
    exact time_onTime r _ _
  · rw [State.time, times]
    exact time_onTime_ne ne _ _

end Sys2Proof.Machine
end

section
/-!
PROOFS. The law of rooms and suites through RESTORE ROOM, LOAD SUITE and DROP SUITE (R161 to R163, R191 to R194).
-/

namespace Sys2Proof.Machine

/-! ### RESTORE ROOM (R192, R193) -/

theorem restored_eq (c : Context) (k : Option Booking) (x : Room) : x.restored c k =
    { x with
      state := c.state, phase := c.phase, cursorKind := k.map Booking.kind, bookingScene := k.map Booking.scene
      seen := c.seen, head := c.head, aboveCapacity := decide (x.cfg.capacity < c.head)
      motionHold := c.motionHold.bind seconds, stillness := (x.restored c k).stillness
      linger := c.linger.bind seconds, boost := c.boost, overrideScene := c.overrideScene } :=
  Room.startStillness_eq _

theorem isSome_bind_seconds (n : Option Nat) : (n.bind seconds).isSome = n.isSome := by
  cases n <;> rfl

/-- What the context checks say of presence and the timers (R192). -/
theorem evidenceOk_iff {c : Context} {exam : Bool} (h : c.evidenceOk exam = true) :
    (c.state = .run .occupied ↔ (c.motionHold.isSome || decide (0 < c.head)) = true) ∧
      (c.linger.isSome = true ↔ c.state = .run .linger) ∧
      (c.stillness.isSome = true → 0 < c.head ∧ c.motionHold = none ∧ (c.phase == .on && exam) = false) := by
  simp only [Context.evidenceOk, Bool.and_eq_true, Bool.or_eq_true, beq_iff_eq, decide_eq_true_eq, Bool.not_eq_true',
    Option.isNone_iff_eq_none] at h
  obtain ⟨⟨⟨⟨⟨⟨-, presence⟩, linger⟩, stillness⟩, -⟩, -⟩, -⟩ := h
  refine ⟨?_, by rw [linger, decide_eq_true_eq], fun runs => ?_⟩
  · by_cases occupied : c.state = .run .occupied
    · simpa [occupied] using presence
    · rw [if_neg occupied] at presence
      simp only [Bool.and_eq_true, Option.isNone_iff_eq_none, decide_eq_true_eq] at presence
      obtain ⟨moved, heads⟩ := presence
      simp [occupied, moved, heads]
  · obtain stopped | ⟨⟨heads, moved⟩, free⟩ := stillness
    · rw [stopped] at runs; cases runs
    · exact ⟨heads, moved, free⟩

/-- What the context checks say of the state against the phase (R192). -/
theorem run_of_stateOk {c : Context} (h : c.stateOk = true) : ∃ o, c.state = .run o ∧ (o = .preparing → c.phase = .prep) ∧
    (o = .expected → c.phase = .on) ∧ (o = .vacant → c.phase = .idle ∨ c.phase = .lag) := by
  unfold Context.stateOk at h
  split at h <;> simp_all

theorem restored_lawful {c : Context} {k : Option Booking} {x : Room} (stateOk : c.stateOk = true)
    (evidenceOk : c.evidenceOk (k.any fun b => b.kind == .exam) = true) : (x.restored c k).Lawful := by
  obtain ⟨o, run, preparing, expected, vacant⟩ := run_of_stateOk stateOk
  obtain ⟨presence, linger, stillness⟩ := evidenceOk_iff evidenceOk
  have still : (x.restored c k).Still := Room.startStillness_still fun runs => by
    obtain ⟨heads, moved, free⟩ := stillness (by rwa [isSome_bind_seconds] at runs)
    refine ⟨heads, by dsimp only; rw [moved]; rfl, ?_⟩
    rw [Room.suspended, ← free]
    cases k <;> rfl
  rw [restored_eq] at still ⊢
  refine ⟨fun o' own => ?_, fun joined => RoomState.noConfusion (run.symm.trans joined), still⟩
  obtain rfl := RoomState.run.inj (run.symm.trans own)
  refine ⟨preparing, expected, vacant, ?_, ?_⟩
  · rw [Room.presence, isSome_bind_seconds, ← presence, run, RoomState.run.injEq]
  · dsimp only
    rw [isSome_bind_seconds, linger, run, RoomState.run.injEq]

theorem setOverrides_records (os : List (NodeRef × Nat)) (s : State) : (setOverrides os s).records = s.records := by
  unfold setOverrides
  refine forEach_records (fun o t => ?_) os s
  rfl

theorem restoreRoomWork_law {r : RoomId} {c : Context} {s : State} (vacant : (s.room r).state = .run .vacant)
    (ok : s.contextOk r c = true) (law : s.Lawful) : (restoreRoomWork r c s).Lawful := by
  simp only [State.contextOk, Bool.and_eq_true] at ok
  obtain ⟨⟨⟨⟨⟨stateOk, -⟩, evidenceOk⟩, -⟩, -⟩, -⟩ := ok
  obtain ⟨o, run, -⟩ := run_of_stateOk stateOk
  have state : ((s.room r).restored c (s.contextBooking r c)).state = .run o := by rw [restored_eq]; exact run
  have room : KeepsLaw s (onRoom r (Room.restored c (s.contextBooking r c)) s) := .of_spares fun law =>
    oneRoom_law law rfl vacant state (by rw [restored_eq]) (restored_lawful stateOk evidenceOk)
  have time : KeepsLaw (onRoom r (Room.restored c (s.contextBooking r c)) s)
      (onTime r (fun _ => { cursor := s.contextCursor r c, released := none })
        (onRoom r (Room.restored c (s.contextBooking r c)) s)) :=
    onTime_law _ (by rw [room_onRoom, state]; exact nofun)
  refine ((room.trans time).law law).congr ?_
  unfold restoreRoomWork
  rw [endEvent_records, recompose_records, setOverrides_records, clearOverrides_records, dutyEdge_records]
  rfl

/-! ### LOAD SUITE and DROP SUITE (R161 to R163) -/

/-- The rooms in a suite place change while it is SPLIT or empty, and nothing else moves. -/
theorem regroup_law {s t : State} {g : SuiteId} (law : s.Lawful) (idle : s.suiteOcc g = none)
    (others : ∀ k, k ≠ g → t.suite k = s.suite k)
    (room : ∀ q, t.room q = { s.room q with
      suite := if q ∈ t.members g then some g else if q ∈ s.members g then none else (s.room q).suite })
    (times : t.tu.rooms = s.tu.rooms) (free : ∀ q ∈ t.members g, (s.room q).state ≠ .off ∧ ∀ k, (s.room q).suite = some k → k = g)
    (here : ∀ y, t.suite g = some y → y.members.Nodup ∧ (y.members.length = 2 ∨ y.members.length = 3) ∧ y.occ = none ∧
      y.linger = none ∧ y.seen = false) : t.Lawful := by
  have state (q : RoomId) : (t.room q).state = (s.room q).state := by rw [room]
  have own (q : RoomId) (mem : q ∈ t.members g ∨ q ∈ s.members g) : (s.room q).state ≠ .joined := fun joined => by
    obtain ⟨k, x, o, named, held, -, occ⟩ := law.occupancy.suite_of_joined joined
    have same : k = g := by
      obtain mem | mem := mem
      · exact (free q mem).2 k named
      · cases before : s.suite g with
        | none => rw [State.members, before] at mem; cases mem
        | some z =>
          rw [members_of_suite before] at mem
          exact Option.some.inj (named.symm.trans ((law.occupancy.suites g z before).member q mem).1)
    rw [← same, suiteOcc_of_suite held, occ] at idle
    cases idle
  have apart {k : SuiteId} (ne : k ≠ g) {q : RoomId} (named : (s.room q).suite = some k) : t.room q = s.room q := by
    have notNew : q ∉ t.members g := fun mem => ne ((free q mem).2 k named)
    have notOld : q ∉ s.members g := fun mem => by
      cases before : s.suite g with
      | none => rw [State.members, before] at mem; cases mem
      | some z =>
        rw [members_of_suite before] at mem
        exact ne (Option.some.inj (named.symm.trans ((law.occupancy.suites g z before).member q mem).1))
    rw [room, if_neg notNew, if_neg notOld]
  refine ⟨⟨fun q => ?_, fun k y held => ?_, fun q k named => ?_, fun q joined => ?_⟩, fun q off => ?_⟩
  · obtain ⟨run, joined, still⟩ := law.occupancy.rooms q
    rw [room]
    exact ⟨run, joined, still⟩
  · by_cases e : k = g
    · subst e
      obtain ⟨distinct, size, occ, rest⟩ := here y held
      have listed := members_of_suite held
      refine ⟨distinct, size, fun q mem => ?_, fun o run => (nomatch occ.symm.trans run), fun _ => rest⟩
      rw [← listed] at mem
      rw [state, occ]
      refine ⟨by rw [room, if_pos mem], (free q mem).1, iff_of_false (own q (.inl mem)) nofun⟩
    · rw [others k e] at held
      obtain ⟨distinct, size, member, machine, split⟩ := law.occupancy.suites k y held
      have kept (q : RoomId) (mem : q ∈ y.members) : t.room q = s.room q := apart e (member q mem).1
      have list : t.members k = s.members k := by rw [State.members, others k e, ← State.members]
      have listed := members_of_suite held
      refine ⟨distinct, size, fun q mem => by rw [kept q mem]; exact member q mem, fun o occ => ?_, split⟩
      rw [suitePresence_congr list fun q mem => by rw [kept q (listed ▸ mem)],
        effectivePhase_congr list fun q mem => by rw [kept q (listed ▸ mem)]]
      exact machine o occ
  · rw [room] at named
    dsimp only at named
    split at named
    · rename_i mem
      obtain rfl := Option.some.inj named
      cases held : t.suite g with
      | none => rw [State.members, held] at mem; cases mem
      | some y => exact ⟨y, rfl, members_of_suite held ▸ mem⟩
    · split at named
      · cases named
      · rename_i notOld
        obtain ⟨x, held, mem⟩ := law.occupancy.membership q k named
        have ne : k ≠ g := fun e => notOld (by rw [← e, members_of_suite held]; exact mem)
        exact ⟨x, (others k ne).trans held, mem⟩
  · rw [state] at joined
    rw [room, if_neg fun mem => own q (.inl mem) joined, if_neg fun mem => own q (.inr mem) joined]
    exact law.occupancy.joined q joined
  · rw [state] at off
    obtain ⟨empty, idle⟩ := law.off q off
    have alone : (s.room q).suite = none := by rw [empty]; rfl
    rw [State.time, times, room, if_neg fun mem => (free q mem).1 off, alone, ite_self]
    refine ⟨?_, idle⟩
    rw [empty]
    rfl

theorem setMembership_room (rs : List RoomId) (g : Option SuiteId) (q : RoomId) (s : State) :
    (setMembership rs g s).room q = if q ∈ rs then { s.room q with suite := g } else s.room q :=
  (forEach_rooms (F := fun x => { x with suite := g }) (fun _ _ => rfl) (fun _ => rfl) rs s).1 q

theorem setMembership_suite (rs : List RoomId) (g : Option SuiteId) (k : SuiteId) (s : State) :
    (setMembership rs g s).suite k = s.suite k :=
  (forEach_rooms (F := fun x => { x with suite := g }) (fun _ _ => rfl) (fun _ => rfl) rs s).2 k

theorem setMembership_times (rs : List RoomId) (g : Option SuiteId) (s : State) :
    (setMembership rs g s).tu.rooms = s.tu.rooms := by
  unfold setMembership
  refine forEach_keeps (fun t => t.tu.rooms) (fun r t => ?_) rs s
  rfl

theorem loadSuiteWork_law {g : SuiteId} {members : List RoomId} {adHoc : SceneNum} {s : State}
    (distinct : members.Nodup) (size : members.length = 2 ∨ members.length = 3) (free : s.suiteBlocked g members = false)
    (law : s.Lawful) : (loadSuiteWork g members adHoc s).Lawful := by
  simp only [State.suiteBlocked, Bool.or_eq_false_iff, List.any_eq_false, Bool.or_eq_true, beq_iff_eq, not_or,
    Option.any_eq_true, Option.any_eq_false] at free
  obtain ⟨rooms, place⟩ := free
  have here : (loadSuiteWork g members adHoc s).suite g = some
      { members := members, adHocScene := adHoc, occ := none, seen := false, linger := none } := suite_setSuite ..
  have listed := members_of_suite here
  refine regroup_law (g := g) law ?_ (fun k ne => ?_) (fun q => ?_) ?_ (fun q mem => ?_) fun y held => ?_
  · cases held : s.suite g with
    | none => rw [State.suiteOcc, held, Option.bind_none]
    | some x =>
      rw [suiteOcc_of_suite held]
      exact Option.isNone_iff_eq_none.mp (Option.isSome_eq_false_iff.mp (place x held).1)
  · rw [loadSuiteWork, suite_setSuite_ne ne, setMembership_suite, setMembership_suite]
  · have kept : (loadSuiteWork g members adHoc s).room q =
        (setMembership members (some g) (setMembership (s.members g) none s)).room q := rfl
    rw [kept, listed, setMembership_room, setMembership_room]
    split
    · split <;> rfl
    · split <;> rfl
  · exact (setMembership_times ..).trans (setMembership_times ..)
  · rw [listed] at mem
    obtain ⟨loaded, named⟩ := rooms q mem
    exact ⟨loaded, fun k e => not_not.mp fun ne => named ⟨k, e, bne_iff_ne.mpr ne⟩⟩
  · obtain rfl := Option.some.inj (here.symm.trans held)
    exact ⟨distinct, size, rfl, rfl, rfl⟩

theorem membersOf_sound {n a b c : Byte} {ms : List RoomId} (h : membersOf n a b c = some ms) :
    ms.Nodup ∧ (ms.length = 2 ∨ ms.length = 3) := by
  unfold membersOf at h
  split at h
  · split at h
    · rename_i test
      cases h
      simpa using test.2
    · cases h
  · split at h
    · rename_i test
      cases h
      simpa [and_assoc] using test
    · cases h
  · cases h

theorem suiteOf_sound {ps : List Byte} {x : SuiteId × List RoomId × SceneNum} (h : suiteOf ps = .ok x) :
    x.2.1.Nodup ∧ (x.2.1.length = 2 ∨ x.2.1.length = 3) := by
  unfold suiteOf at h
  split at h
  · split at h
    · rename_i members _
      cases h
      exact membersOf_sound members
    · cases h
  · cases h

/-- The place of a SPLIT suite is emptied (R163). -/
theorem emptyPlace_law {g : SuiteId} {s : State} (split : s.suiteOcc g = none) (law : s.Lawful) :
    (setSuite g none (setMembership (s.members g) none s)).Lawful := by
  have here : (setSuite g none (setMembership (s.members g) none s)).suite g = none := suite_setSuite ..
  have listed : (setSuite g none (setMembership (s.members g) none s)).members g = [] := by rw [State.members, here]
  refine regroup_law (g := g) law split (fun k ne => ?_) (fun q => ?_) (setMembership_times ..) (fun q mem => ?_) fun y held => ?_
  · rw [suite_setSuite_ne ne, setMembership_suite]
  · have kept : (setSuite g none (setMembership (s.members g) none s)).room q = (setMembership (s.members g) none s).room q := rfl
    rw [kept, listed, setMembership_room, if_neg List.not_mem_nil]
    split <;> rfl
  · rw [listed] at mem; cases mem
  · rw [here] at held; cases held

theorem dropSuiteWork_law (g : SuiteId) {s : State} (law : s.Lawful) : (dropSuiteWork g s).Lawful := by
  set t := if (s.suiteOcc g).isSome then splitSuite g s else s with t_def
  have split : KeepsLaw s t ∧ t.suiteOcc g = none ∧ t.members g = s.members g := by
    rw [t_def]
    split
    · rename_i joined
      obtain ⟨o, occ⟩ := Option.isSome_iff_exists.mp joined
      obtain ⟨x, held, -⟩ := Option.bind_eq_some_iff.mp occ
      refine ⟨splitSuite_law held ?_, ?_, (splitSuite_work g s).members g⟩
      · rwa [suiteOcc_of_suite held] at joined
      · rw [State.suiteOcc, splitSuite_suite held, if_pos rfl, Option.bind_some]
    · rename_i free
      exact ⟨.refl s, Option.not_isSome_iff_eq_none.mp free, rfl⟩
  obtain ⟨kept, idle, members⟩ := split
  set u := removeBookings (fun b => b.target == .suite g) t with u_def
  have emptied : (setSuite g none (setMembership (u.members g) none u)).Lawful :=
    emptyPlace_law idle ((removeBookings_law _ t).law (kept.law law))
  have listed : u.members g = s.members g := members
  rw [listed] at emptied
  exact ((KeepsLaw.forEachFree (reselect_law none) _ _).trans (.of_same (endEvent_records _))).law emptied

end Sys2Proof.Machine
end

section
/-!
PROOFS. The law of rooms and suites through the requests' owners, the commands, the crystal and the step (R62, R77, R160, R165 to
R168).
-/

namespace Sys2Proof.Machine

/-- What was lawful before is lawful after. -/
def PassesLaw (s t : State) : Prop := s.Lawful → t.Lawful

namespace PassesLaw

theorem of_same {s t : State} (same : t.records = s.records) : PassesLaw s t := fun law => law.congr same

theorem refl (s : State) : PassesLaw s s := id

theorem trans {s t u : State} (h : PassesLaw s t) (k : PassesLaw t u) : PassesLaw s u := fun law => k (h law)

theorem ite {c : Prop} [Decidable c] {s a b : State} (h : PassesLaw s a) (k : PassesLaw s b) :
    PassesLaw s (if c then a else b) := by
  split
  · exact h
  · exact k

end PassesLaw

theorem KeepsLaw.passes {s t : State} (h : KeepsLaw s t) : PassesLaw s t := h.law

/-- Work that ends with the building of NOTICE frames. -/
theorem KeepsLaw.thenEnds {s t : State} (h : KeepsLaw s t) : KeepsLaw s (endEvent t) := h.trans (.of_same (endEvent_records t))

/-! ### The owners' work -/

/-- Every state an owner answers with keeps the law of the state it was given. -/
def HandlerPassesLaw (h : Handler) : Prop := ∀ ps s t data, h ps s = .ok (t, data) → PassesLaw s t

/-- An owner whose answer is its parameters, tests that may refuse, and then a piece of work. -/
theorem HandlerPassesLaw.of_parsed {α : Type} {parse : List Byte → Except ResultCode α}
    {answer : α → State → Except ResultCode (State × List Byte)}
    (h : ∀ x s t data, (∃ ps, parse ps = .ok x) → answer x s = .ok (t, data) → PassesLaw s t) :
    HandlerPassesLaw fun ps s => parse ps >>= fun x => answer x s := by
  intro ps s t data e
  obtain ⟨x, parsed, k⟩ := bind_eq_ok_iff.mp e
  exact h x s t data ⟨ps, parsed⟩ k

/-- An answer given without a test. -/
theorem pure_law {s u t : State} {d data : List Byte} (h : PassesLaw s u)
    (e : (pure (u, d) : Except ResultCode _) = .ok (t, data)) : PassesLaw s t := by
  obtain ⟨rfl, -⟩ := Prod.mk.inj (pure_eq_ok_iff.mp e)
  exact h

/-- A test that may refuse comes first. -/
theorem refuse_law {bad : Bool} {r : ResultCode} {answer : Except ResultCode (State × List Byte)} {s t : State}
    {data : List Byte} (h : bad = false → answer = .ok (t, data) → PassesLaw s t)
    (e : (refuseWhen bad r >>= fun _ => answer) = .ok (t, data)) : PassesLaw s t := by
  obtain ⟨_, passed, k⟩ := bind_eq_ok_iff.mp e
  exact h (refuseWhen_eq_ok_iff.mp passed) k

/-- An owner that leaves the records of the rooms. -/
theorem HandlerPassesLaw.of_same {α : Type} {parse : List Byte → Except ResultCode α}
    {answer : α → State → Except ResultCode (State × List Byte)}
    (h : ∀ x s t data, answer x s = .ok (t, data) → t.records = s.records) :
    HandlerPassesLaw fun ps s => parse ps >>= fun x => answer x s :=
  .of_parsed fun x s t data _ e => .of_same (h x s t data e)

section
variable {s u t : State} {d data : List Byte}

theorem pure_records (h : u.records = s.records) (e : (pure (u, d) : Except ResultCode _) = .ok (t, data)) :
    t.records = s.records := by
  obtain ⟨rfl, -⟩ := Prod.mk.inj (pure_eq_ok_iff.mp e)
  exact h

theorem refuse_records {bad : Bool} {r : ResultCode} {answer : Except ResultCode (State × List Byte)}
    (h : answer = .ok (t, data) → t.records = s.records) (e : (refuseWhen bad r >>= fun _ => answer) = .ok (t, data)) :
    t.records = s.records := by
  obtain ⟨_, -, k⟩ := bind_eq_ok_iff.mp e
  exact h k

end

theorem loadNodeWork_records (x : NodeLoad) (s : State) : (loadNodeWork x s).records = s.records := by
  unfold loadNodeWork
  dsimp only
  rw [endEvent_records, examine_records, (composeNode_only ..).records, (settle_only _).records]
  exact ite_records (flushNode_records x.ref s) rfl

theorem restartLine_records (l : LineId) (s : State) : (restartLine l s).records = s.records := by
  have dropped (t : State) : (dropInFlight l t).records = t.records := ite_records rfl rfl
  have cleaned (t : State) : (cleanLine l t).records = t.records := by
    rw [cleanLine_eq]
    exact forEach_records (f := cleanNode) (fun _ _ => rfl) _ _
  unfold restartLine
  dsimp only
  rw [endEvent_records, forEach_records (examine_records none), cleaned, flushLine, dropped, (removeItems_only ..).records]

theorem lineRows_law : ∀ row ∈ lineRows, HandlerPassesLaw row.handler := by
  simp only [lineRows, plainRow, lineRow, List.forall_mem_cons, List.not_mem_nil, false_imp_iff, implies_true, and_true]
  refine ⟨?resetPart, ?readTrunkCounters, ?loadNode, ?dropNode, ?suspend, ?resume, ?restart, ?setTimeout, ?readLineCounters,
    ?loadRule, ?dropRule⟩
  case resetPart => exact .of_same fun _ _ _ _ => pure_records rfl
  case readTrunkCounters => exact .of_same fun _ _ _ _ => pure_records rfl
  case loadNode => exact .of_same fun x s _ _ => refuse_records <| pure_records (loadNodeWork_records x s)
  case dropNode =>
    exact .of_same fun n s _ _ => refuse_records <| refuse_records <| pure_records <|
      (endEvent_records _).trans (flushNode_records n s)
  case suspend => exact .of_same fun _ _ _ _ => pure_records rfl
  case resume => exact .of_same fun _ _ _ _ => pure_records rfl
  case restart => exact .of_same fun x s _ _ => pure_records (restartLine_records x.1 s)
  case setTimeout => exact .of_same fun _ _ _ _ => pure_records rfl
  case readLineCounters => exact .of_same fun _ _ _ _ => pure_records rfl
  case loadRule => exact .of_same fun _ _ _ _ => pure_records rfl
  case dropRule => exact .of_same fun _ _ _ _ => refuse_records <| pure_records rfl

theorem loadBookingWork_law (b : Booking) (s : State) : KeepsLaw s (loadBookingWork b s) := by
  unfold loadBookingWork
  dsimp only
  set t := removeBookings (fun c => c.id == b.id) s with t_def
  have removed : KeepsLaw s t := removeBookings_law _ s
  have loaded : KeepsLaw t { t with tu := { t.tu with store := insertBooking b t.tu.store } } := .of_same rfl
  exact ((removed.trans loaded).trans (.forEachFree (reselect_law _) _ _)).thenEnds

theorem roomRows_law : ∀ row ∈ roomRows, HandlerPassesLaw row.handler := by
  simp only [roomRows, plainRow, List.forall_mem_cons, List.not_mem_nil, false_imp_iff, implies_true, and_true]
  refine ⟨?loadRoom, ?disableRoom, ?saveRoom, ?restoreRoom, ?setClock, ?readClock, ?loadBooking, ?cancelBooking, ?listBookings,
    ?roomRelease⟩
  case loadRoom => exact .of_parsed fun x s _ _ _ => pure_law fun law => loadRoomWork_law x law
  case disableRoom =>
    refine .of_parsed fun r s _ _ _ => refuse_law fun free => pure_law fun law => disableRoomWork_law ?_ law
    rw [Bool.or_eq_false_iff] at free
    exact Option.isNone_iff_eq_none.mp (Option.isSome_eq_false_iff.mp free.2)
  case saveRoom => exact .of_same fun _ _ _ _ => refuse_records <| pure_records rfl
  case restoreRoom =>
    refine .of_parsed fun x s _ _ _ => refuse_law fun vacant => refuse_law fun ok => pure_law fun law =>
      restoreRoomWork_law (not_not.mp (of_decide_eq_false vacant)) (by simpa using ok) law
  case setClock => exact .of_parsed fun c s _ _ _ => pure_law (setClock_law c s).passes
  case readClock => exact .of_same fun _ _ _ _ => pure_records rfl
  case loadBooking =>
    exact .of_parsed fun b s _ _ _ => refuse_law fun _ => refuse_law fun _ => refuse_law fun _ =>
      pure_law (loadBookingWork_law b s).passes
  case cancelBooking =>
    refine .of_parsed fun id s t data _ e => ?_
    split at e
    · cases e
    · exact pure_law ((removeBookings_law _ s).trans (.forEachFree (reselect_law none) _ _)).thenEnds.passes e
  case listBookings => exact .of_same fun _ _ _ _ => pure_records rfl
  case roomRelease => exact .of_parsed fun r s _ _ _ => refuse_law fun _ => pure_law (passOccurrence_law true r s).thenEnds.passes

theorem setAirDutyWork_records (r : RoomId) (d : Duty) (s : State) : (setAirDutyWork r d s).records = s.records :=
  ite_records (recomposePart_records _ r _) rfl

theorem roomSceneWork_law (n : Option SceneNum) {r : RoomId} {s : State} (own : (s.room r).state ≠ .joined)
    (loaded : (s.room r).state ≠ .off) : KeepsLaw s (roomSceneWork r n s) := by
  refine setOverrideScene_law n own loaded ?_
  cases n with
  | some n => rw [roomSceneWork, endEvent_records, setOverrideScene, recompose_records, clearOverrides_records]
  | none => rw [roomSceneWork, endEvent_records, recompose_records]

theorem cancelTravelWork_records (n : NodeRef) (s : State) : (cancelTravelWork n s).records = s.records := by
  rw [cancelTravelWork, endEvent_records, (offer_only ..).records]
  rfl

theorem actuationRows_law : ∀ row ∈ actuationRows, HandlerPassesLaw row.handler := by
  simp only [actuationRows, plainRow, List.forall_mem_cons, List.not_mem_nil, false_imp_iff, implies_true, and_true]
  refine ⟨?loadScene, ?loadWing, ?setAirDuty, ?roomScene, ?cancelTravel, ?loadFault, ?raiseFault, ?dropFault, ?clearFault⟩
  case loadScene =>
    exact .of_same fun _ _ _ _ => pure_records ((endEvent_records _).trans (recomposeAll_records _))
  case loadWing =>
    exact .of_same fun _ _ _ _ => pure_records (ite_records rfl ((endEvent_records _).trans (recomposeAll_records _)))
  case setAirDuty => exact .of_same fun x s _ _ => refuse_records <| pure_records (setAirDutyWork_records x.1 x.2 s)
  case roomScene =>
    refine .of_parsed fun x s _ _ _ => refuse_law fun _ => refuse_law fun free => pure_law ?_
    obtain ⟨loaded, own⟩ := not_or.mp (of_decide_eq_false free)
    exact (roomSceneWork_law x.2 own loaded).passes
  case cancelTravel =>
    refine .of_same fun n s t data e => ?_
    split at e
    · cases e
    · exact refuse_records (refuse_records <| pure_records (cancelTravelWork_records n s)) e
  case loadFault => exact .of_same fun x _ _ _ => refuse_records <| pure_records (testAssertion_records x.1 _)
  case raiseFault => exact .of_same fun i _ _ _ => pure_records (ite_records rfl (testAssertion_records i _))
  case dropFault => exact .of_same fun i _ _ _ => pure_records (ite_records (testAssertion_records i _) rfl)
  case clearFault => exact .of_same fun i s _ _ => refuse_records <| pure_records (sourceMoves_records i _ _ s)

theorem setMaskWork_records (m : BitVec 4) (s : State) : (setMaskWork m s).records = s.records :=
  forEach_records (fun r t => offerTx_records (t.noticeFrame r) t) _ s

theorem forgetStranger_records (k : WingKind) (s : State) : (forgetStranger k s).records = s.records := by
  unfold forgetStranger
  split <;> rfl

theorem noticeRows_law : ∀ row ∈ noticeRows, HandlerPassesLaw row.handler := by
  simp only [noticeRows, plainRow, List.forall_mem_cons, List.not_mem_nil, false_imp_iff, implies_true, and_true]
  refine ⟨?loadSuite, ?dropSuite, ?collectStatus, ?sampleStatus, ?nextPending, ?setNoticeMask, ?readWingReport⟩
  case loadSuite =>
    refine .of_parsed fun x s _ _ ⟨ps, parsed⟩ => refuse_law fun free => pure_law fun law => ?_
    obtain ⟨distinct, size⟩ := suiteOf_sound parsed
    exact loadSuiteWork_law distinct size free law
  case dropSuite => exact .of_parsed fun g s _ _ _ => refuse_law fun _ => pure_law fun law => dropSuiteWork_law g law
  case collectStatus => exact .of_same fun _ _ _ _ => refuse_records <| pure_records (ite_records rfl rfl)
  case sampleStatus => exact .of_same fun _ _ _ _ => pure_records rfl
  case nextPending =>
    refine .of_same fun _ s t data e => ?_
    split at e
    · exact pure_records (by rfl) e
    · exact pure_records (by rfl) e
  case setNoticeMask => exact .of_same fun m s _ _ => pure_records (setMaskWork_records m s)
  case readWingReport =>
    refine .of_same fun _ s t data e => ?_
    split at e
    · exact pure_records (by rfl) e
    · exact pure_records (by rw [forgetStranger_records]; rfl) e

/-- Every request's owner keeps the law of rooms and suites. -/
theorem requestRows_law : ∀ row ∈ requestRows, HandlerPassesLaw row.handler := by
  intro row mem
  simp only [requestRows, List.mem_append] at mem
  obtain ((mem | mem) | mem) | mem := mem
  · exact lineRows_law row mem
  · exact roomRows_law row mem
  · exact actuationRows_law row mem
  · exact noticeRows_law row mem

end Sys2Proof.Machine
end

section
/-!
PROOFS. Every step keeps the law of rooms and suites: the commands, the crystal and the step (R62, R77, R160, R165 to R168).
-/

namespace Sys2Proof.Machine

/-! ### Commands -/

/-- Whatever a command answers keeps the law. -/
def AnswersPassing (s : State) (a : Answer) : Prop := ∀ t, a = .next t → PassesLaw s t

theorem PassesLaw.answers {s t : State} (h : PassesLaw s t) : AnswersPassing s (.next t) := by
  rintro _ ⟨⟩
  exact h

/-- A command that does its work where a test admits it. -/
theorem guarded_passing {c : Prop} [Decidable c] {s t : State} (h : PassesLaw s t) :
    AnswersPassing s (.next (if c then t else s)) := (PassesLaw.ite h (.refl s)).answers

/-- An expiry, when its timer has run out. -/
theorem expiry_passing {t : Timer} {f : State → State} {s : State} (h : t.isSome = true → PassesLaw s (f s)) :
    AnswersPassing s (whenReady (ifExpired t f) s) := by
  refine guarded_passing ?_
  unfold ifExpired
  split
  · rename_i out
    exact h (by rw [out]; rfl)
  · exact .refl s

theorem requestRow_passing {row : RequestRow} (mem : row ∈ requestRows) (s : State) :
    AnswersPassing s (exec row.command s) := by
  have owner := requestRows_law row mem
  rw [exec_requestRow row mem]
  unfold requestWhen
  split
  · rename_i tag c params taken
    split
    · cases judged : row.handler params (dropFrame s) with
      | error r =>
        rw [serve_refused judged]
        exact PassesLaw.answers (.of_same (by rfl))
      | ok answer =>
        rw [serve_done judged]
        exact PassesLaw.answers (.trans (t := dropFrame s) (.of_same (by rfl)) ((owner _ _ _ _ judged).trans (.of_same (by rfl))))
    · exact (PassesLaw.refl s).answers
  · exact (PassesLaw.refl s).answers

theorem unknownRequestCode_passing (s : State) : AnswersPassing s (execUnknownRequestCode s) := by
  unfold execUnknownRequestCode
  split
  · exact PassesLaw.answers (.of_same (by rfl))
  · exact PassesLaw.answers (.ite (.refl s) (.of_same rfl))
  · exact (PassesLaw.refl s).answers

theorem pass_passing (s : State) : AnswersPassing s (execPass s) := by
  unfold execPass
  split
  · split
    · exact PassesLaw.answers (.trans (t := dropFrame s) (.of_same (by rfl)) (.of_same (admitPass_records ..)))
    · exact PassesLaw.answers (.of_same (by rfl))
  · exact (PassesLaw.refl s).answers

theorem frameSent_records {s t : State} (h : execFrameSent s = .next t) : t.records = s.records := by
  unfold execFrameSent at h
  split at h
  · cases h; rfl
  · split at h
    · cases h
      dsimp only
      split <;> rfl
    · cases h; rfl

/-- Power-on and reset leave no room in service and no suite (R197). -/
theorem fresh_lawful (power : Power) (deaf : Timer) (address : BitVec 6) (pins : Vector Bool 4) (wing : List WingReport)
    (pending : List Instr) (choices : Nat) : (State.fresh power deaf address pins wing pending choices).Lawful := by
  set t := State.fresh power deaf address pins wing pending choices
  have room (r : RoomId) : t.room r = Room.off := look_filled _ r
  have suite (g : SuiteId) : t.suite g = none := look_filled _ g
  refine ⟨⟨fun r => ?_, fun g x held => ?_, fun r g named => ?_, fun r joined => ?_⟩, fun r _ => ⟨room r, look_filled _ r⟩⟩
  · rw [room]
    exact ⟨fun _ run => RoomState.noConfusion run, fun joined => RoomState.noConfusion joined, Room.still_of_none rfl⟩
  · rw [suite] at held; cases held
  · rw [room] at named; cases named
  · rw [room] at joined; cases joined

theorem deliver_law (rep : LineReport) (home : Option RoomId) (x : Rule) (s : State) : KeepsLaw s (deliver rep home x s) := by
  unfold deliver
  split
  · split
    · exact roomAction_law _ _ _ _ s
    · exact .refl s
  · exact partitionAction_law _ _ s
  · exact .of_same (claimFault_records _ _ s)
  · exact .refl s

theorem classify_law (rep : LineReport) (s : State) : KeepsLaw s (classify rep s) := by
  have stranger : KeepsLaw s (if ((s.entry rep.ref).map NodeEntry.room).isNone then noteStranger rep.ref s else s) :=
    .ite (.of_same (noteStranger_records _ s)) (.refl s)
  unfold classify
  exact stranger.trans (.trans (.forEach (deliver_law rep _) _ _) (.ite (.of_same (offerTx_records _ _)) (.refl _)))

theorem takeReport_law (n : NodeRef) (code : ReportCode) (value : Half) (s : State) :
    KeepsLaw s (takeReport n code value s) :=
  .trans (.of_same (heardFrom_records n s)) (classify_law _ _).thenEnds

theorem takeItem_records (l : LineId) (it : Item) (s : State) : (takeItem l it s).records = s.records := by
  rw [takeItem, endEvent_records]
  exact ite_records rfl rfl

theorem clockEvent_law {admits : Nat → Bool} {f : Clock → State → State} (s : State) (h : ∀ c t, KeepsLaw t (f c t)) :
    KeepsLaw s (clockEvent admits f s) := by
  unfold clockEvent
  split
  · exact .of_same rfl
  · split
    · exact .ite (.trans (b := { s with tu := { s.tu with ms := 0 } }) (.of_same rfl) (h _ _)) (.refl s)
    · exact .refl s

theorem exec_passing (c : Instr) (s : State) : AnswersPassing s (exec c s) := by
  by_cases request : ∃ row ∈ requestRows, row.command = c
  · obtain ⟨row, mem, rfl⟩ := request
    exact requestRow_passing mem s
  cases c with
  | trunkFrameReceived f => exact guarded_passing (.of_same rfl)
  | frameSent => exact fun t h => .of_same (frameSent_records h)
  | unknownRequestCode => exact unknownRequestCode_passing s
  | pass => exact pass_passing s
  | resetTakesEffect => exact guarded_passing fun _ => fresh_lawful ..
  | takesFramesAgain => exact guarded_passing (.of_same rfl)
  | powerOn => exact guarded_passing fun _ => fresh_lawful ..
  | partReady => exact guarded_passing fun _ => fresh_lawful ..
  | powerLoss => exact (PassesLaw.ite (.refl s) fun _ => fresh_lawful ..).answers
  | report l a code value => exact guarded_passing (.ite (.of_same rfl) (takeReport_law ⟨l, a⟩ code value s).passes)
  | arrived l a position => exact guarded_passing (.ite (.of_same rfl) (.of_same (takeArrived_records ⟨l, a⟩ position s)))
  | echo l a status current => exact guarded_passing (.ite (.of_same rfl) (.of_same (takeEcho_records ⟨l, a⟩ status current s)))
  | invalidLineFrame l f => exact guarded_passing (.ite (.of_same rfl) (.refl s))
  | itemTakenForSending l =>
    refine guarded_passing (.ite ?_ (.refl s))
    split
    · exact .of_same (takeItem_records l _ s)
    · exact .refl s
  | commandFrameSent l => exact guarded_passing (.ite (.of_same rfl) (.refl s))
  | echoTimerExpiry l => exact expiry_passing fun _ => .of_same (echoTimerEnds_records l s)
  | motionHoldExpiry r => exact expiry_passing fun runs => (motionHoldEnds_law runs).passes
  | stillnessExpiry r => exact expiry_passing fun runs => (stillnessEnds_law runs).passes
  | lingerExpiry r => exact expiry_passing fun runs => (lingerEnds_law runs).passes
  | suiteLingerExpiry g => exact expiry_passing fun runs => (suiteLingerEnds_law runs).passes
  | dutyTimerExpiry r => exact expiry_passing fun _ => .of_same (recomposePart_records _ r _)
  | travelTimerExpiry l a => exact expiry_passing fun _ => .of_same (travelEnds_records ⟨l, a⟩ s)
  | holdOffExpiry i => exact expiry_passing fun _ => .of_same (sourceMoves_records i _ _ s)
  | minuteBoundary => exact guarded_passing (clockEvent_law s minutePasses_law).passes
  | faultPinChange p low => exact guarded_passing (.of_same (pinChanges_records p low s))
  | clockSecondAdvance => exact guarded_passing (clockEvent_law s fun _ _ => .of_same (by rfl)).passes
  | _ => exact absurd (by simp [requestRows, lineRows, roomRows, actuationRows, noticeRows, plainRow, lineRow]) request

/-! ### The crystal and the step -/

theorem isSome_tick (t : Timer) : t.tick.isSome = t.isSome := by
  cases t <;> rfl

/-- A room's record after a millisecond (R64). -/
def Room.ticked (x : Room) : Room :=
  { x with motionHold := x.motionHold.tick, stillness := x.stillness.tick, linger := x.linger.tick }

theorem Room.ticked_presence (x : Room) : x.ticked.presence = x.presence := by
  rw [Room.presence, Room.ticked, isSome_tick]; rfl

theorem OccLaw.ticked {o : OccState} {presence : Bool} {phase : Phase} {linger : Timer} (h : OccLaw o presence phase linger) :
    OccLaw o presence phase linger.tick := by
  obtain ⟨preparing, expected, vacant, occupied, lingers⟩ := h
  exact ⟨preparing, expected, vacant, occupied, by rw [isSome_tick, lingers]⟩

theorem Room.Lawful.ticked {x : Room} (h : x.Lawful) : x.ticked.Lawful := by
  obtain ⟨run, joined, still⟩ := h
  refine ⟨fun o own => ?_, fun own => ?_, fun runs => ?_⟩
  · rw [Room.ticked_presence]
    exact (run o own).ticked
  · obtain ⟨linger, scene⟩ := joined own
    exact ⟨by rw [Room.ticked, linger]; rfl, scene⟩
  · obtain ⟨heads, moved, free⟩ := still (by rwa [Room.ticked, isSome_tick] at runs)
    exact ⟨heads, by rw [Room.ticked, moved]; rfl, free⟩

theorem tickTimers_law {s : State} (law : s.Lawful) : (tickTimers s).Lawful := by
  set t := tickTimers s with t_def
  have room (r : RoomId) : t.room r = (s.room r).ticked := look_map _ _ r
  have suite (g : SuiteId) : t.suite g = (s.suite g).map fun x => { x with linger := x.linger.tick } := look_map _ _ g
  have form : SameForm s t := by
    refine ⟨fun r => by rw [room]; rfl, fun r => by rw [room]; rfl, fun g => ?_⟩
    rw [suite]
    cases s.suite g <;> rfl
  have presence (g : SuiteId) : t.suitePresence g = s.suitePresence g :=
    suitePresence_congr (form.members g) fun r _ => by rw [room, Room.ticked_presence]
  have phase (g : SuiteId) : t.effectivePhase g = s.effectivePhase g :=
    effectivePhase_congr (form.members g) fun r _ => by rw [room]; rfl
  refine ⟨form.occupancy law.occupancy (fun r => room r ▸ (law.occupancy.rooms r).ticked) (fun g x o held occ => ?_)
    fun g x held occ => ?_, fun r off => ?_⟩
  · rw [suite, Option.map_eq_some_iff] at held
    obtain ⟨y, held, rfl⟩ := held
    rw [presence, phase]
    exact ((law.occupancy.suites g y held).machine o occ).ticked
  · rw [suite, Option.map_eq_some_iff] at held
    obtain ⟨y, held, rfl⟩ := held
    obtain ⟨linger, seen⟩ := (law.occupancy.suites g y held).split occ
    exact ⟨by dsimp only; rw [linger]; rfl, seen⟩
  · rw [room] at off
    obtain ⟨empty, idle⟩ := law.off r off
    exact ⟨by rw [room, empty]; rfl, idle⟩

theorem tick_passes (s : State) : PassesLaw s (tick s) := by
  have clock (t : State) : (tickClock t).1.records = t.records := by rw [tickClock_eq]; rfl
  have timers : PassesLaw s (tickTimers s) := tickTimers_law
  refine .ite (.trans (timers.trans (.of_same (clock _))) (.ite (.refl _) (.of_same rfl))) (.refl s)

theorem step_passes {s t : State} (h : step s = .next t) : PassesLaw s t := by
  unfold step at h
  split at h
  · exact (tick_passes s).answers t h
  · rename_i c rest _
    exact .trans (t := { s with pending := rest }) (.of_same rfl) (exec_passing c { s with pending := rest } t h)

/-- Settles O60: the law holds after every command and every millisecond; each event moves one room's machine or one suite's,
or changes which of them have one. -/
theorem occupancyLawIsKept : Obligations.OccupancyLawIsKept := by
  intro s t occupancy off h
  obtain ⟨occupancy', off'⟩ := step_passes h ⟨occupancy, off⟩
  exact ⟨occupancy', off'⟩

end Sys2Proof.Machine
end

section
/-!
PROOFS. What an event does besides the records of RE (R82, R130, R132, R174): the node overrides it clears, the conditions it raises,
and the rooms it has AP compose.
-/

namespace Sys2Proof.Machine

/-! ### Node overrides (R82, R130) -/

/-- From `s` to `t` node overrides are cleared: all of them in the rooms that `C` names, and none elsewhere. AP's targets and air modes and
the node table are as before. -/
structure Clears (C : RoomId → Prop) (s t : State) : Prop where
  entry : ∀ n, t.entry n = s.entry n
  target : ∀ n, (t.plan n).map Plan.target = (s.plan n).map Plan.target
  mode : ∀ r, (t.air r).mode = (s.air r).mode
  cleared : ∀ r, C r → t.NoOverrides r
  stays : ∀ n, (∀ q, s.plan n = some q → q.override = none) → ∀ q, t.plan n = some q → q.override = none
  spared : ∀ n, (∀ e, s.entry n = some e → ¬ C e.room) → t.plan n = s.plan n

namespace Clears

theorem of_same {s t : State} (entry : ∀ n, t.entry n = s.entry n) (plan : ∀ n, t.plan n = s.plan n)
    (mode : ∀ r, (t.air r).mode = (s.air r).mode) : Clears (fun _ => False) s t where
  entry := entry
  target n := by rw [plan]
  mode := mode
  cleared _ named := named.elim
  stays n clear q held := clear q (by rw [← plan, held])
  spared n _ := plan n

theorem refl (s : State) : Clears (fun _ => False) s s := .of_same (fun _ => rfl) (fun _ => rfl) fun _ => rfl

theorem congr {C D : RoomId → Prop} {s t : State} (h : Clears C s t) (same : ∀ r, C r ↔ D r) : Clears D s t :=
  (funext fun r => propext (same r) : C = D) ▸ h

theorem trans {C D : RoomId → Prop} {a b c : State} (h : Clears C a b) (k : Clears D b c) :
    Clears (fun r => C r ∨ D r) a c where
  entry n := (k.entry n).trans (h.entry n)
  target n := (k.target n).trans (h.target n)
  mode r := (k.mode r).trans (h.mode r)
  cleared r named := by
    obtain first | second := named
    · intro n e q entry room actuator held
      exact k.stays n (fun p plan => h.cleared r first n e p ((k.entry n).symm.trans entry) room actuator plan) q held
    · exact k.cleared r second
  stays n clear := k.stays n (h.stays n clear)
  spared n other :=
    (k.spared n fun e entry second => other e ((h.entry n).symm.trans entry) (.inr second)).trans
      (h.spared n fun e entry first => other e entry (.inl first))

/-- Work that clears nothing, after or before. -/
theorem then_none {C : RoomId → Prop} {a b c : State} (h : Clears C a b) (k : Clears (fun _ => False) b c) : Clears C a c :=
  (h.trans k).congr fun _ => iff_of_eq (or_false _)

theorem after_none {C : RoomId → Prop} {a b c : State} (k : Clears C b c) (h : Clears (fun _ => False) a b) : Clears C a c :=
  (h.trans k).congr fun _ => iff_of_eq (false_or _)

theorem ite_none {c : Prop} [Decidable c] {s a b : State} (h : Clears (fun _ => False) s a) (k : Clears (fun _ => False) s b) :
    Clears (fun _ => False) s (if c then a else b) := by
  split
  · exact h
  · exact k

theorem forEach {α : Type} {f : α → State → State} {C : α → RoomId → Prop} (h : ∀ x s, Clears (C x) s (f x s)) (xs : List α)
    (s : State) : Clears (fun r => ∃ x ∈ xs, C x r) s (Machine.forEach xs f s) := by
  induction xs generalizing s with
  | nil => exact (refl s).congr fun r => by simp
  | cons x xs ih => exact ((h x s).trans (ih (f x s))).congr fun r => by simp

end Clears

theorem onRoom_clears (r : RoomId) (f : Room → Room) (s : State) : Clears (fun _ => False) s (onRoom r f s) :=
  .of_same (fun _ => rfl) (fun _ => rfl) fun _ => rfl

theorem onSuite_clears (g : SuiteId) (f : Suite → Suite) (s : State) : Clears (fun _ => False) s (onSuite g f s) :=
  .of_same (fun _ => rfl) (fun _ => rfl) fun _ => rfl

theorem raise_clears (c : Condition) (r : RoomId) (s : State) : Clears (fun _ => False) s (raise c r s) :=
  .of_same (raise_work c r s).entry (fun n => raise_plan c r n s) fun q => by rw [State.air, raise_ap, ← State.air]

theorem startPeriod_mode (a : RoomAir) : (startPeriod a).mode = a.mode := by
  unfold startPeriod
  dsimp only
  split_ifs <;> rfl

theorem dutyEdge_mode (was : Bool) (r q : RoomId) (s : State) : ((dutyEdge was r s).air q).mode = (s.air q).mode := by
  have update (f : RoomAir → RoomAir) (kept : ∀ a, (f a).mode = a.mode) : ((onAir r f s).air q).mode = (s.air q).mode := by
    by_cases e : q = r
    · rw [e, air_onAir, kept]
    · rw [air_onAir_ne e]
  unfold dutyEdge
  split
  · split
    · rfl
    · exact update _ fun _ => rfl
  · split
    · exact update _ startPeriod_mode
    · rfl

theorem dutyEdge_clears (was : Bool) (r : RoomId) (s : State) : Clears (fun _ => False) s (dutyEdge was r s) :=
  .of_same (dutyEdge_work was r s).entry (fun n => dutyEdge_plan was r n s) fun q => dutyEdge_mode was r q s

theorem clearOverrides_clears (r : RoomId) (s : State) : Clears (· = r) s (clearOverrides (fun _ => true) r s) where
  entry := (clearOverrides_only _ r s).entry
  target n := clearOverrides_target _ r n s
  mode q := by rw [State.air, clearOverrides_air, ← State.air]
  cleared q same := same ▸ clearOverrides_noOverrides q s
  stays n clear := by
    unfold clearOverrides
    exact forEach_induction (π := fun t => ∀ q, t.plan n = some q → q.override = none)
      (fun m t held => clearOverride_keeps_none _ m n t held) _ clear
  spared n other := clearOverrides_spares _ r n s other

theorem setRoomState_clears (r : RoomId) (st : RoomState) (s : State) :
    Clears (fun q => q = r ∧ st = .run .vacant ∧ (s.room r).state ≠ st) s (setRoomState r st s) := by
  unfold setRoomState
  split
  · rename_i same
    exact (Clears.refl s).congr fun q => by simp [same]
  · rename_i moves
    have told := (raise_clears .stateChanged r (onRoom r (fun x => { x with state := st }) s)).after_none (onRoom_clears r _ s)
    dsimp only
    split
    · rename_i vacant
      unfold enterVacant
      refine (((clearOverrides_clears r _).after_none (onRoom_clears r _ _)).after_none told).congr fun q => ?_
      exact (and_iff_left ⟨vacant, moves⟩).symm
    · rename_i other
      exact told.congr fun q => by simp [other]

/-- A machine enters VACANT by its move. -/
def OccState.vacates (f : OccState → OccState) (o : OccState) : Prop := f o ≠ o ∧ f o = .vacant

/-- A room enters VACANT by a move of its own machine. -/
def Room.vacates (f : OccState → OccState) (x : Room) : Prop := ∃ o, x.state = .run o ∧ o.vacates f

/-- A suite enters VACANT by a move of its machine. -/
def State.suiteVacates (s : State) (g : SuiteId) (f : OccState → OccState) : Prop := ∃ o, s.suiteOcc g = some o ∧ o.vacates f

theorem Room.vacates_of_run {f : OccState → OccState} {x : Room} {o : OccState} (own : x.state = .run o) :
    x.vacates f ↔ o.vacates f := by
  rw [Room.vacates, own]
  exact ⟨fun ⟨_, same, h⟩ => RoomState.run.inj same ▸ h, fun h => ⟨o, rfl, h⟩⟩

theorem State.suiteVacates_of_occ {f : OccState → OccState} {s : State} {g : SuiteId} {o : OccState}
    (occ : s.suiteOcc g = some o) : s.suiteVacates g f ↔ o.vacates f := by
  rw [State.suiteVacates, occ]
  exact ⟨fun ⟨_, same, h⟩ => Option.some.inj same ▸ h, fun h => ⟨o, rfl, h⟩⟩

theorem moveRoom_clears (r : RoomId) (f : OccState → OccState) (s : State) :
    Clears (fun q => q = r ∧ (s.room r).vacates f) s (moveRoom r f s) := by
  have rests (h : ¬ (s.room r).vacates f) : Clears (fun q => q = r ∧ (s.room r).vacates f) s s :=
    (Clears.refl s).congr fun q => (iff_false_intro fun ⟨_, v⟩ => h v).symm
  unfold moveRoom
  split
  · rename_i o own
    have vacates := Room.vacates_of_run (f := f) own
    split
    · rename_i stays
      exact rests fun v => (vacates.mp v).1 stays
    · rename_i moves
      refine ((setRoomState_clears r (.run (f o)) _).after_none (onRoom_clears r _ s)).congr fun q => and_congr_right fun _ => ?_
      rw [vacates, room_onRoom, RoomState.run.injEq]
      exact ⟨fun h => ⟨moves, h.1⟩, fun h => ⟨h.2, by dsimp only; rw [own]; exact fun e => h.1 (RoomState.run.inj e).symm⟩⟩
  · rename_i own
    exact rests fun ⟨o, run, _⟩ => by rw [own] at run; cases run
  · rename_i own
    exact rests fun ⟨o, run, _⟩ => by rw [own] at run; cases run

theorem suiteTold_clears (g : SuiteId) (f : OccState → OccState) (s : State) : Clears (fun _ => False) s (suiteTold g f s) :=
  ((Clears.forEach (raise_clears .stateChanged) (s.members g) _).congr fun _ => by simp).after_none (onSuite_clears g _ s)

theorem vacateMember_clears (m : RoomId) (s : State) : Clears (· = m) s (vacateMember m s) :=
  (clearOverrides_clears m _).after_none (onRoom_clears m _ s)

theorem moveSuite_clears (g : SuiteId) (f : OccState → OccState) (s : State) :
    Clears (fun q => s.suiteVacates g f ∧ q ∈ s.members g) s (moveSuite g f s) := by
  by_cases moves : ∃ o, s.suiteOcc g = some o ∧ f o ≠ o
  · obtain ⟨o, occ, moves⟩ := moves
    have vacates := State.suiteVacates_of_occ (f := f) occ
    rw [moveSuite_of_moves occ moves]
    split
    · rename_i enters
      refine ((Clears.forEach vacateMember_clears _ _).after_none (suiteTold_clears g f s)).congr fun q => ?_
      rw [and_iff_right (vacates.mpr ⟨moves, enters⟩)]
      simp
    · rename_i other
      exact (suiteTold_clears g f s).congr fun q => (iff_false_intro fun ⟨v, _⟩ => other (vacates.mp v).2).symm
  · have stays : ∀ o, s.suiteOcc g = some o → f o = o := fun o occ => not_not.mp fun ne => moves ⟨o, occ, ne⟩
    rw [moveSuite_of_stays stays]
    exact (Clears.refl s).congr fun q => (iff_false_intro fun ⟨⟨o, occ, ne, _⟩, _⟩ => ne (stays o occ)).symm

/-- No change of presence takes a machine to VACANT (R77, R166). -/
theorem presenceEdge_clears (s0 : State) (r : RoomId) (s : State) : Clears (fun _ => False) s (presenceEdge s0 r s) := by
  cases suite : s.joinedSuite r with
  | none =>
    rw [presenceEdge_own suite]
    refine ((moveRoom_clears r _ _).after_none (onRoom_clears r _ s)).congr fun q => iff_false_intro ?_
    rintro ⟨-, o, -, moves, enters⟩
    exact OccState.onEdge_ne_vacant moves enters
  | some g =>
    rw [presenceEdge_joined suite]
    refine ((moveSuite_clears g _ _).after_none ((onSuite_clears g _ _).after_none (onRoom_clears r _ s))).congr fun q =>
      iff_false_intro ?_
    rintro ⟨⟨o, -, moves, enters⟩, -⟩
    exact OccState.onEdge_ne_vacant moves enters

/-! ### Conditions (R174) -/

/-- From `s` to `t` the conditions that `R` names are raised for their rooms, and no others. -/
structure Raises (R : Condition → RoomId → Prop) (s t : State) : Prop where
  told : ∀ c q, R c q → CondSet.holds (t.notice q).conds c = true
  quiet : ∀ c q, ¬ R c q → CondSet.holds (t.notice q).conds c = CondSet.holds (s.notice q).conds c
  untouched : ∀ q, (∀ c, ¬ R c q) → t.notice q = s.notice q

namespace Raises

theorem of_same {s t : State} (h : ∀ q, t.notice q = s.notice q) : Raises (fun _ _ => False) s t :=
  ⟨fun _ _ named => named.elim, fun _ q _ => by rw [h], fun q _ => h q⟩

theorem refl (s : State) : Raises (fun _ _ => False) s s := .of_same fun _ => rfl

theorem congr {R Q : Condition → RoomId → Prop} {s t : State} (h : Raises R s t) (same : ∀ c q, R c q ↔ Q c q) :
    Raises Q s t := (funext fun c => funext fun q => propext (same c q) : R = Q) ▸ h

/-- What held stays held. -/
theorem held {R : Condition → RoomId → Prop} {s t : State} (h : Raises R s t) {c : Condition} {q : RoomId}
    (before : CondSet.holds (s.notice q).conds c = true) : CondSet.holds (t.notice q).conds c = true := by
  by_cases named : R c q
  · exact h.told c q named
  · rw [h.quiet c q named, before]

theorem trans {R Q : Condition → RoomId → Prop} {a b c : State} (h : Raises R a b) (k : Raises Q b c) :
    Raises (fun d q => R d q ∨ Q d q) a c where
  told d q named := by
    obtain first | second := named
    · exact k.held (h.told d q first)
    · exact k.told d q second
  quiet d q neither := (k.quiet d q fun second => neither (.inr second)).trans (h.quiet d q fun first => neither (.inl first))
  untouched q neither :=
    (k.untouched q fun d second => neither d (.inr second)).trans (h.untouched q fun d first => neither d (.inl first))

theorem then_none {R : Condition → RoomId → Prop} {a b c : State} (h : Raises R a b) (k : Raises (fun _ _ => False) b c) :
    Raises R a c := (h.trans k).congr fun _ _ => iff_of_eq (or_false _)

theorem after_none {R : Condition → RoomId → Prop} {a b c : State} (k : Raises R b c) (h : Raises (fun _ _ => False) a b) :
    Raises R a c := (h.trans k).congr fun _ _ => iff_of_eq (false_or _)

end Raises

theorem OnlyActuation.raises {s t : State} (h : OnlyActuation s t) : Raises (fun _ _ => False) s t := .of_same h.notice

theorem onRoom_raises (r : RoomId) (f : Room → Room) (s : State) : Raises (fun _ _ => False) s (onRoom r f s) :=
  .of_same fun _ => rfl

theorem onSuite_raises (g : SuiteId) (f : Suite → Suite) (s : State) : Raises (fun _ _ => False) s (onSuite g f s) :=
  .of_same fun _ => rfl

theorem dutyEdge_raises (was : Bool) (r : RoomId) (s : State) : Raises (fun _ _ => False) s (dutyEdge was r s) :=
  .of_same fun q => by unfold dutyEdge; split_ifs <;> rfl

theorem endEvent_raises (s : State) : Raises (fun _ _ => False) s (endEvent s) := .of_same fun q => endEvent_notice q s

/-- The conditions by their codes. -/
def conditionsByCode : List Condition :=
  [.stateChanged, .noShow, .overrun, .overcrowd, .countDrift, .nodeLost, .driverAlarm, .blindStall, .protectionEntered,
    .protectionLeft]

theorem Condition.of_code (c : Condition) : conditionsByCode[c.code]? = some c := by
  cases c <;> rfl

/-- Raising a condition sets its own flag and no other (R174). -/
theorem CondSet.holds_add_ne {x : CondSet} {c d : Condition} (ne : d ≠ c) :
    CondSet.holds (CondSet.add x c) d = CondSet.holds x d := by
  have codes : d.code ≠ c.code := fun e => ne (Option.some.inj (by rw [← d.of_code, e, c.of_code]))
  have other : (1#10 <<< c.code).getLsbD d.code = false := by
    rw [BitVec.getLsbD_shiftLeft, BitVec.getLsbD_one]
    by_contra bit
    simp only [Bool.not_eq_false, Bool.and_eq_true, Bool.not_eq_true', decide_eq_true_eq, decide_eq_false_iff_not] at bit
    omega
  rw [CondSet.holds, CondSet.add, BitVec.getLsbD_or, other, Bool.or_false, CondSet.holds]

theorem raise_raises (c : Condition) (r : RoomId) (s : State) :
    Raises (fun d q => d = c ∧ q = r ∧ (s.room r).state ≠ .off) s (raise c r s) := by
  by_cases off : (s.room r).state = .off
  · have same : raise c r s = s := by rw [raise, if_pos off]
    rw [same]
    exact (Raises.refl s).congr fun d q => by simp [off]
  · refine ⟨?_, fun d q other => ?_, fun q other => raise_notice_ne c (fun e => other c ⟨rfl, e, off⟩) s⟩
    · rintro d q ⟨rfl, rfl, -⟩
      exact raise_holds off
    · by_cases e : q = r
      · subst e
        rw [raise_conds c q s off, CondSet.holds_add_ne fun same => other ⟨same, rfl, off⟩]
      · rw [raise_notice_ne c e]

theorem raiseEach_raises (c : Condition) (rs : List RoomId) (s : State) :
    Raises (fun d q => d = c ∧ q ∈ rs ∧ (s.room q).state ≠ .off) s (forEach rs (raise c) s) := by
  induction rs generalizing s with
  | nil => exact (Raises.refl s).congr fun d q => by simp
  | cons r rs ih =>
    refine ((raise_raises c r s).trans (ih _)).congr fun d q => ?_
    rw [raise_room, ← and_or_left, List.mem_cons, or_and_right]
    refine and_congr_right fun _ => or_congr (and_congr_right fun same => ?_) Iff.rfl
    rw [same]

theorem setRoomState_raises (r : RoomId) {st : RoomState} (loaded : st ≠ .off) (s : State) :
    Raises (fun c q => c = .stateChanged ∧ q = r ∧ (s.room r).state ≠ st) s (setRoomState r st s) := by
  unfold setRoomState
  split
  · rename_i same
    exact (Raises.refl s).congr fun c q => by simp [same]
  · rename_i moves
    have told := (raise_raises .stateChanged r (onRoom r (fun x => { x with state := st }) s)).after_none (onRoom_raises r _ s)
    rw [room_onRoom] at told
    have same := told.congr (Q := fun c q => c = .stateChanged ∧ q = r ∧ (s.room r).state ≠ st) fun c q => by simp [loaded, moves]
    dsimp only
    split
    · exact same.then_none ((clearOverrides_only _ r _).raises.after_none (onRoom_raises r _ _))
    · exact same

/-- A room's own machine leaves its state. -/
def Room.moves (f : OccState → OccState) (x : Room) : Prop := ∃ o, x.state = .run o ∧ f o ≠ o

theorem Room.moves_of_run {f : OccState → OccState} {x : Room} {o : OccState} (own : x.state = .run o) :
    x.moves f ↔ f o ≠ o := by
  rw [Room.moves, own]
  exact ⟨fun ⟨_, same, h⟩ => RoomState.run.inj same ▸ h, fun h => ⟨o, rfl, h⟩⟩

theorem moveRoom_raises (r : RoomId) (f : OccState → OccState) (s : State) :
    Raises (fun c q => c = .stateChanged ∧ q = r ∧ (s.room r).moves f) s (moveRoom r f s) := by
  have rests (h : ¬ (s.room r).moves f) : Raises (fun c q => c = .stateChanged ∧ q = r ∧ (s.room r).moves f) s s :=
    (Raises.refl s).congr fun c q => (iff_false_intro fun ⟨_, _, v⟩ => h v).symm
  unfold moveRoom
  split
  · rename_i o own
    have moves := Room.moves_of_run (f := f) own
    split
    · rename_i stays
      exact rests fun v => moves.mp v stays
    · refine ((setRoomState_raises r (st := .run (f o)) nofun _).after_none (onRoom_raises r _ s)).congr fun c q =>
        and_congr_right fun _ => and_congr_right fun _ => ?_
      rw [moves, room_onRoom]
      dsimp only
      rw [own, Ne, RoomState.run.injEq, eq_comm]
  · rename_i own
    exact rests fun ⟨o, run, _⟩ => by rw [own] at run; cases run
  · rename_i own
    exact rests fun ⟨o, run, _⟩ => by rw [own] at run; cases run

/-- A suite's machine leaves its state. -/
def State.suiteMoves (s : State) (g : SuiteId) (f : OccState → OccState) : Prop := ∃ o, s.suiteOcc g = some o ∧ f o ≠ o

theorem State.suiteMoves_of_occ {f : OccState → OccState} {s : State} {g : SuiteId} {o : OccState}
    (occ : s.suiteOcc g = some o) : s.suiteMoves g f ↔ f o ≠ o := by
  rw [State.suiteMoves, occ]
  exact ⟨fun ⟨_, same, h⟩ => Option.some.inj same ▸ h, fun h => ⟨o, rfl, h⟩⟩

theorem moveSuite_raises (g : SuiteId) (f : OccState → OccState) (s : State) :
    Raises (fun c q => c = .stateChanged ∧ (q ∈ s.members g ∧ (s.room q).state ≠ .off) ∧ s.suiteMoves g f) s
      (moveSuite g f s) := by
  by_cases moves : s.suiteMoves g f
  · obtain ⟨o, occ, ne⟩ := moves
    have told : Raises (fun c q => c = .stateChanged ∧ (q ∈ s.members g ∧ (s.room q).state ≠ .off) ∧ s.suiteMoves g f) s
        (suiteTold g f s) :=
      ((raiseEach_raises .stateChanged (s.members g) _).after_none (onSuite_raises g _ s)).congr fun c q =>
        and_congr_right fun _ => (and_iff_left (⟨o, occ, ne⟩ : s.suiteMoves g f)).symm
    rw [moveSuite_of_moves occ ne]
    split
    · exact told.then_none (.of_same fun q => forEach_keeps (f := vacateMember) (State.notice · q)
        (fun m t => (clearOverrides_only _ m _).notice q) _ _)
    · exact told
  · have stays : ∀ o, s.suiteOcc g = some o → f o = o := fun o occ => not_not.mp fun ne => moves ⟨o, occ, ne⟩
    rw [moveSuite_of_stays stays]
    exact (Raises.refl s).congr fun c q => (iff_false_intro fun ⟨_, _, v⟩ => moves v).symm

end Sys2Proof.Machine
end

section
/-!
PROOFS. An event to its end (R126, R132, R166, R168): a change of presence, the rooms AP composes after it, standby duty, and what all of
it leaves of plans and node overrides.
-/

namespace Sys2Proof.Machine

/-! ### A change of presence -/

theorem suiteOcc_onSuite (g k : SuiteId) {f : Suite → Suite} (same : ∀ x, (f x).occ = x.occ) (s : State) :
    (onSuite g f s).suiteOcc k = s.suiteOcc k := by
  by_cases e : k = g
  · rw [e, State.suiteOcc, suite_onSuite, State.suiteOcc]
    cases s.suite g with
    | none => rfl
    | some x => exact same x
  · rw [State.suiteOcc, onSuite, suite_setSuite_ne e, ← State.suiteOcc]

theorem Room.onEdge_state (before : Bool) (x : Room) : (x.onEdge before).state = x.state := by
  rw [Room.onEdge_keeps]

section
variable {s0 s : State} {r : RoomId}

theorem presenceEdge_own_raises (own : s.joinedSuite r = none) :
    Raises (fun c q => c = .stateChanged ∧ q = r ∧ (s.room r).moves (OccState.onEdge (s0.room r).presence (s.room r).presence)) s
      (presenceEdge s0 r s) := by
  rw [presenceEdge_own own]
  refine ((moveRoom_raises r _ _).after_none (onRoom_raises r _ s)).congr fun c q => ?_
  rw [Room.moves, room_onRoom, Room.onEdge_state, ← Room.moves]

theorem presenceEdge_joined_raises {g : SuiteId} (joined : s.joinedSuite r = some g) :
    Raises (fun c q => c = .stateChanged ∧ (q ∈ s.members g ∧ (s.room q).state ≠ .off) ∧
      s.suiteMoves g (OccState.onEdge (s0.suitePresence g) (s.suitePresence g))) s (presenceEdge s0 r s) := by
  rw [presenceEdge_joined joined]
  set u := onSuite g (Suite.onEdge (s0.suitePresence g) (s.suitePresence g)) (onRoom r (Room.onEdge (s0.room r).presence) s)
    with u_def
  have members : u.members g = s.members g := (members_onSuite g g _ (fun x => by rw [Suite.onEdge_keeps]) _)
  have occ : u.suiteOcc g = s.suiteOcc g := suiteOcc_onSuite g g (fun x => by rw [Suite.onEdge_keeps]) _
  have state (q : RoomId) : (u.room q).state = (s.room q).state := by
    rw [u_def, room_onSuite]
    by_cases here : q = r
    · rw [here, room_onRoom, Room.onEdge_state]
    · rw [room_onRoom_ne here]
  refine ((moveSuite_raises g _ u).after_none ((onSuite_raises g _ _).after_none (onRoom_raises r _ s))).congr fun c q => ?_
  rw [members, state, State.suiteMoves, occ, ← State.suiteMoves]

end

/-! ### The rooms AP composes after an event (R132, R166, R168) -/

/-- What a room is composed from has changed, of the fields an event of the room changes. -/
def State.drivesChange (s0 s : State) (r : RoomId) : Prop := (s.room r).drives ≠ (s0.room r).drives

/-- The suite of a JOINED room has changed its state. -/
def State.suiteChanges (s0 s : State) (r : RoomId) (g : SuiteId) : Prop := s.joinedSuite r = some g ∧ s.suiteOcc g ≠ s0.suiteOcc g

/-- AP composes every member when the room's suite has changed its state, and else the room, when what it is composed from has
changed. -/
def Recomposes (s0 : State) (r : RoomId) (s : State) (q : RoomId) : Prop :=
  (∃ g, s0.suiteChanges s r g ∧ q ∈ s.members g) ∨ ((∀ g, ¬ s0.suiteChanges s r g) ∧ q = r ∧ s0.drivesChange s r)

theorem recomposeAfter_composed (s0 : State) (r : RoomId) (s : State) :
    RoomsComposed (Recomposes s0 r s) s (recomposeAfter s0 r s) := by
  have own (quiet : ∀ g, ¬ s0.suiteChanges s r g) : RoomsComposed (Recomposes s0 r s) s
      (if (s.room r).drives = (s0.room r).drives then s else recompose r s) := by
    have alone (q : RoomId) : Recomposes s0 r s q ↔ q = r ∧ s0.drivesChange s r := by
      rw [Recomposes, and_iff_right quiet, or_iff_right fun ⟨g, changes, _⟩ => quiet g changes]
    split
    · rename_i same
      refine (RoomsComposed.of_offers (.refl s)).congr fun q => ?_
      rw [alone]
      exact (iff_false_intro fun ⟨_, changes⟩ => changes same).symm
    · rename_i changes
      refine (recompose_composed r s).congr fun q => ?_
      rw [alone]
      exact (and_iff_left changes).symm
  unfold recomposeAfter
  dsimp only
  split
  · rename_i g joined
    split
    · rename_i same
      refine own fun k ⟨joined', changes⟩ => ?_
      obtain rfl := Option.some.inj (joined.symm.trans joined')
      exact changes same
    · rename_i changes
      refine (RoomsComposed.forEach recompose_composed _ s).congr fun q => ?_
      have this : s0.suiteChanges s r g := ⟨joined, changes⟩
      constructor
      · exact fun mem => .inl ⟨g, this, mem⟩
      · rintro (⟨k, ⟨joined', -⟩, mem⟩ | ⟨quiet, -⟩)
        · obtain rfl := Option.some.inj (joined.symm.trans joined')
          exact mem
        · exact absurd this (quiet g)
  · rename_i single
    exact own fun g ⟨joined, _⟩ => by rw [single] at joined; cases joined

/-! ### Cleared and composed -/

/-- From `s` to `t` an event clears the node overrides of the rooms that `C` names and has AP compose the rooms that `P` names; other nodes
are offered and deferred at most. -/
structure Composes (C P : RoomId → Prop) (s t : State) : Prop where
  recomposed : ∀ r, P r → Recomposed s t r
  spared : ∀ n, (∀ e, s.entry n = some e → ¬ P e.room ∧ ¬ C e.room) → (t.plan n).map Plan.kept = (s.plan n).map Plan.kept
  cleared : ∀ r, C r → t.NoOverrides r
  kept : ∀ n, (∀ e, s.entry n = some e → ¬ C e.room) → (t.plan n).map Plan.override = (s.plan n).map Plan.override

/-- The end of an event offers at most. -/
theorem endEvent_kept (n : NodeRef) (s : State) : ((endEvent s).plan n).map Plan.kept = (s.plan n).map Plan.kept := by
  rw [endEvent_plan]; exact settle_kept n s

theorem endEvent_air (r : RoomId) (s : State) : (endEvent s).air r = s.air r := by
  rw [State.air, endEvent_ap, (settle_offers s).air, ← State.air]

theorem endEvent_composition (s : State) : SameComposition s (endEvent s) where
  re := endEvent_re s
  pu := (endEvent_work s).pu
  scenes := (endEvent_work s).tables.1
  rounding := (endEvent_work s).tables.2.1
  part r := by rw [endEvent_air]

namespace Composes

variable {C P : RoomId → Prop} {s u t : State}

theorem of_clears (h : Clears C s u) (k : RoomsComposed P u t) : Composes C P s t where
  recomposed r named := (k.recomposed named).of_earlier h.entry h.target (h.mode r)
  spared n other :=
    (k.spared n fun e entry => (other e ((h.entry n).symm.trans entry)).1).trans
      (congrArg (Option.map Plan.kept) (h.spared n fun e entry => (other e entry).2))
  cleared r named := (h.cleared r named).keeps k.overrides k.only.entry
  kept n other := (k.overrides n).trans (congrArg (Option.map Plan.override) (h.spared n other))

/-- What an event has composed stays so to its end. -/
theorem ends (h : Composes C P s t) : Composes C P s (endEvent t) where
  recomposed r named := by
    obtain ⟨targets, mode⟩ := h.recomposed r named
    have same := endEvent_composition t
    refine ⟨fun n e p entry room plan => ?_, by rw [endEvent_air, same.view, mode]⟩
    obtain ⟨q, held, target⟩ := targets n e p entry room plan
    have kept := endEvent_kept n t
    rw [held, Option.map_some, Option.map_eq_some_iff] at kept
    obtain ⟨q', held', kept⟩ := kept
    obtain ⟨target', override⟩ := Plan.fields_of_kept kept
    exact ⟨q', held', by rw [target', target, override, same.compose]⟩
  spared n other := (endEvent_kept n t).trans (h.spared n other)
  cleared r named := (h.cleared r named).keeps (endEvent_overrides t) (endEvent_work t).entry
  kept n other := (endEvent_overrides t n).trans (h.kept n other)

theorem congr {D Q : RoomId → Prop} (h : Composes C P s t) (same : ∀ r, C r ↔ D r) (alike : ∀ r, P r ↔ Q r) :
    Composes D Q s t :=
  (funext fun r => propext (same r) : C = D) ▸ (funext fun r => propext (alike r) : P = Q) ▸ h

variable (h : Composes C P s t)
include h

theorem keepsPlansBut {Q : RoomId → Prop} (sub : ∀ r, P r ∨ C r → Q r) : KeepsPlansBut Q s t := fun n _ entry other =>
  h.spared n fun _ entry' => Option.some.inj (entry.symm.trans entry') ▸
    ⟨fun named => other (sub _ (.inl named)), fun named => other (sub _ (.inr named))⟩

theorem keepsOverrides (none : ∀ r, ¬ C r) : KeepsOverrides s t := fun n => h.kept n fun e _ => none e.room

end Composes

/-! ### Standby duty (R126) -/

/-- Duty that has followed a room's state stays so while the room's record and its air are composed at most. -/
theorem DutyFollows.later {s u t : State} {r : RoomId} (h : DutyFollows s u r) (room : t.room r = u.room r)
    (air : (t.air r).frame = (u.air r).frame) : DutyFollows s t r := by
  have duty : t.inDuty r = u.inDuty r := by rw [State.inDuty, room, ← State.inDuty]
  obtain ⟨stays, leaves, enters⟩ := h
  refine ⟨fun same => air.trans (stays (same.trans duty)), fun was is => air.trans (leaves was (duty ▸ is)), fun was is => ?_⟩
  obtain ⟨active, waiting, steady, on, off⟩ := enters was (duty ▸ is)
  simp only [RoomAir.frame, RoomAir.mk.injEq] at air
  obtain ⟨sameActive, sameWaiting, samePart, sameTimer, -⟩ := air
  exact ⟨sameActive.trans active, sameWaiting.trans waiting, by rwa [samePart, sameTimer], by rwa [samePart, sameTimer],
    by rwa [samePart, sameTimer]⟩

theorem setRoomState_air (r q : RoomId) (st : RoomState) (s : State) : (setRoomState r st s).air q = s.air q := by
  have same : (setRoomState r st s).ap.air = s.ap.air := by
    unfold setRoomState
    split
    · rfl
    · dsimp only
      split
      · rw [enterVacant, clearOverrides_air]
        exact congrArg Ap.air (raise_ap .stateChanged r _)
      · exact congrArg Ap.air (raise_ap .stateChanged r _)
  rw [State.air, same, ← State.air]

theorem moveRoom_air (r q : RoomId) (f : OccState → OccState) (s : State) : (moveRoom r f s).air q = s.air q := by
  unfold moveRoom
  split
  · split
    · rfl
    · exact setRoomState_air ..
  · rfl
  · rfl

end Sys2Proof.Machine
end

section
/-!
PROOFS. The end of a room event, and LINGER EXPIRY (R79, R82, R126, R132).
-/

namespace Sys2Proof.Machine

/-! ### The end of a room event -/

/-- The end of a room event once the room's machines have moved: standby duty, composition, what the lines and NU are owed. -/
def finishEvent (s0 : State) (r : RoomId) (u : State) : State := endEvent (recomposeAfter s0 r (dutyEdge (s0.inDuty r) r u))

theorem afterRoomEvent_eq (s0 : State) (r : RoomId) (s : State) : afterRoomEvent s0 r s = finishEvent s0 r (presenceEdge s0 r s) := rfl

theorem Recomposes.congr {s0 u v : State} {r : RoomId} (re : v.re = u.re) (q : RoomId) :
    Recomposes s0 r v q ↔ Recomposes s0 r u q := by
  have suite := suite_of_re re
  simp only [Recomposes, State.suiteChanges, State.drivesChange, State.joinedSuite, State.suiteOcc, State.members,
    room_of_re re, suite]

section
variable {s u : State} (r : RoomId)

theorem finishEvent_records : (finishEvent s r u).records = u.records := by
  rw [finishEvent, endEvent_records, recomposeAfter_records, dutyEdge_records]

theorem finishEvent_room (q : RoomId) : (finishEvent s r u).room q = u.room q :=
  room_of_re (State.records_eq_iff.mp (finishEvent_records r)).1 q

theorem finishEvent_suite (g : SuiteId) : (finishEvent s r u).suite g = u.suite g :=
  suite_of_re (State.records_eq_iff.mp (finishEvent_records r)).1 g

theorem finishEvent_composes {C : RoomId → Prop} (h : Clears C s u) : Composes C (Recomposes s r u) s (finishEvent s r u) := by
  have composed := recomposeAfter_composed s r (dutyEdge (s.inDuty r) r u)
  exact (Composes.of_clears (h.then_none (dutyEdge_clears ..)) (composed.congr (Recomposes.congr (dutyEdge_re ..)))).ends

theorem finishEvent_raises {R : Condition → RoomId → Prop} (h : Raises R s u) : Raises R s (finishEvent s r u) :=
  ((h.then_none (dutyEdge_raises ..)).then_none (recomposeAfter_composed ..).only.raises).then_none (endEvent_raises _)

theorem finishEvent_duty (air : u.air r = s.air r) : DutyFollows s (finishEvent s r u) r := by
  refine (dutyEdge_follows s r u air).later (room_of_re ?_ r) ?_
  · rw [finishEvent, endEvent_re, recomposeAfter_re]
  · rw [finishEvent, endEvent_air]
    exact (recomposeAfter_composed ..).only.air r

/-- A room whose own machine has left its state is composed. -/
theorem Recomposes.of_state (own : (u.room r).state ≠ .joined) (moved : (u.room r).state ≠ (s.room r).state) : Recomposes s r u r := by
  refine .inr ⟨fun g ⟨joined, _⟩ => ?_, rfl, fun same => moved (Prod.mk.inj same).1⟩
  rw [State.joinedSuite, if_neg own] at joined
  cases joined

/-- Only the room itself is composed while it has a machine of its own. -/
theorem Recomposes.of_own {q : RoomId} (own : (u.room r).state ≠ .joined) (h : Recomposes s r u q) : q = r := by
  obtain ⟨g, ⟨joined, -⟩, -⟩ | ⟨-, same, -⟩ := h
  · rw [State.joinedSuite, if_neg own] at joined
    cases joined
  · exact same

end

/-! ### Expiries (R64) -/

/-- A timer that has run out has its expiry taken. -/
theorem whenReady_expired {t : Timer} {f : State → State} {s : State} (ready : s.power = .ready) (out : t = some 0) :
    whenReady (ifExpired t f) s = .next (f s) := by
  rw [whenReady, if_pos ready, ifExpired, if_pos out]

/-! ### LINGER EXPIRY (R79, R82, R126) -/

/-- A room's record with its linger timer stopped. -/
def Room.stopLinger (x : Room) : Room := { x with linger := none }

/-- The room once its machine has left LINGER, before the end of the event. -/
def lingerMoved (r : RoomId) (s : State) : State :=
  moveRoom r (OccState.onLingerEnd (s.room r).phase) (onRoom r Room.stopLinger s)

section
variable {r : RoomId} {s : State} (lingers : (s.room r).state = .run .linger)
include lingers

theorem stopLinger_state : ((onRoom r Room.stopLinger s).room r).state = .run .linger := by
  rw [room_onRoom]; exact lingers

theorem lingerMoved_room (q : RoomId) : (lingerMoved r s).room q =
      if q = r then { s.room r with
        state := .run (s.room r).phase.place, linger := none
        overrideScene := if (s.room r).phase.place = .vacant then none else (s.room r).overrideScene
        boost := if (s.room r).phase.place = .vacant then false else (s.room r).boost } else s.room q := by
  rw [lingerMoved, room_of_re (moveRoom_re ..)]
  split
  · rename_i here
    have gives : OccState.onLingerEnd (s.room r).phase .linger = (s.room r).phase.place := rfl
    rw [here, room_onRoom, Room.moved_of_moves (stopLinger_state lingers) (gives ▸ Phase.place_ne_linger _), gives, lingerAfter,
      if_neg (Phase.place_ne_linger _), room_onRoom]
    rfl
  · rename_i other
    rw [room_onRoom_ne other, room_onRoom_ne other]

theorem lingerEnds_eq_finish : lingerEnds r s = finishEvent s r (lingerMoved r s) := lingerEnds_eq lingers

theorem lingerMoved_clears : Clears (fun q => q = r ∧ (s.room r).phase.place = .vacant) s (lingerMoved r s) := by
  refine ((moveRoom_clears r _ _).after_none (onRoom_clears r _ s)).congr fun q => and_congr_right fun _ => ?_
  rw [Room.vacates_of_run (stopLinger_state lingers)]
  exact and_iff_right (Phase.place_ne_linger _)

theorem lingerMoved_raises : Raises (fun c q => c = .stateChanged ∧ q = r) s (lingerMoved r s) := by
  refine ((moveRoom_raises r _ _).after_none (onRoom_raises r _ s)).congr fun c q => and_congr_right fun _ => ?_
  rw [Room.moves_of_run (stopLinger_state lingers)]
  exact and_iff_left (Phase.place_ne_linger _)

end

/-- Settles O32: the room's machine leaves LINGER, and the end of a room event follows. -/
theorem lingerExpiryFollowsThePhase : Obligations.LingerExpiryFollowsThePhase := by
  intro r s ready lingers out
  refine ⟨lingerEnds r s, whenReady_expired ready out, ?_⟩
  set u := lingerMoved r s
  have made : lingerEnds r s = finishEvent s r u := lingerEnds_eq_finish lingers
  have rooms (q : RoomId) : (lingerEnds r s).room q = u.room q := by rw [made, finishEvent_room]
  have here := (lingerMoved_room lingers r).trans (if_pos rfl)
  have state : (u.room r).state = .run (s.room r).phase.place := by rw [here]
  have composes : Composes _ _ s (lingerEnds r s) := made ▸ finishEvent_composes r (lingerMoved_clears lingers)
  have own : (u.room r).state ≠ .joined := by rw [state]; exact nofun
  have moved : (u.room r).state ≠ (s.room r).state := by
    rw [state, lingers]
    exact fun same => Phase.place_ne_linger _ (RoomState.run.inj same)
  have raised : Raises _ s (lingerEnds r s) := made ▸ finishEvent_raises r (lingerMoved_raises lingers)
  have duty : DutyFollows s (lingerEnds r s) r := made ▸ finishEvent_duty r (moveRoom_air r r _ _)
  rw [rooms r, here]
  have vacates (phase : (s.room r).phase = .lag ∨ (s.room r).phase = .idle) : (s.room r).phase.place = .vacant := by
    obtain phase | phase := phase <;> rw [phase] <;> rfl
  have stays (phase : (s.room r).phase = .prep ∨ (s.room r).phase = .on) : (s.room r).phase.place ≠ .vacant := by
    obtain phase | phase := phase <;> rw [phase] <;> exact nofun
  refine ⟨fun phase => by rw [phase]; rfl, fun phase => by rw [phase]; rfl, fun phase => congrArg _ (vacates phase), rfl, rfl, rfl,
    raised.told _ _ ⟨rfl, rfl⟩, fun phase => ⟨?_, ?_, composes.cleared r ⟨rfl, vacates phase⟩⟩,
    fun phase => ⟨if_neg (stays phase), if_neg (stays phase), composes.keepsOverrides fun q named => stays phase named.2⟩, duty,
    composes.recomposed r (Recomposes.of_state r own moved), composes.keepsPlansBut fun q named => ?_, fun q other => ?_,
    lingerEnds_work r s⟩
  · rw [rooms, here]; exact if_pos (vacates phase)
  · rw [rooms, here]; exact if_pos (vacates phase)
  · obtain named | named := named
    · exact Recomposes.of_own r own named
    · exact named.1
  · rw [rooms q, lingerMoved_room lingers, if_neg other]

end Sys2Proof.Machine
end

section
/-!
PROOFS. The event of a room whose evidence has changed, to its end (R65, R77, R78, R81, R132, R166, R168): the room, its suite, the
conditions, and the rooms AP composes.
-/

namespace Sys2Proof.Machine

/-- An event has changed the evidence of room `r`, whose record is now `y`, and has raised the conditions that `R` names for it. -/
structure EvidenceEvent (r : RoomId) (y : Room) (R : Condition → Prop) (s e : State) : Prop extends
    EvidenceChange r y s e where
  cfg : y.cfg = (s.room r).cfg
  seen : y.seen = (s.room r).seen
  clears : Clears (fun _ => False) s e
  raises : Raises (fun c q => q = r ∧ R c) s e

theorem OccState.onEdge_rise {before after : Bool} (rises : before = false ∧ after = true) (o : OccState) :
    o.onEdge before after = .occupied := by
  rw [rises.1, rises.2]; rfl

theorem OccState.onEdge_fall {before after : Bool} (falls : before = true ∧ after = false) (o : OccState) :
    o.onEdge before after = o.onFall := by
  rw [falls.1, falls.2]; rfl

theorem OccState.onEdge_level {before after : Bool} (rises : ¬ (before = false ∧ after = true))
    (falls : ¬ (before = true ∧ after = false)) (o : OccState) : o.onEdge before after = o := by
  cases before <;> cases after
  · rfl
  · exact absurd ⟨rfl, rfl⟩ rises
  · exact absurd ⟨rfl, rfl⟩ falls
  · rfl

theorem OccState.onFall_of_ne {o : OccState} (ne : o ≠ .occupied) : o.onFall = o := by
  cases o with
  | occupied => exact absurd rfl ne
  | vacant | preparing | expected | linger => rfl

namespace EvidenceEvent

variable {r : RoomId} {y : Room} {R : Condition → Prop} {s e : State} (h : EvidenceEvent r y R s e)
include h

/-- Work on the rest of the state does not concern who is JOINED. -/
theorem joinedSuite : e.joinedSuite r = s.joinedSuite r := by
  obtain ⟨state, suite, -, -⟩ := Room.standing_eq_iff.mp h.standing
  rw [State.joinedSuite, h.room, state, suite, State.joinedSuite]

theorem members (g : SuiteId) : e.members g = s.members g := by rw [State.members, h.suite, ← State.members]

theorem suiteOcc (g : SuiteId) : e.suiteOcc g = s.suiteOcc g := by rw [State.suiteOcc, h.suite, ← State.suiteOcc]

/-! ### A room with its own machine -/

section
variable {o : OccState} (own : (s.room r).state = .run o)
include own

theorem own_run : (y.onEdge (s.room r).presence).state = .run o := by
  rw [Room.onEdge_state, h.state, own]

theorem own_re : (presenceEdge s r e).re = (onRoom r (fun _ => (y.onEdge (s.room r).presence).moved
    (OccState.onEdge (s.room r).presence y.presence)) s).re := by
  rw [presenceEdge_own_re (h.room.symm ▸ h.state.trans own), onRoom_re r _ h.re, onRoom_onRoom, h.room]

/-- The room takes its own edge. -/
theorem own_room : (afterRoomEvent s r e).room r =
    (y.onEdge (s.room r).presence).moved (OccState.onEdge (s.room r).presence y.presence) := by
  rw [afterRoomEvent_eq, finishEvent_room, room_of_re (h.own_re own), room_onRoom]

theorem own_others {q : RoomId} (ne : q ≠ r) : (afterRoomEvent s r e).room q = s.room q := by
  rw [afterRoomEvent_eq, finishEvent_room, room_of_re (h.own_re own), room_onRoom_ne ne]

theorem own_suites : (afterRoomEvent s r e).re.suites = s.re.suites := by
  rw [afterRoomEvent_re, h.own_re own]; rfl

theorem own_raises : Raises (fun c q => q = r ∧ (R c ∨
    (c = .stateChanged ∧ o.onEdge (s.room r).presence y.presence ≠ o))) s (afterRoomEvent s r e) := by
  have free : e.joinedSuite r = none := h.joinedSuite.trans (joinedSuite_of_run own)
  have run : (e.room r).state = .run o := by rw [h.room]; exact h.state.trans own
  refine (finishEvent_raises r (h.raises.trans (presenceEdge_own_raises (s0 := s) free))).congr fun c q => ?_
  rw [Room.moves_of_run run, h.room]
  tauto

/-- The room's state and linger timer follow its presence (R77, R78). -/
theorem own_moved : (afterRoomEvent s r e).room r = { y with
    state := .run (o.onEdge (s.room r).presence y.presence), seen := y.seen || (y.presence && !(s.room r).presence)
    linger := if o.onEdge (s.room r).presence y.presence = o then y.linger
              else lingerAfter (o.onEdge (s.room r).presence y.presence) (s.room r).cfg.lingerTime } := by
  rw [h.own_room own]
  split
  · rename_i stays
    rw [Room.moved_of_stays (h.own_run own) stays, stays, Room.onEdge_keeps, ← own, ← h.state]
  · rename_i moves
    rw [Room.moved_of_ne_vacant (h.own_run own) moves (OccState.onEdge_ne_vacant moves), Room.onEdge_keeps, ← h.cfg]

end

/-! ### A JOINED room -/

section
variable {g : SuiteId} (joined : s.joinedSuite r = some g)
include joined

theorem joined_room (q : RoomId) : (afterRoomEvent s r e).room q =
    if q = r then y.onEdge (s.room r).presence else s.room q := by
  rw [afterRoomEvent_eq, finishEvent_room, presenceEdge_joined_room (h.joinedSuite.trans joined), h.room]
  split
  · rfl
  · rename_i ne
    exact h.room_ne ne

/-- The suite's presence after the event is that of the members' new evidence. -/
theorem joined_presence : (afterRoomEvent s r e).suitePresence g = e.suitePresence g := by
  refine suitePresence_congr (((afterRoomEvent_work s r e).members g)) fun q _ => ?_
  rw [h.joined_room joined]
  split
  · rename_i here
    rw [Room.onEdge_presence, here, h.room]
  · rename_i ne
    rw [h.room_ne ne]

theorem joined_suite (k : SuiteId) : (afterRoomEvent s r e).suite k =
    if k = g then (s.suite g).map fun x => (x.onEdge (s.suitePresence g) (e.suitePresence g)).moved
      (OccState.onEdge (s.suitePresence g) (e.suitePresence g)) (s.room (s.leadOf g)).cfg.lingerTime
    else s.suite k := by
  have cfg (q : RoomId) : (e.room q).cfg = (s.room q).cfg := by
    by_cases here : q = r
    · rw [here, h.room, h.cfg]
    · rw [h.room_ne here]
  rw [afterRoomEvent_eq, finishEvent_suite, presenceEdge_joined_suite (h.joinedSuite.trans joined), h.suite, h.suite, cfg,
    State.leadOf, h.members, ← State.leadOf]

theorem joined_raises : Raises (fun c q => (q = r ∧ R c) ∨ (c = .stateChanged ∧
    (q ∈ s.members g ∧ (s.room q).state ≠ .off) ∧ s.suiteMoves g (OccState.onEdge (s.suitePresence g) (e.suitePresence g)))) s
    (afterRoomEvent s r e) := by
  have state (q : RoomId) : (e.room q).state = (s.room q).state := by
    by_cases here : q = r
    · rw [here, h.room, h.state]
    · rw [h.room_ne here]
  refine (finishEvent_raises r (h.raises.trans (presenceEdge_joined_raises (s0 := s) (h.joinedSuite.trans joined)))).congr
    fun c q => ?_
  rw [h.members, state, State.suiteMoves, h.suiteOcc, ← State.suiteMoves]

end

/-! ### The room, with a machine of its own or JOINED -/

/-- A JOINED room takes its seen flag alone. -/
theorem joined_here (joined : (s.room r).state = .joined) :
    (afterRoomEvent s r e).room r = y.onEdge (s.room r).presence := by
  cases suite : s.joinedSuite r with
  | some g => rw [h.joined_room suite, if_pos rfl]
  | none =>
    have stays : (y.onEdge (s.room r).presence).state = .joined := by rw [Room.onEdge_state, h.state, joined]
    rw [afterRoomEvent_eq, finishEvent_room, presenceEdge_own (h.joinedSuite.trans suite), room_of_re (moveRoom_re ..), room_onRoom,
      room_onRoom, h.room, Room.moved, stays]

/-- The room's record when the event ends, but for what its machine owns. -/
theorem room_eq : ∃ st timer, (afterRoomEvent s r e).room r =
    { y with state := st, linger := timer, seen := y.seen || (y.presence && !(s.room r).presence) } := by
  cases kind : (s.room r).state with
  | off => exact absurd kind h.loaded
  | run o => exact ⟨_, _, h.own_moved kind⟩
  | joined => exact ⟨y.state, y.linger, by rw [h.joined_here kind, Room.onEdge_keeps]⟩

theorem state_joined : ((afterRoomEvent s r e).room r).state = .joined ↔ (s.room r).state = .joined := by
  cases kind : (s.room r).state with
  | off => exact absurd kind h.loaded
  | run o =>
    rw [h.own_moved kind]
    exact iff_of_false nofun nofun
  | joined =>
    rw [h.joined_here kind, Room.onEdge_state, h.state]
    exact iff_of_true kind rfl

/-! ### The rooms AP composes -/

theorem composes : Composes (fun _ => False) (Recomposes s r (presenceEdge s r e)) s (afterRoomEvent s r e) :=
  finishEvent_composes r ((presenceEdge_clears s r e).after_none h.clears)

/-- The suite of the room changes its state. -/
theorem suiteChanges_iff {g : SuiteId} : s.suiteChanges (presenceEdge s r e) r g ↔
    s.joinedSuite r = some g ∧ (afterRoomEvent s r e).suiteOcc g ≠ s.suiteOcc g := by
  have room : (presenceEdge s r e).room r = (afterRoomEvent s r e).room r := (afterRoomEvent_room s r r e).symm
  have suite : ((afterRoomEvent s r e).room r).suite = (s.room r).suite := by
    rw [((afterRoomEvent_work s r e).configs r).2, h.room, (Room.standing_eq_iff.mp h.standing).2.1]
  have occ : (presenceEdge s r e).suiteOcc g = (afterRoomEvent s r e).suiteOcc g :=
    congrArg (Option.bind · Suite.occ) (suite_of_re (afterRoomEvent_re s r e) g).symm
  rw [State.suiteChanges, State.joinedSuite, room, suite, occ, State.joinedSuite]
  simp only [h.state_joined]

theorem members_after (g : SuiteId) : (presenceEdge s r e).members g = s.members g :=
  ((presenceEdge_work s r e).members g).trans (h.members g)

/-- Every member is composed when the suite has changed its state. -/
theorem recomposed_members {g : SuiteId} (joined : s.joinedSuite r = some g)
    (changed : (afterRoomEvent s r e).suiteOcc g ≠ s.suiteOcc g) {q : RoomId} (mem : q ∈ s.members g) :
    Recomposed s (afterRoomEvent s r e) q :=
  h.composes.recomposed q (.inl ⟨g, h.suiteChanges_iff.mpr ⟨joined, changed⟩, (h.members_after g).symm ▸ mem⟩)

/-- The room is composed when what it is composed from has changed, and its suite has not. -/
theorem recomposed_self (quiet : ∀ g, s.joinedSuite r = some g → (afterRoomEvent s r e).suiteOcc g = s.suiteOcc g)
    (drives : ((afterRoomEvent s r e).room r).drives ≠ (s.room r).drives) : Recomposed s (afterRoomEvent s r e) r := by
  refine h.composes.recomposed r (.inr ⟨fun g changes => ?_, rfl, by rwa [State.drivesChange, ← afterRoomEvent_room]⟩)
  obtain ⟨joined, changed⟩ := h.suiteChanges_iff.mp changes
  exact changed (quiet g joined)

theorem keepsOverrides : KeepsOverrides s (afterRoomEvent s r e) := h.composes.keepsOverrides fun _ => id

/-- The nodes of the room, and of its suite's members, are composed at most. -/
theorem keepsPlans : KeepsPlansBut (fun q => q = r ∨ ∃ g, s.joinedSuite r = some g ∧ q ∈ s.members g) s
    (afterRoomEvent s r e) := by
  refine h.composes.keepsPlansBut fun q named => ?_
  obtain (⟨g, changes, mem⟩ | ⟨-, same, -⟩) | none := named
  · exact .inr ⟨g, (h.suiteChanges_iff.mp changes).1, h.members_after g ▸ mem⟩
  · exact .inl same
  · exact none.elim

/-- The suite takes the edge of its presence (R166, R168). -/
theorem suiteTook {g : SuiteId} {x : Suite} {o : OccState} (joined : s.joinedSuite r = some g) (held : s.suite g = some x)
    (occ : x.occ = some o) : SuiteTook g x (o.onEdge (s.suitePresence g) ((afterRoomEvent s r e).suitePresence g))
      (x.seen || ((afterRoomEvent s r e).suitePresence g && !s.suitePresence g)) s (afterRoomEvent s r e) := by
  rw [h.joined_presence joined]
  set after := o.onEdge (s.suitePresence g) (e.suitePresence g)
  have was : s.suiteOcc g = some o := (suiteOcc_of_suite held).trans occ
  have stays : x.occ = some after ↔ after = o := by rw [occ, Option.some.injEq, eq_comm]
  have record := h.joined_suite joined g
  rw [if_pos rfl, held, Option.map_some, Suite.moved_of_occ (o := o) (by rw [Suite.onEdge_keeps]; exact occ),
    Suite.onEdge_keeps, State.leadOf, members_of_suite held] at record
  have is : (afterRoomEvent s r e).suiteOcc g = some after := suiteOcc_of_suite record
  refine ⟨?_, fun moves q mem loaded => (h.joined_raises joined).told _ q (.inr ⟨rfl, ⟨?_, loaded⟩, o, was, ?_⟩),
    fun moves vacant => ?_, fun _ => h.keepsOverrides, fun moves q mem => ?_, fun k ne => ?_⟩
  · rw [record]
    refine congrArg some (Suite.mk.injEq .. ▸ ⟨rfl, rfl, rfl, rfl, ?_⟩)
    exact if_congr stays.symm rfl rfl
  · rwa [members_of_suite held]
  · exact fun same => moves (stays.mpr same)
  · exact absurd vacant (OccState.onEdge_ne_vacant fun same => moves (stays.mpr same))
  · refine h.recomposed_members joined ?_ (by rwa [members_of_suite held])
    rw [is, was]
    exact fun same => moves (occ.trans same.symm)
  · rw [h.joined_suite joined, if_neg ne]

end EvidenceEvent

end Sys2Proof.Machine
end

section
/-!
PROOFS. The six evidence actions (R66 to R71, R73 to R75): what each makes of the room's evidence, and the conditions it raises.
-/

namespace Sys2Proof.Machine

/-! ### Conditions of the counts (R68, R69) -/

/-- The test of R69 would set the above-capacity flag. -/
def Room.crowds (x : Room) : Prop := x.cfg.capacity < x.head ∧ x.aboveCapacity = false

theorem overcrowdTest_clears (r : RoomId) (s : State) : Clears (fun _ => False) s (overcrowdTest r s) := by
  unfold overcrowdTest
  exact .ite_none (.ite_none (.refl s) ((raise_clears ..).after_none (onRoom_clears ..))) (onRoom_clears ..)

theorem overcrowdTest_raises {r : RoomId} {s : State} (loaded : (s.room r).state ≠ .off) :
    Raises (fun c q => q = r ∧ c = .overcrowd ∧ (s.room r).crowds) s (overcrowdTest r s) := by
  have quiet {t : State} (h : Raises (fun _ _ => False) s t) (no : ¬ (s.room r).crowds) :
      Raises (fun c q => q = r ∧ c = .overcrowd ∧ (s.room r).crowds) s t :=
    h.congr fun c q => (iff_false_intro fun ⟨_, _, crowds⟩ => no crowds).symm
  unfold overcrowdTest
  dsimp only
  split
  · rename_i above
    split
    · rename_i known
      exact quiet (.refl s) fun crowds => Bool.noConfusion (known.symm.trans crowds.2)
    · rename_i fresh
      have crowds : (s.room r).crowds := ⟨above, Bool.eq_false_of_not_eq_true fresh⟩
      refine ((raise_raises .overcrowd r _).after_none (onRoom_raises r _ s)).congr fun c q => ?_
      rw [room_onRoom, and_iff_left loaded, and_iff_left crowds, and_comm]
  · rename_i within
    exact quiet (onRoom_raises r _ s) fun crowds => within crowds.1

/-- The conditions an action raises for its room. -/
def Room.actRaises (act : RoomAct) (v : Half) (x : Room) (c : Condition) : Prop :=
  match act with
  | .countIn => c = .overcrowd ∧ (x.countIn v).crowds
  | .countOut => (c = .countDrift ∧ x.drifts v = true) ∨ (c = .overcrowd ∧ (x.countOut v).crowds)
  | _ => False

section
variable (act : RoomAct) (n : NodeRef) (v : Half) {r : RoomId} {s : State}

theorem actEvidence_clears : Clears (fun _ => False) s (actEvidence act n v r s) := by
  cases act with
  | motion | co2 | windowOpen | windowClosed => exact onRoom_clears r _ s
  | countIn => exact (overcrowdTest_clears r _).after_none (onRoom_clears r _ s)
  | countOut =>
    exact (overcrowdTest_clears r _).after_none
      (.ite_none ((raise_clears _ r _).after_none (onRoom_clears r _ s)) (onRoom_clears r _ s))
  | panelScene | panelOff => exact .refl s

theorem actEvidence_raises (loaded : (s.room r).state ≠ .off) :
    Raises (fun c q => q = r ∧ (s.room r).actRaises act v c) s (actEvidence act n v r s) := by
  have none {t : State} (h : Raises (fun _ _ => False) s t) : Raises (fun _ q => q = r ∧ False) s t :=
    h.congr fun c q => (iff_of_eq (and_false _)).symm
  cases act with
  | motion | co2 | windowOpen | windowClosed => exact none (onRoom_raises r _ s)
  | countIn =>
    have counted : ((onRoom r (Room.countIn v) s).room r).state ≠ .off := by rw [room_onRoom, Room.countIn_eq]; exact loaded
    refine ((overcrowdTest_raises counted).after_none (onRoom_raises r _ s)).congr fun c q => ?_
    rw [room_onRoom]; rfl
  | countOut =>
    have counted : ((onRoom r (Room.countOut v) s).room r).state ≠ .off := by rw [room_onRoom, Room.countOut_eq]; exact loaded
    have drift : Raises (fun c q => q = r ∧ c = .countDrift ∧ (s.room r).drifts v = true) s
        (if (s.room r).drifts v then raise .countDrift r (onRoom r (Room.countOut v) s) else onRoom r (Room.countOut v) s) := by
      split
      · rename_i drifts
        refine ((raise_raises .countDrift r _).after_none (onRoom_raises r _ s)).congr fun c q => ?_
        rw [and_iff_left counted, and_iff_left drifts, and_comm]
      · rename_i level
        exact (onRoom_raises r _ s).congr fun c q => (iff_false_intro fun ⟨_, _, drifts⟩ => level drifts).symm
    have room : (if (s.room r).drifts v then raise .countDrift r (onRoom r (Room.countOut v) s)
        else onRoom r (Room.countOut v) s).room r = (s.room r).countOut v := by
      split
      · rw [raise_room, room_onRoom]
      · rw [room_onRoom]
    refine (drift.trans (overcrowdTest_raises (by rwa [room, ← room_onRoom r (Room.countOut v) s]))).congr fun c q => ?_
    rw [room, ← and_or_left]; rfl
  | panelScene | panelOff => exact none (.refl s)

theorem actEvidence_event (loaded : (s.room r).state ≠ .off) :
    EvidenceEvent r ((s.room r).afterAct act (s.testsCo2 r) n v) ((s.room r).actRaises act v) s (actEvidence act n v r s) :=
  have keeps := Room.afterAct_keeps act n v (s.testsCo2 r) (s.room r)
  { toEvidenceChange := actEvidence_change act n v loaded, cfg := keeps.2.2.2, seen := keeps.2.2.1,
    clears := actEvidence_clears act n v, raises := actEvidence_raises act n v loaded }

end

/-- The six actions that change a room's evidence (R63). -/
def evidenceActs : List RoomAct := [.motion, .countIn, .countOut, .co2, .windowOpen, .windowClosed]

theorem roomAction_evidence {act : RoomAct} (mem : act ∈ evidenceActs) (n : NodeRef) (v : Half) {r : RoomId} {s : State}
    (loaded : (s.room r).state ≠ .off) : roomAction act n v r s = afterRoomEvent s r (actEvidence act n v r s) := by
  rw [roomAction, if_neg loaded]
  revert act
  simp only [evidenceActs, List.forall_mem_cons, List.not_mem_nil, false_imp_iff, implies_true, and_true]
  exact ⟨rfl, rfl, rfl, rfl, rfl, rfl⟩

/-! ### The evidence itself (R66 to R75) -/

section
variable (v : Half) (x : Room)

theorem Room.startStillness_stillness : x.startStillness.stillness =
    if 0 < x.head ∧ x.motionHold = none ∧ x.suspended = false ∧ x.stillness = none then some (x.cfg.countTrust * 60000)
    else x.stillness := by
  unfold Room.startStillness
  simp only [Option.isNone_iff_eq_none, Bool.not_eq_true]
  split <;> rfl

theorem Room.restartStillness_stillness : x.restartStillness.stillness =
    x.stillness.bind fun _ => some (x.cfg.countTrust * 60000) := by
  unfold Room.restartStillness
  cases h : x.stillness with
  | none => rw [if_neg nofun, h]; rfl
  | some ms => exact congrArg Room.stillness (if_pos rfl)

theorem Room.countIn_stillness_of_empty (empty : x.head = 0) : (x.countIn v).stillness =
    if x.motionHold = none ∧ x.suspended = false ∧ x.stillness = none then some (x.cfg.countTrust * 60000) else x.stillness := by
  have heads := countValue_pos v
  unfold Room.countIn
  dsimp only
  rw [if_pos empty, Room.startStillness_stillness]
  refine if_congr (and_iff_right ?_) rfl rfl
  dsimp only
  omega

theorem Room.countIn_stillness_of_heads (heads : 0 < x.head) : (x.countIn v).stillness =
    x.stillness.bind fun _ => some (x.cfg.countTrust * 60000) := by
  unfold Room.countIn
  dsimp only
  rw [if_neg heads.ne', Room.restartStillness_stillness]

theorem Room.countOut_stillness_of_empty (empty : x.head = 0) : (x.countOut v).stillness = x.stillness := by
  unfold Room.countOut
  dsimp only
  rw [if_pos empty]

theorem Room.countOut_stillness_of_last (heads : 0 < x.head) (last : x.head ≤ countValue v) : (x.countOut v).stillness = none := by
  unfold Room.countOut
  dsimp only
  rw [if_neg heads.ne', if_pos (Nat.sub_eq_zero_of_le last)]

theorem Room.countOut_stillness_of_heads (heads : countValue v < x.head) : (x.countOut v).stillness =
    x.stillness.bind fun _ => some (x.cfg.countTrust * 60000) := by
  unfold Room.countOut
  dsimp only
  rw [if_neg (by omega), if_neg (by omega), Room.restartStillness_stillness]

theorem Room.crowds_countIn : (x.countIn v).crowds ↔
    x.cfg.capacity < min 999 (x.head + countValue v) ∧ x.aboveCapacity = false := by
  rw [Room.crowds, Room.countIn_eq]

theorem Room.crowds_countOut : (x.countOut v).crowds ↔ x.cfg.capacity < x.head - countValue v ∧ x.aboveCapacity = false := by
  rw [Room.crowds, Room.countOut_eq]

end

/-- OCCUPIED or LINGER, the room's own state or its suite's (R73, R168). -/
theorem inUse_iff {s : State} {r : RoomId} : s.inUse r = true ↔
    (∃ o, (s.room r).state = .run o ∧ (o = .occupied ∨ o = .linger)) ∨ ((s.room r).state = .joined ∧
      ∃ g o, (s.room r).suite = some g ∧ s.suiteOcc g = some o ∧ (o = .occupied ∨ o = .linger)) := by
  unfold State.inUse
  cases (s.room r).state with
  | off => simp
  | run o => simp
  | joined =>
    cases (s.room r).suite with
    | none => simp
    | some g => simp [Option.any_eq_true]

end Sys2Proof.Machine
end

section
/-!
PROOFS. What a room action does (R63, R66 to R69, R73 to R75, R77, R81, R166, R168): the evidence, the machines, the rooms AP composes.
-/

namespace Sys2Proof.Machine

namespace EvidenceEvent

variable {r : RoomId} {y : Room} {R : Condition → Prop} {s e : State} (h : EvidenceEvent r y R s e)
include h

theorem presence_after : ((afterRoomEvent s r e).room r).presence = y.presence := by
  obtain ⟨st, timer, room⟩ := h.room_eq
  rw [room]; rfl

/-- A rise of presence sets the seen flag, and nothing else touches it (R81). -/
theorem seen_after : ((afterRoomEvent s r e).room r).seen =
    ((s.room r).seen || (((afterRoomEvent s r e).room r).presence && !(s.room r).presence)) := by
  rw [h.presence_after]
  obtain ⟨st, timer, room⟩ := h.room_eq
  rw [room, h.seen]

section
variable {o : OccState} (own : (s.room r).state = .run o)
include own

theorem own_rise (rises : (s.room r).presence = false ∧ y.presence = true) (ne : o ≠ .occupied) :
    ((afterRoomEvent s r e).room r).state = .run .occupied ∧ ((afterRoomEvent s r e).room r).linger = none ∧
      CondSet.holds ((afterRoomEvent s r e).notice r).conds .stateChanged = true := by
  have edge := OccState.onEdge_rise rises o
  refine ⟨?_, ?_, (h.own_raises own).told _ r ⟨rfl, .inr ⟨rfl, by rw [edge]; exact ne.symm⟩⟩⟩
  · rw [h.own_moved own, edge]
  · rw [h.own_moved own, edge, if_neg ne.symm]; rfl

theorem own_fall (falls : (s.room r).presence = true ∧ y.presence = false) (occupied : o = .occupied) :
    ((afterRoomEvent s r e).room r).state = .run .linger ∧
      ((afterRoomEvent s r e).room r).linger = some ((s.room r).cfg.lingerTime * 1000) ∧
      CondSet.holds ((afterRoomEvent s r e).notice r).conds .stateChanged = true := by
  subst occupied
  have edge : OccState.onEdge (s.room r).presence y.presence .occupied = .linger := OccState.onEdge_fall falls .occupied
  refine ⟨?_, ?_, (h.own_raises own).told _ r ⟨rfl, .inr ⟨rfl, by rw [edge]; exact nofun⟩⟩⟩
  · rw [h.own_moved own, edge]
  · rw [h.own_moved own, edge, if_neg nofun]; rfl

theorem own_level (rises : ¬ ((s.room r).presence = false ∧ y.presence = true))
    (falls : ¬ ((s.room r).presence = true ∧ y.presence = false)) :
    ((afterRoomEvent s r e).room r).state = (s.room r).state ∧ ((afterRoomEvent s r e).room r).linger = (s.room r).linger := by
  have edge := OccState.onEdge_level rises falls o
  rw [h.own_moved own, edge, if_pos rfl, own]
  exact ⟨rfl, (Room.standing_eq_iff.mp h.standing).2.2.1⟩

end

section
variable {g : SuiteId} (joined : s.joinedSuite r = some g)
include joined

/-- Without an edge of its presence the suite is as it was (R166). -/
theorem suite_level (rises : ¬ (s.suitePresence g = false ∧ (afterRoomEvent s r e).suitePresence g = true))
    (falls : ¬ (s.suitePresence g = true ∧ (afterRoomEvent s r e).suitePresence g = false)) :
    (afterRoomEvent s r e).suite g = s.suite g := by
  rw [h.joined_presence joined] at rises falls
  rw [h.joined_suite joined, if_pos rfl]
  cases s.suite g with
  | none => rfl
  | some x =>
    have unseen : x.onEdge (s.suitePresence g) (e.suitePresence g) = x := by
      rw [Suite.onEdge, if_neg fun up => rises (by simpa [and_comm] using up)]
    rw [Option.map_some, unseen, Suite.moved]
    split
    · rw [if_pos (OccState.onEdge_level rises falls _)]
    · rfl

theorem joined_others {q : RoomId} (ne : q ≠ r) : (afterRoomEvent s r e).room q = s.room q := by
  rw [h.joined_room joined, if_neg ne]

end

/-- Besides the conditions of the evidence an event raises STATE CHANGED at most. -/
theorem only_stateChanged : ∃ M : RoomId → Prop,
    Raises (fun c q => (q = r ∧ R c) ∨ (c = .stateChanged ∧ M q)) s (afterRoomEvent s r e) := by
  cases suite : e.joinedSuite r with
  | none => exact ⟨_, finishEvent_raises r (h.raises.trans (presenceEdge_own_raises suite))⟩
  | some g => exact ⟨_, finishEvent_raises r (h.raises.trans (presenceEdge_joined_raises suite))⟩

theorem told {c : Condition} (named : R c) : CondSet.holds ((afterRoomEvent s r e).notice r).conds c = true := by
  obtain ⟨M, raises⟩ := h.only_stateChanged
  exact raises.told c r (.inl ⟨rfl, named⟩)

theorem quiet {c : Condition} (other : ¬ R c) (ne : c ≠ .stateChanged) :
    CondSet.holds ((afterRoomEvent s r e).notice r).conds c = CondSet.holds (s.notice r).conds c := by
  obtain ⟨M, raises⟩ := h.only_stateChanged
  refine raises.quiet c r ?_
  rintro (⟨-, named⟩ | ⟨same, -⟩)
  · exact other named
  · exact ne same

end EvidenceEvent

theorem joinedSuite_some {s : State} {r : RoomId} {g : SuiteId} : s.joinedSuite r = some g ↔
    (s.room r).state = .joined ∧ (s.room r).suite = some g := by
  rw [State.joinedSuite]
  split
  · rename_i joined
    rw [and_iff_right joined]
  · rename_i own
    exact iff_of_false nofun fun both => own both.1

section
variable {act : RoomAct} (mem : act ∈ evidenceActs) (n : NodeRef) (v : Half) {r : RoomId} {s : State}
  (loaded : (s.room r).state ≠ .off)
include mem loaded

theorem roomAction_room : ∃ st timer seen, (roomAction act n v r s).room r =
    { (s.room r).afterAct act (s.testsCo2 r) n v with state := st, linger := timer, seen := seen } := by
  rw [roomAction_evidence mem n v loaded]
  obtain ⟨st, timer, room⟩ := (actEvidence_event act n v loaded).room_eq
  exact ⟨st, timer, _, room⟩

/-- What the machine does not own of the room is the new evidence. -/
theorem roomAction_field {β : Type} (π : Room → β)
    (owned : ∀ x st timer seen, π { x with state := st, linger := timer, seen := seen } = π x) :
    π ((roomAction act n v r s).room r) = π ((s.room r).afterAct act (s.testsCo2 r) n v) := by
  obtain ⟨st, timer, seen, room⟩ := roomAction_room mem n v loaded
  rw [room, owned]

/-- What an action leaves alone, and what it keeps (R84, R130, R132). -/
theorem roomAction_frame : RoomWork s (roomAction act n v r s) ∧ KeepsOverrides s (roomAction act n v r s) ∧
    KeepsPlansBut (fun q => q = r ∨ ∃ g, (s.room r).state = .joined ∧ (s.room r).suite = some g ∧ q ∈ s.members g) s
      (roomAction act n v r s) := by
  refine ⟨roomAction_work act n v r s, ?_⟩
  rw [roomAction_evidence mem n v loaded]
  have event := actEvidence_event act n v loaded
  refine ⟨event.keepsOverrides, ?_⟩
  have plans := event.keepsPlans
  simpa only [joinedSuite_some, and_assoc] using plans

/-- The machine an action moves, the room's own or its suite's (R77, R78, R81, R166, R168). -/
theorem roomAction_machine :
    let x := s.room r
    let t := roomAction act n v r s
    let y := t.room r
    let rises : Prop := x.presence = false ∧ y.presence = true
    let falls : Prop := x.presence = true ∧ y.presence = false
    (rises → y.seen = true) ∧ (¬ rises → y.seen = x.seen) ∧
    (∀ o, x.state = .run o →
      (rises → o ≠ .occupied →
        y.state = .run .occupied ∧ y.linger = none ∧ CondSet.holds (t.notice r).conds .stateChanged = true) ∧
      (falls → o = .occupied →
        y.state = .run .linger ∧ y.linger = some (x.cfg.lingerTime * 1000) ∧
          CondSet.holds (t.notice r).conds .stateChanged = true) ∧
      (¬ rises → ¬ falls → y.state = x.state ∧ y.linger = x.linger)) ∧
    (∀ g su o, x.state = .joined → x.suite = some g → s.suite g = some su → su.occ = some o →
      let suiteRises : Prop := s.suitePresence g = false ∧ t.suitePresence g = true
      let suiteFalls : Prop := s.suitePresence g = true ∧ t.suitePresence g = false
      y.state = .joined ∧ (∀ q, q ≠ r → t.room q = s.room q) ∧
      (suiteRises → SuiteTook g su .occupied true s t) ∧
      (suiteFalls → SuiteTook g su (if o = .occupied then .linger else o) su.seen s t) ∧
      (¬ suiteRises → ¬ suiteFalls → t.suite g = s.suite g)) := by
  have event := actEvidence_event act n v loaded
  have same := roomAction_evidence mem n v loaded
  intro x t y rises falls
  have presence : y.presence = (x.afterAct act (s.testsCo2 r) n v).presence := by
    rw [← event.presence_after, ← same]
  have seen : y.seen = (x.seen || (y.presence && !x.presence)) := by
    have flag := event.seen_after
    rwa [← same] at flag
  refine ⟨fun up => ?_, fun level => ?_, fun o own => ⟨fun up ne => ?_, fun down occupied => ?_, fun up down => ?_⟩,
    fun g su o joined named held occ => ?_⟩
  · rw [seen, up.1, up.2]
    exact Bool.or_true _
  · have rests : (y.presence && !x.presence) = false := Bool.eq_false_of_not_eq_true fun up =>
      level (by simpa [and_comm] using up)
    rw [seen, rests, Bool.or_false]
  · have moved := event.own_rise own (presence ▸ up) ne
    rwa [← same] at moved
  · have moved := event.own_fall own (presence ▸ down) occupied
    rwa [← same] at moved
  · have moved := event.own_level own (presence ▸ up) (presence ▸ down)
    rwa [← same] at moved
  · have suite := joinedSuite_some.mpr ⟨joined, named⟩
    have took := event.suiteTook suite held occ
    have others (q : RoomId) (ne : q ≠ r) := event.joined_others suite ne
    have level := event.suite_level suite
    rw [← same] at took level
    simp only [← same] at others
    refine ⟨?_, others, fun up => ?_, fun down => ?_, level⟩
    · have kept := event.state_joined
      rw [← same] at kept
      exact kept.mpr joined
    · rw [OccState.onEdge_rise up, up.1, up.2, Bool.not_false, Bool.and_true, Bool.or_true] at took
      exact took
    · rw [OccState.onEdge_fall down, down.1, down.2, Bool.false_and, Bool.or_false] at took
      have edge : o.onFall = if o = .occupied then .linger else o := by cases o <;> rfl
      rwa [edge] at took

/-- The rooms AP composes after an action (R132, R166, R168). -/
theorem roomAction_recomposes :
    let x := s.room r
    let t := roomAction act n v r s
    let y := t.room r
    let suiteMoved : Prop := ∃ g, x.state = .joined ∧ x.suite = some g ∧ t.suiteOcc g ≠ s.suiteOcc g
    (y.state ≠ x.state ∨ y.head ≠ x.head ∨ y.boost ≠ x.boost ∨ y.windows.isEmpty ≠ x.windows.isEmpty →
      ¬ suiteMoved → Recomposed s t r) ∧
    (∀ g, x.state = .joined → x.suite = some g → t.suiteOcc g ≠ s.suiteOcc g → ∀ q ∈ s.members g, Recomposed s t q) := by
  have event := actEvidence_event act n v loaded
  have same := roomAction_evidence mem n v loaded
  intro x t y suiteMoved
  have self := event.recomposed_self
  have members {g : SuiteId} := event.recomposed_members (g := g)
  rw [← same] at self
  simp only [← same] at members
  refine ⟨fun drives quiet => self (fun g suite => ?_) fun alike => ?_, fun g joined named changed q => ?_⟩
  · obtain ⟨joined, named⟩ := joinedSuite_some.mp suite
    exact not_not.mp fun changed => quiet ⟨g, joined, named, changed⟩
  · simp only [Room.drives, Prod.mk.injEq] at alike
    obtain ⟨state, head, boost, windows⟩ := alike
    obtain change | change | change | change := drives
    · exact change state
    · exact change head
    · exact change boost
    · exact change windows
  · exact members (joinedSuite_some.mpr ⟨joined, named⟩) changed

end

section
variable (n : NodeRef) (v : Half) {r : RoomId} {s : State} (loaded : (s.room r).state ≠ .off)
include loaded

/-- The tests of R69 after a count (R67 to R69). -/
theorem roomAction_counted {act : RoomAct} {head : Nat}
    (counted : act = .countIn ∧ head = min 999 ((s.room r).head + countValue v) ∨
      act = .countOut ∧ head = (s.room r).head - countValue v) :
    ((roomAction act n v r s).room r).head = head ∧
    ((roomAction act n v r s).room r).aboveCapacity = decide ((s.room r).cfg.capacity < head) ∧
    ((s.room r).cfg.capacity < head → (s.room r).aboveCapacity = false →
      CondSet.holds ((roomAction act n v r s).notice r).conds .overcrowd = true) ∧
    (head ≤ (s.room r).cfg.capacity ∨ (s.room r).aboveCapacity = true →
      CondSet.holds ((roomAction act n v r s).notice r).conds .overcrowd = CondSet.holds (s.notice r).conds .overcrowd) := by
  have mem : act ∈ evidenceActs := by
    obtain ⟨rfl, -⟩ | ⟨rfl, -⟩ := counted
    · exact .tail _ (.head _)
    · exact .tail _ (.tail _ (.head _))
  have record : ((s.room r).afterAct act (s.testsCo2 r) n v).head = head ∧
      ((s.room r).afterAct act (s.testsCo2 r) n v).aboveCapacity = decide ((s.room r).cfg.capacity < head) := by
    obtain ⟨rfl, rfl⟩ | ⟨rfl, rfl⟩ := counted
    · rw [Room.afterAct, Room.crowded, Room.countIn_eq]
      exact ⟨rfl, rfl⟩
    · rw [Room.afterAct, Room.crowded, Room.countOut_eq]
      exact ⟨rfl, rfl⟩
  have crowds : (s.room r).actRaises act v .overcrowd ↔ (s.room r).cfg.capacity < head ∧ (s.room r).aboveCapacity = false := by
    obtain ⟨rfl, rfl⟩ | ⟨rfl, rfl⟩ := counted
    · exact (and_iff_right rfl).trans (Room.crowds_countIn v _)
    · exact ((or_iff_right fun drift => nomatch drift.1).trans (and_iff_right rfl)).trans (Room.crowds_countOut v _)
  have event := actEvidence_event act n v loaded
  have told := event.told (c := .overcrowd)
  have quiet := event.quiet (c := .overcrowd)
  rw [← roomAction_evidence mem n v loaded, crowds] at told quiet
  refine ⟨(roomAction_field mem n v loaded Room.head fun _ _ _ _ => rfl).trans record.1,
    (roomAction_field mem n v loaded Room.aboveCapacity fun _ _ _ _ => rfl).trans record.2, fun above fresh => told ⟨above, fresh⟩, fun within => quiet (fun crowd => ?_) nofun⟩
  obtain within | known := within
  · exact absurd crowd.1 (Nat.not_lt.mpr within)
  · exact Bool.noConfusion (known.symm.trans crowd.2)

/-- The CO2 latch after a CO2 action (R73). -/
theorem roomAction_co2 :
    let x := s.room r
    let inUse : Prop := (∃ o, x.state = .run o ∧ (o = .occupied ∨ o = .linger)) ∨
       (x.state = .joined ∧ ∃ g o, x.suite = some g ∧ s.suiteOcc g = some o ∧ (o = .occupied ∨ o = .linger))
    let boost := ((roomAction .co2 n v r s).room r).boost
    let tested : Prop := inUse ∧ (s.air r).mode = some .comfort
    (tested → x.cfg.co2Threshold ≤ v.toNat → boost = true) ∧
    (tested → v.toNat < x.cfg.co2Threshold → v.toNat ≤ x.cfg.co2Threshold - x.cfg.hysteresis → boost = false) ∧
    (tested → v.toNat < x.cfg.co2Threshold → x.cfg.co2Threshold - x.cfg.hysteresis < v.toNat → boost = x.boost) ∧
    (¬ tested → boost = x.boost) := by
  intro x inUse boost tested
  have tests : s.testsCo2 r = true ↔ tested := by
    rw [State.testsCo2, Bool.and_eq_true, inUse_iff, beq_iff_eq]
  have latch : boost = (x.co2Action (s.testsCo2 r) v).boost :=
    roomAction_field (act := .co2) (by decide) n v loaded Room.boost fun _ _ _ _ => rfl
  rw [latch, Room.co2Action]
  refine ⟨fun on high => ?_, fun on below low => ?_, fun on below between => ?_, fun off => ?_⟩
  · simp only [tests.mpr on, if_true, if_pos high]
  · simp only [tests.mpr on, if_true, if_neg (Nat.not_le.mpr below), if_pos low]
  · simp only [tests.mpr on, if_true, if_neg (Nat.not_le.mpr below), if_neg (Nat.not_le.mpr between)]
  · simp only [if_neg (mt tests.mp off)]

/-- The stillness timer after a count (R70, R71). -/
theorem roomAction_stillness :
    let x := s.room r
    let full := some (x.cfg.countTrust * 60000)
    (x.head = 0 → ((roomAction .countIn n v r s).room r).stillness =
      if x.motionHold = none ∧ x.suspended = false ∧ x.stillness = none then full else x.stillness) ∧
    (0 < x.head → ((roomAction .countIn n v r s).room r).stillness = x.stillness.bind fun _ => full) ∧
    (x.head = 0 → ((roomAction .countOut n v r s).room r).stillness = x.stillness) ∧
    (0 < x.head → x.head ≤ countValue v → ((roomAction .countOut n v r s).room r).stillness = none) ∧
    (countValue v < x.head → ((roomAction .countOut n v r s).room r).stillness = x.stillness.bind fun _ => full) := by
  intro x full
  have counted : ((roomAction .countIn n v r s).room r).stillness = (x.countIn v).stillness :=
    roomAction_field (act := .countIn) (by decide) n v loaded Room.stillness fun _ _ _ _ => rfl
  have left : ((roomAction .countOut n v r s).room r).stillness = (x.countOut v).stillness :=
    roomAction_field (act := .countOut) (by decide) n v loaded Room.stillness fun _ _ _ _ => rfl
  rw [counted, left]
  exact ⟨x.countIn_stillness_of_empty v, x.countIn_stillness_of_heads v, x.countOut_stillness_of_empty v,
    x.countOut_stillness_of_last v, x.countOut_stillness_of_heads v⟩

/-- COUNT DRIFT, when a count takes the estimate below 0 (R68). -/
theorem roomAction_drift (below : (s.room r).head < countValue v) :
    CondSet.holds ((roomAction .countOut n v r s).notice r).conds .countDrift = true := by
  rw [roomAction_evidence (act := .countOut) (by decide) n v loaded]
  exact (actEvidence_event .countOut n v loaded).told (.inl ⟨rfl, decide_eq_true below⟩)

/-- The open-window set after a window action (R74, R75). -/
theorem roomAction_windows :
    (n ∉ (s.room r).windows → (s.room r).windows.length < 8 →
      ((roomAction .windowOpen n v r s).room r).windows = (s.room r).windows ++ [n]) ∧
    (n ∈ (s.room r).windows ∨ 8 ≤ (s.room r).windows.length →
      ((roomAction .windowOpen n v r s).room r).windows = (s.room r).windows) ∧
    ((roomAction .windowClosed n v r s).room r).windows = (s.room r).windows.filter (· != n) := by
  have set : ((roomAction .windowOpen n v r s).room r).windows = ((s.room r).windowOpen n).windows :=
    roomAction_field (act := .windowOpen) (by decide) n v loaded Room.windows fun _ _ _ _ => rfl
  refine ⟨fun new place => ?_, fun known => ?_,
    roomAction_field (act := .windowClosed) (by decide) n v loaded Room.windows fun _ _ _ _ => rfl⟩
  · rw [set, Room.windowOpen, if_neg (not_or.mpr ⟨new, Nat.not_le.mpr place⟩)]
  · rw [set, Room.windowOpen, if_pos known]

end

theorem panel_room_ne (k : SceneNum) {q r : RoomId} (ne : q ≠ r) (s : State) : (panel k r s).room q = s.room q := by
  unfold panel
  split
  · rfl
  · rw [setOverrideScene, (recompose_only ..).room, (clearOverrides_only ..).room, room_onRoom_ne ne]

/-- A room with its own machine is the only one an action touches. -/
theorem roomAction_others (act : RoomAct) (n : NodeRef) (v : Half) {r q : RoomId} {s : State} {o : OccState}
    (own : (s.room r).state = .run o) (ne : q ≠ r) : (roomAction act n v r s).room q = s.room q := by
  have loaded : (s.room r).state ≠ .off := by rw [own]; exact nofun
  have evidence {act : RoomAct} (mem : act ∈ evidenceActs) : (roomAction act n v r s).room q = s.room q := by
    rw [roomAction_evidence mem n v loaded]
    exact (actEvidence_event act n v loaded).own_others own ne
  have scene {t : State} (h : t.room q = s.room q) : (endEvent t).room q = s.room q := (endEvent_room q t).trans h
  cases act with
  | motion | countIn | countOut | co2 | windowOpen | windowClosed => exact evidence (by decide)
  | panelScene chosen =>
    rw [roomAction, if_neg loaded]
    cases chosen with
    | some k => exact scene (panel_room_ne k ne s)
    | none =>
      unfold takeRoomAct
      dsimp only
      split
      · exact scene (panel_room_ne _ ne s)
      · exact scene rfl
  | panelOff =>
    rw [roomAction, if_neg loaded]
    exact scene (panel_room_ne 0 ne s)

/-- Settles O33: an evidence action is an event that changes the room's evidence alone, and `EvidenceEvent` says what follows. -/
theorem roomActionsChangeTheirEvidence : Obligations.RoomActionsChangeTheirEvidence := by
  refine ⟨fun act n v r s off => if_pos off, fun n v r s loaded => ?_⟩
  intro x after count
  have field {act : RoomAct} (mem : act ∈ evidenceActs) {β : Type} (π : Room → β) := roomAction_field mem n v loaded π
  have counted := roomAction_counted n v loaded (.inl ⟨rfl, rfl⟩)
  have left := roomAction_counted n v loaded (.inr ⟨rfl, rfl⟩)
  obtain ⟨opens, full, closes⟩ := roomAction_windows n v loaded
  have moved : ((after .motion).room r).motionHold = some (x.cfg.motionHold * 1000) :=
    field (by decide) Room.motionHold fun _ _ _ _ => rfl
  refine ⟨moved, field (act := .motion) (by decide) Room.stillness fun _ _ _ _ => rfl,
    field (act := .motion) (by decide) Room.head fun _ _ _ _ => rfl, counted.1, ?_, left.1,
    roomAction_drift n v loaded, field (act := .co2) (by decide) Room.co2 fun _ _ _ _ => rfl, roomAction_co2 n v loaded, ?_,
    roomAction_stillness n v loaded, opens, full, closes, fun act mem => roomAction_frame mem n v loaded,
    fun o own absent ne => ?_, fun act o own q ne => roomAction_others act n v own ne,
    fun act mem => roomAction_machine mem n v loaded, fun act mem => roomAction_recomposes mem n v loaded⟩
  · refine (field (act := .countIn) (by decide) Room.motionHold fun _ _ _ _ => rfl).trans ?_
    rw [Room.afterAct, Room.crowded, Room.countIn_eq]
  · simp only [List.forall_mem_cons, List.not_mem_nil, false_imp_iff, implies_true, and_true]
    exact ⟨counted.2, left.2⟩
  · obtain ⟨seen, -, machine, -⟩ := roomAction_machine (act := .motion) (by decide) n v loaded
    have present : ((after .motion).room r).presence = true := by
      rw [Room.presence, moved]; rfl
    obtain ⟨state, linger, told⟩ := (machine o own).1 ⟨absent, present⟩ ne
    exact ⟨state, linger, seen ⟨absent, present⟩, told⟩

end Sys2Proof.Machine
end

section
/-!
PROOFS. MOTION HOLD, STILLNESS and SUITE LINGER EXPIRY (R66, R70, R71, R78, R84, R166, R168).
-/

namespace Sys2Proof.Machine

theorem KeepsPlansBut.mono {P Q : RoomId → Prop} {s t : State} (h : KeepsPlansBut P s t) (sub : ∀ r, P r → Q r) :
    KeepsPlansBut Q s t := fun n e entry other => h n e entry fun named => other (sub _ named)

/-- A timer that has not run out has no expiry taken (R84). -/
theorem whenReady_running {t : Timer} {f : State → State} {s : State} (runs : t ≠ some 0) :
    whenReady (ifExpired t f) s = .next s := by
  rw [whenReady, ifExpired, if_neg runs, ite_self]

theorem Room.state_of_drives {x y : Room} (h : x.drives = y.drives) : x.state = y.state := congrArg Prod.fst h

theorem Room.head_of_drives {x y : Room} (h : x.drives = y.drives) : x.head = y.head := congrArg (fun d => d.2.1) h

/-! ### Evidence that falls (R66, R71, R166) -/

namespace EvidenceEvent

variable {r : RoomId} {y : Room} {R : Condition → Prop} {s e : State} (h : EvidenceEvent r y R s e)
include h

theorem own_plans {o : OccState} (own : (s.room r).state = .run o) : KeepsPlansBut (fun q => q = r) s (afterRoomEvent s r e) := by
  refine h.keepsPlans.mono fun q named => named.resolve_right ?_
  rintro ⟨g, joined, -⟩
  rw [joinedSuite_of_run own] at joined
  cases joined

section
variable {o : OccState} (own : (s.room r).state = .run o)
include own

/-- Presence that stays leaves the machine where it is. -/
theorem own_stays (present : (s.room r).presence = true) (still : y.presence = true) : (afterRoomEvent s r e).room r = y := by
  have edge : o.onEdge (s.room r).presence y.presence = o := by rw [present, still]; rfl
  have seen : (y.seen || (y.presence && !(s.room r).presence)) = y.seen := by
    rw [present, Bool.not_true, Bool.and_false, Bool.or_false]
  rw [h.own_moved own, edge, if_pos rfl, seen, ← own, ← h.state]

/-- Presence that falls takes OCCUPIED to LINGER (R78). -/
theorem own_lingers (occupied : o = .occupied) (present : (s.room r).presence = true) (absent : y.presence = false) :
    (afterRoomEvent s r e).room r = { y with
      state := .run .linger, linger := some ((s.room r).cfg.lingerTime * 1000) } ∧
    CondSet.holds ((afterRoomEvent s r e).notice r).conds .stateChanged = true ∧ Recomposed s (afterRoomEvent s r e) r := by
  subst occupied
  have edge : OccState.onEdge (s.room r).presence y.presence .occupied = .linger :=
    OccState.onEdge_fall ⟨present, absent⟩ .occupied
  have seen : (y.seen || (y.presence && !(s.room r).presence)) = y.seen := by
    rw [absent, Bool.false_and, Bool.or_false]
  have room : (afterRoomEvent s r e).room r = { y with
      state := .run .linger, linger := some ((s.room r).cfg.lingerTime * 1000) } := by
    rw [h.own_moved own, edge, if_neg nofun, seen]
    rfl
  refine ⟨room, (h.own_fall own ⟨present, absent⟩ rfl).2.2, h.recomposed_self (fun g joined => ?_) fun same => ?_⟩
  · rw [joinedSuite_of_run own] at joined; cases joined
  · have state := Room.state_of_drives same
    rw [room, own] at state
    cases state

end

section
variable (falls : y.presence = true → (s.room r).presence = true)
include falls

theorem joined_keeps (joined : (s.room r).state = .joined) : (afterRoomEvent s r e).room r = y := by
  have unseen : (y.presence && !(s.room r).presence) = false := by
    cases after : y.presence with
    | false => rfl
    | true => rw [falls after]; rfl
  rw [h.joined_here joined, Room.onEdge, if_neg (Bool.eq_false_iff.mp unseen)]

variable {g : SuiteId} (joined : s.joinedSuite r = some g)
include joined

/-- The suite's presence does not rise where a member's does not. -/
theorem suitePresence_falls (present : (afterRoomEvent s r e).suitePresence g = true) : s.suitePresence g = true := by
  rw [h.joined_presence joined, State.suitePresence, h.members, List.any_eq_true] at present
  obtain ⟨q, mem, present⟩ := present
  refine List.any_eq_true.mpr ⟨q, mem, ?_⟩
  by_cases here : q = r
  · rw [here, h.room] at present
    rw [here]
    exact falls present
  · rwa [h.room_ne here] at present

/-- The suite of a member whose presence does not rise goes to LINGER when its own falls (R166). -/
theorem suiteTook_fall {x : Suite} {o : OccState} (held : s.suite g = some x) (occ : x.occ = some o) :
    SuiteTook g x (if o = .occupied ∧ s.suitePresence g = true ∧ (afterRoomEvent s r e).suitePresence g = false then .linger else o)
      x.seen s (afterRoomEvent s r e) := by
  have took := h.suiteTook joined held occ
  have down := h.suitePresence_falls falls joined
  have edge : o.onEdge (s.suitePresence g) ((afterRoomEvent s r e).suitePresence g) =
      if o = .occupied ∧ s.suitePresence g = true ∧ (afterRoomEvent s r e).suitePresence g = false then .linger else o := by
    split
    · rename_i fall
      rw [OccState.onEdge_fall fall.2, fall.1]; rfl
    · rename_i level
      by_cases fall : s.suitePresence g = true ∧ (afterRoomEvent s r e).suitePresence g = false
      · rw [OccState.onEdge_fall fall, OccState.onFall_of_ne fun occupied => level ⟨occupied, fall⟩]
      · exact OccState.onEdge_level (fun rise => Bool.noConfusion (rise.1.symm.trans (down rise.2))) fall o
  have seen : (x.seen || ((afterRoomEvent s r e).suitePresence g && !s.suitePresence g)) = x.seen := by
    cases after : (afterRoomEvent s r e).suitePresence g with
    | false => exact Bool.or_false _
    | true => rw [down after]; exact Bool.or_false _
  rwa [edge, seen] at took

end

/-- A suite whose state changes has the room for a member. -/
theorem mem_of_suiteOcc {g : SuiteId} (joined : s.joinedSuite r = some g)
    (changed : (afterRoomEvent s r e).suiteOcc g ≠ s.suiteOcc g) : r ∈ s.members g := by
  by_contra out
  have presence : e.suitePresence g = s.suitePresence g := suitePresence_congr (h.members g) fun q mem => by
    rw [h.room_ne fun here => out (here ▸ mem)]
  refine changed ?_
  rw [State.suiteOcc, h.suite_level joined, ← State.suiteOcc]
  · rw [h.joined_presence joined, presence]
    exact fun rise => Bool.noConfusion (rise.1.symm.trans rise.2)
  · rw [h.joined_presence joined, presence]
    exact fun fall => Bool.noConfusion (fall.1.symm.trans fall.2)

theorem joined_plans {g : SuiteId} {x : Suite} (joined : s.joinedSuite r = some g) (held : s.suite g = some x) :
    KeepsPlansBut (fun q => q = r ∨ q ∈ x.members) s (afterRoomEvent s r e) := by
  refine h.keepsPlans.mono fun q named => named.imp_right ?_
  rintro ⟨k, joined', mem⟩
  obtain rfl := Option.some.inj (joined.symm.trans joined')
  exact members_of_suite held ▸ mem

/-- The room is composed when its estimate has changed, by itself or with its suite. -/
theorem recomposed_of_head (head : y.head ≠ (s.room r).head) : Recomposed s (afterRoomEvent s r e) r := by
  by_cases changes : ∃ g, s.joinedSuite r = some g ∧ (afterRoomEvent s r e).suiteOcc g ≠ s.suiteOcc g
  · obtain ⟨g, joined, changed⟩ := changes
    exact h.recomposed_members joined changed (h.mem_of_suiteOcc joined changed)
  · refine h.recomposed_self (fun g joined => not_not.mp fun changed => changes ⟨g, joined, changed⟩) fun same => head ?_
    obtain ⟨st, timer, room⟩ := h.room_eq
    have kept := Room.head_of_drives same
    rw [room] at kept
    exact kept

end EvidenceEvent

/-! ### MOTION HOLD EXPIRY and STILLNESS EXPIRY (R66, R71) -/

/-- A room's record when its motion hold has ended (R66, R70). -/
def Room.holdEnded (x : Room) : Room := Room.startStillness { x with motionHold := none }

/-- A room's record when its stillness has ended (R71). -/
def Room.stillEnded (x : Room) : Room := { x with head := 0, stillness := none, aboveCapacity := false }

theorem Room.holdEnded_eq (x : Room) : x.holdEnded = { x with
    motionHold := none
    stillness := if 0 < x.head ∧ x.suspended = false ∧ x.stillness = none then some (x.cfg.countTrust * 60000) else x.stillness } := by
  rw [Room.holdEnded, Room.startStillness_eq, Room.startStillness_stillness]
  congr 1
  exact if_congr (and_congr_right fun _ => and_iff_right rfl) rfl rfl

theorem Room.holdEnded_presence (x : Room) : x.holdEnded.presence = decide (0 < x.head) := by
  rw [Room.holdEnded_eq]; rfl

theorem Room.stillEnded_presence (x : Room) : x.stillEnded.presence = x.motionHold.isSome := Bool.or_false _

theorem Room.presence_of_hold {x : Room} (out : x.motionHold = some 0) : x.presence = true := by
  rw [Room.presence, out]; rfl

section
variable {r : RoomId} {s : State}

theorem motionHoldEnds_event (out : (s.room r).motionHold = some 0) (loaded : (s.room r).state ≠ .off) :
    EvidenceEvent r (s.room r).holdEnded (fun _ => False) s (onRoom r Room.holdEnded s) where
  records := rfl
  loaded := loaded
  standing := by rw [Room.holdEnded_eq]; rfl
  phase := by rw [Room.holdEnded_eq]
  still still := Room.startStillness_still fun runs => by
    rw [(still runs).2.1] at out; cases out
  cfg := by rw [Room.holdEnded_eq]
  seen := by rw [Room.holdEnded_eq]
  clears := onRoom_clears r _ s
  raises := (onRoom_raises r _ s).congr fun _ _ => (iff_of_eq (and_false _)).symm

theorem stillnessEnds_event (loaded : (s.room r).state ≠ .off) :
    EvidenceEvent r (s.room r).stillEnded (· = .countDrift) s (raise .countDrift r (onRoom r Room.stillEnded s)) where
  records := raise_records ..
  loaded := loaded
  standing := rfl
  phase := rfl
  still _ := Room.still_of_none rfl
  cfg := rfl
  seen := rfl
  clears := (raise_clears ..).after_none (onRoom_clears r _ s)
  raises := ((raise_raises .countDrift r _).after_none (onRoom_raises r _ s)).congr fun c q => by
    rw [room_onRoom, and_iff_left (show (s.room r).stillEnded.state ≠ .off from loaded), and_comm]

theorem motionHoldEnds_eq : motionHoldEnds r s = afterRoomEvent s r (onRoom r Room.holdEnded s) := rfl

theorem stillnessEnds_eq : stillnessEnds r s = afterRoomEvent s r (raise .countDrift r (onRoom r Room.stillEnded s)) := rfl

/-- The end of the motion hold in a room with its own machine (R66, R70, R78). -/
theorem motionHoldEnds_own {o : OccState} (own : (s.room r).state = .run o) (out : (s.room r).motionHold = some 0) :
    let t := motionHoldEnds r s
    RoomWork s t ∧ (∀ q, q ≠ r → t.room q = s.room q) ∧
       t.re.suites = s.re.suites ∧ KeepsOverrides s t ∧ KeepsPlansBut (fun q => q = r) s t ∧
       (0 < (s.room r).head → t.room r = { s.room r with
         motionHold := none
         stillness := if (s.room r).suspended = true ∨ (s.room r).stillness ≠ none then (s.room r).stillness
                      else some ((s.room r).cfg.countTrust * 60000) }) ∧
       ((s.room r).head = 0 → o = .occupied →
         t.room r = { s.room r with motionHold := none, state := .run .linger
                                    linger := some ((s.room r).cfg.lingerTime * 1000) } ∧
         CondSet.holds (t.notice r).conds .stateChanged = true ∧ Recomposed s t r) := by
  have event := motionHoldEnds_event out (by rw [own]; exact nofun)
  have present := Room.presence_of_hold out
  dsimp only
  rw [motionHoldEnds_eq]
  refine ⟨motionHoldEnds_work r s, fun q => event.own_others own, event.own_suites own, event.keepsOverrides, event.own_plans own,
    fun heads => ?_, fun empty occupied => ?_⟩
  · refine (event.own_stays own present (by rw [Room.holdEnded_presence, decide_eq_true heads])).trans ?_
    rw [Room.holdEnded_eq]
    congr 1
    rw [← ite_not]
    refine if_congr ?_ rfl rfl
    rw [and_iff_right heads, not_and_or, Bool.not_eq_false]
  · obtain ⟨room, told, composed⟩ := event.own_lingers own occupied present
      (by rw [Room.holdEnded_presence, decide_eq_false (by omega)])
    refine ⟨room.trans ?_, told, composed⟩
    rw [Room.holdEnded_eq, if_neg fun both => by omega]

/-- The stillness expiry in an OCCUPIED room that nothing but its estimate holds (R71, R78). -/
theorem stillnessEnds_own (own : (s.room r).state = .run .occupied) (moved : (s.room r).motionHold = none)
    (heads : 0 < (s.room r).head) :
    let t := stillnessEnds r s
    RoomWork s t ∧ (∀ q, q ≠ r → t.room q = s.room q) ∧
       t.re.suites = s.re.suites ∧ KeepsOverrides s t ∧ KeepsPlansBut (fun q => q = r) s t ∧
       t.room r = { s.room r with head := 0, stillness := none, aboveCapacity := false, state := .run .linger
                                  linger := some ((s.room r).cfg.lingerTime * 1000) } ∧
       CondSet.holds (t.notice r).conds .countDrift = true ∧ CondSet.holds (t.notice r).conds .stateChanged = true ∧
       Recomposed s t r := by
  have event := stillnessEnds_event (r := r) (s := s) (by rw [own]; exact nofun)
  dsimp only
  rw [stillnessEnds_eq]
  obtain ⟨room, told, composed⟩ := event.own_lingers own rfl (by rw [Room.presence, decide_eq_true heads, Bool.or_true])
    (by rw [Room.stillEnded_presence, moved]; rfl)
  exact ⟨stillnessEnds_work r s, fun q => event.own_others own, event.own_suites own, event.keepsOverrides, event.own_plans own,
    room, event.told rfl, told, composed⟩

section
variable {g : SuiteId} {x : Suite} {o : OccState} (joined : (s.room r).state = .joined) (named : (s.room r).suite = some g)
  (held : s.suite g = some x) (occ : x.occ = some o)
include joined named held occ

/-- The end of the motion hold in a JOINED room (R66, R166, R168). -/
theorem motionHoldEnds_joined (out : (s.room r).motionHold = some 0) :
    let y := s.room r
    let t := motionHoldEnds r s
    RoomWork s t ∧ (∀ q, q ≠ r → t.room q = s.room q) ∧
         KeepsOverrides s t ∧ KeepsPlansBut (fun q => q = r ∨ q ∈ x.members) s t ∧
         t.room r = { y with
           motionHold := none
           stillness := if 0 < y.head ∧ y.suspended = false ∧ y.stillness = none then some (y.cfg.countTrust * 60000)
                        else y.stillness } ∧
         SuiteTook g x (if o = .occupied ∧ s.suitePresence g = true ∧ t.suitePresence g = false then .linger else o) x.seen s t := by
  have event := motionHoldEnds_event out (by rw [joined]; exact nofun)
  have suite := joinedSuite_some.mpr ⟨joined, named⟩
  have falls : (s.room r).holdEnded.presence = true → (s.room r).presence = true := fun _ => Room.presence_of_hold out
  dsimp only
  rw [motionHoldEnds_eq]
  exact ⟨motionHoldEnds_work r s, fun q => event.joined_others suite, event.keepsOverrides, event.joined_plans suite held,
    (event.joined_keeps falls joined).trans (Room.holdEnded_eq _), event.suiteTook_fall falls suite held occ⟩

/-- The stillness expiry in a JOINED room (R71, R166, R168). -/
theorem stillnessEnds_joined :
    let y := s.room r
    let t := stillnessEnds r s
    RoomWork s t ∧ (∀ q, q ≠ r → t.room q = s.room q) ∧
         KeepsOverrides s t ∧ KeepsPlansBut (fun q => q = r ∨ q ∈ x.members) s t ∧
         t.room r = { y with head := 0, stillness := none, aboveCapacity := false } ∧
         CondSet.holds (t.notice r).conds .countDrift = true ∧ (y.head ≠ 0 → Recomposed s t r) ∧
         SuiteTook g x (if o = .occupied ∧ s.suitePresence g = true ∧ t.suitePresence g = false then .linger else o) x.seen s t := by
  have event := stillnessEnds_event (r := r) (s := s) (by rw [joined]; exact nofun)
  have suite := joinedSuite_some.mpr ⟨joined, named⟩
  have falls : (s.room r).stillEnded.presence = true → (s.room r).presence = true := fun moved => by
    rw [Room.stillEnded_presence] at moved
    rw [Room.presence, moved, Bool.true_or]
  dsimp only
  rw [stillnessEnds_eq]
  exact ⟨stillnessEnds_work r s, fun q => event.joined_others suite, event.keepsOverrides, event.joined_plans suite held,
    event.joined_keeps falls joined, event.told rfl, fun heads => event.recomposed_of_head heads.symm,
    event.suiteTook_fall falls suite held occ⟩

end

end

/-! ### SUITE LINGER EXPIRY (R168) -/

/-- A suite's record with its linger timer stopped. -/
def Suite.stopLinger (x : Suite) : Suite := { x with linger := none }

/-- The suite once its machine has left LINGER, before AP composes its members. -/
def suiteLingerMoved (g : SuiteId) (s : State) : State :=
  moveSuite g (OccState.onLingerEnd (s.effectivePhase g)) (onSuite g Suite.stopLinger s)

theorem suiteLingerEnds_eq (g : SuiteId) (s : State) :
    suiteLingerEnds g s = endEvent (recomposeMembers g (suiteLingerMoved g s)) := rfl

section
variable {g : SuiteId} {x : Suite} {s : State} (held : s.suite g = some x) (lingers : x.occ = some .linger)
include held lingers

theorem stopLinger_suiteOcc : (onSuite g Suite.stopLinger s).suiteOcc g = some .linger :=
  (suiteOcc_onSuite g g (f := Suite.stopLinger) (fun _ => rfl) s).trans ((suiteOcc_of_suite held).trans lingers)

omit lingers in
theorem stopLinger_members : (onSuite g Suite.stopLinger s).members g = x.members :=
  (members_onSuite g g Suite.stopLinger (fun _ => rfl) s).trans (members_of_suite held)

/-- The suite enters VACANT when its effective phase gives that. -/
theorem suiteVacates_onLingerEnd {p : Phase} : (onSuite g Suite.stopLinger s).suiteVacates g (OccState.onLingerEnd p) ↔
    p.place = .vacant := by
  rw [State.suiteVacates_of_occ (stopLinger_suiteOcc held lingers)]
  exact and_iff_right (Phase.place_ne_linger p)

theorem suiteLingerMoved_suite (k : SuiteId) : (suiteLingerMoved g s).suite k =
    if k = g then some { x with occ := some (s.effectivePhase g).place, linger := none } else s.suite k := by
  have gives : OccState.onLingerEnd (s.effectivePhase g) .linger = (s.effectivePhase g).place := rfl
  rw [suiteLingerMoved, moveSuite_suite]
  split
  · rw [suite_onSuite, held, Option.map_some, Option.map_some, Suite.moved_of_occ (x := x.stopLinger) lingers, gives, lingerAfter,
      if_neg (Phase.place_ne_linger _), if_neg (Phase.place_ne_linger _)]
    rfl
  · rename_i other
    exact suite_setSuite_ne other _ s

theorem suiteLingerMoved_room (q : RoomId) : (suiteLingerMoved g s).room q =
    if (s.effectivePhase g).place = .vacant ∧ q ∈ x.members then { s.room q with boost := false } else s.room q := by
  rw [suiteLingerMoved, moveSuite_room, stopLinger_members held]
  exact if_congr (and_congr_left' (suiteVacates_onLingerEnd held lingers)) rfl rfl

theorem suiteLingerEnds_composes :
    Composes (fun q => (s.effectivePhase g).place = .vacant ∧ q ∈ x.members) (· ∈ x.members) s (suiteLingerEnds g s) := by
  have members : (suiteLingerMoved g s).members g = x.members :=
    ((moveSuite_work ..).members g).trans (stopLinger_members held)
  have clears := (moveSuite_clears g (OccState.onLingerEnd (s.effectivePhase g)) _).after_none (onSuite_clears g Suite.stopLinger s)
  rw [suiteLingerEnds_eq]
  refine ((Composes.of_clears clears (RoomsComposed.forEach recompose_composed _ _)).ends).congr (fun q => ?_) fun q => ?_
  · rw [stopLinger_members held]
    exact and_congr_left' (suiteVacates_onLingerEnd held lingers)
  · exact iff_of_eq (congrArg (q ∈ ·) members)

theorem suiteLingerEnds_raises : Raises (fun c q => c = .stateChanged ∧ q ∈ x.members ∧ (s.room q).state ≠ .off) s
    (suiteLingerEnds g s) := by
  have told := (moveSuite_raises g (OccState.onLingerEnd (s.effectivePhase g)) _).after_none (onSuite_raises g Suite.stopLinger s)
  rw [suiteLingerEnds_eq]
  refine (((told.then_none (recomposeMembers_only g _).raises).then_none (endEvent_raises _))).congr fun c q => ?_
  rw [stopLinger_members held, State.suiteMoves_of_occ (stopLinger_suiteOcc held lingers)]
  exact and_congr_right fun _ => and_iff_left (Phase.place_ne_linger _)

end

/-! ### One timer reached by an action and its expiry (R84) -/

theorem countValue_le (v : Half) : countValue v ≤ 50 := by
  rw [countValue]
  split <;> omega

section
variable (n : NodeRef) (v : Half) {r : RoomId} {s : State} (loaded : (s.room r).state ≠ .off)
include loaded

theorem roomAction_presence {act : RoomAct} (mem : act ∈ [RoomAct.motion, .countIn]) :
    act ∈ evidenceActs ∧ ((roomAction act n v r s).room r).presence = true := by
  simp only [List.mem_cons, List.not_mem_nil, or_false] at mem
  obtain rfl | rfl := mem
  · refine ⟨by decide, ?_⟩
    have moved := roomAction_field (act := .motion) (by decide) n v loaded Room.motionHold fun _ _ _ _ => rfl
    rw [Room.presence, moved]
    rfl
  · refine ⟨by decide, ?_⟩
    have heads := (roomAction_counted n v loaded (act := .countIn) (.inl ⟨rfl, rfl⟩)).1
    have counts := countValue_pos v
    rw [Room.presence, heads, decide_eq_true (by omega), Bool.or_true]

/-- A rise of presence in LINGER makes the room OCCUPIED, and leaves no linger timer to expire (R78). -/
theorem roomAction_occupies {act : RoomAct} (mem : act ∈ [RoomAct.motion, .countIn]) (lingers : (s.room r).state = .run .linger)
    (absent : (s.room r).presence = false) :
    ((roomAction act n v r s).room r).state = .run .occupied ∧ ((roomAction act n v r s).room r).linger = none ∧
      CondSet.holds ((roomAction act n v r s).notice r).conds .stateChanged = true := by
  obtain ⟨evidence, present⟩ := roomAction_presence n v loaded mem
  obtain ⟨-, -, machine, -⟩ := roomAction_machine evidence n v loaded
  exact (machine _ lingers).1 ⟨absent, present⟩ nofun

theorem roomAction_motionHold : ((roomAction .motion n v r s).room r).motionHold = some ((s.room r).cfg.motionHold * 1000) :=
  roomAction_field (act := .motion) (by decide) n v loaded Room.motionHold fun _ _ _ _ => rfl

/-- A count in a room with heads leaves a running stillness timer its whole length to run, or stops it. -/
theorem roomAction_restarts_stillness {act : RoomAct} (mem : act ∈ [RoomAct.countIn, .countOut])
    (trust : 0 < (s.room r).cfg.countTrust) (heads : 0 < (s.room r).head) :
    ((roomAction act n v r s).room r).stillness ≠ some 0 := by
  obtain ⟨-, entered, -, last, left⟩ := roomAction_stillness n v loaded
  have restarted {t : Timer} : (t.bind fun _ => some ((s.room r).cfg.countTrust * 60000)) ≠ some 0 := by
    cases t with
    | none => exact nofun
    | some k =>
      intro zero
      have minutes : (s.room r).cfg.countTrust * 60000 = 0 := Option.some.inj zero
      omega
  simp only [List.mem_cons, List.not_mem_nil, or_false] at mem
  obtain rfl | rfl := mem
  · rw [entered heads]
    exact restarted
  · by_cases more : countValue v < (s.room r).head
    · rw [left more]
      exact restarted
    · rw [last heads (Nat.not_lt.mp more)]
      exact nofun

end

/-- Settles O31, by the events of the two evidence timers, the suite's move out of LINGER, and the timers an action leaves. -/
theorem evidenceAndSuiteTimersExpire : Obligations.EvidenceAndSuiteTimersExpire := by
  refine ⟨⟨fun r s o ready own out => ⟨_, whenReady_expired ready out, motionHoldEnds_own own out⟩,
    fun r s ready own out moved heads => ⟨_, whenReady_expired ready out, stillnessEnds_own own moved heads⟩,
    fun r g x o s ready joined named held occ => ?_⟩, fun g x s ready held lingers out => ?_, fun r n v s loaded => ?_⟩
  · exact ⟨fun out => ⟨_, whenReady_expired ready out, motionHoldEnds_joined joined named held occ out⟩,
      fun out => ⟨_, whenReady_expired ready out, stillnessEnds_joined joined named held occ⟩⟩
  · have timer : (s.suite g).bind Suite.linger = some 0 := by rw [held, Option.bind_some, out]
    have re : (suiteLingerEnds g s).re = (suiteLingerMoved g s).re := by
      rw [suiteLingerEnds_eq, endEvent_re, (recomposeMembers_only ..).re]
    have composes := suiteLingerEnds_composes held lingers
    refine ⟨_, whenReady_expired ready timer, ?_, fun k ne => ?_,
      fun q mem on => (suiteLingerEnds_raises held lingers).told _ q ⟨rfl, mem, on⟩, fun q => ?_,
      fun vacant q mem => composes.cleared q ⟨vacant, mem⟩, fun other => composes.keepsOverrides fun q named => other named.1,
      composes.keepsPlansBut fun q named => named.elim id And.right, composes.recomposed, suiteLingerEnds_work g s⟩
    · rw [suite_of_re re, suiteLingerMoved_suite held lingers, if_pos rfl]
    · rw [suite_of_re re, suiteLingerMoved_suite held lingers, if_neg ne]
    · rw [room_of_re re, suiteLingerMoved_room held lingers]
  · refine ⟨fun hold => whenReady_running ?_, fun lingers absent act mem => whenReady_running ?_,
      fun trust heads act mem => whenReady_running (roomAction_restarts_stillness n v loaded mem trust heads),
      fun ready own out empty => ⟨_, whenReady_expired ready out, ?_⟩,
      fun ready own out moved heads => ⟨_, whenReady_expired ready out, ?_⟩⟩
    · rw [roomAction_motionHold n v loaded]
      intro zero
      have seconds : (s.room r).cfg.motionHold * 1000 = 0 := Option.some.inj zero
      omega
    · rw [(roomAction_occupies n v loaded mem lingers absent).2.1]
      exact nofun
    · obtain ⟨-, -, -, -, -, -, falls⟩ := motionHoldEnds_own own out
      obtain ⟨room, -, -⟩ := falls empty rfl
      have lingers : ((motionHoldEnds r s).room r).state = .run .linger := by rw [room]
      have absent : ((motionHoldEnds r s).room r).presence = false := by
        rw [room, Room.presence, empty]; rfl
      exact ⟨lingers, roomAction_occupies n v (by rw [lingers]; exact nofun) (act := .motion) (by decide) lingers absent⟩
    · obtain ⟨-, -, -, -, -, room, -⟩ := stillnessEnds_own own moved heads
      have lingers : ((stillnessEnds r s).room r).state = .run .linger := by rw [room]
      have absent : ((stillnessEnds r s).room r).presence = false := by
        rw [room, Room.presence, moved]; rfl
      have empty : ((stillnessEnds r s).room r).head = 0 := by rw [room]
      have loaded : ((stillnessEnds r s).room r).state ≠ .off := by rw [lingers]; exact nofun
      refine ⟨lingers, (roomAction_occupies n v loaded (act := .countIn) (by decide) lingers absent).1, ?_,
        roomAction_drift n v loaded (empty.symm ▸ countValue_pos v)⟩
      have counts := countValue_le v
      rw [(roomAction_counted n v loaded (act := .countIn) (.inl ⟨rfl, rfl⟩)).1, empty, Nat.zero_add, min_eq_right (by omega),
        countValue]

end Sys2Proof.Machine
end

section
/-!
PROOFS. Phase reports, the marks that make them, and the passing of an occurrence (R72, R76, R77, R80, R82, R107, R110 to R115, R126,
R132, R167, R168).
-/

namespace Sys2Proof.Machine

/-! ### What a report stores (R72, R76, R81, R106) -/

/-- The exam suspension's hold on the stillness timer, by its begin and its end (R72). -/
theorem storePhase_stillness (p : Phase) (k : Option Booking) (x : Room) : (x.storePhase p k).stillness =
    if (x.phase = .on ∧ x.cursorKind = some .exam) ∧ ¬ (p = .on ∧ k.map Booking.kind = some .exam) ∧ 0 < x.head ∧
        x.motionHold = none ∧ x.stillness = none then some (x.cfg.countTrust * 60000)
    else if (p = .on ∧ k.map Booking.kind = some .exam) ∧ ¬ (x.phase = .on ∧ x.cursorKind = some .exam) then none
    else x.stillness := by
  have was : x.suspended = true ↔ x.phase = .on ∧ x.cursorKind = some .exam := by
    rw [Room.suspended, Bool.and_eq_true, beq_iff_eq, beq_iff_eq]
  rw [storePhase_eq]
  simp only [← was]
  by_cases is : p = .on ∧ k.map Booking.kind = some .exam
  · rw [if_pos is, if_neg (c := x.suspended = true ∧ ¬ _ ∧ _) fun both => both.2.1 is]
    by_cases suspended : x.suspended = true
    · rw [if_pos suspended, if_neg fun both => both.2 suspended]
    · rw [if_neg suspended, if_pos ⟨is, suspended⟩]
  · rw [if_neg is, if_neg (c := _ ∧ ¬ x.suspended = true) fun both => is both.1]
    exact if_congr (and_congr_right fun _ => (and_iff_right is).symm) rfl rfl

theorem storePhase_record (p : Phase) (k : Option Booking) (x : Room) : x.storePhase p k = { x with
    phase := p, cursorKind := k.map Booking.kind, bookingScene := k.map Booking.scene
    seen := if p = .on then x.presence else x.seen
    stillness := (x.storePhase p k).stillness } := by
  conv_lhs => rw [storePhase_eq]
  conv_rhs => rw [storePhase_eq]

theorem OccState.onPhase_ne_linger {o : OccState} {p : Phase} (moves : o.onPhase p ≠ o) : o.onPhase p ≠ .linger := by
  cases o with
  | linger => exact absurd rfl moves
  | occupied => exact absurd rfl moves
  | vacant | preparing | expected => cases p <;> exact nofun

theorem OccState.onPhase_vacates {o : OccState} {p : Phase} : o.vacates (fun o => o.onPhase p) ↔ o.onPhase p = .vacant ∧ o ≠ .vacant :=
  ⟨fun ⟨moves, enters⟩ => ⟨enters, fun was => moves (enters.trans was.symm)⟩,
    fun ⟨enters, ne⟩ => ⟨fun stays => ne (stays.symm.trans enters), enters⟩⟩

theorem OccState.onPhase_of_held {o : OccState} (held : o = .occupied ∨ o = .linger) (p : Phase) : o.onPhase p = o := by
  obtain rfl | rfl := held <;> rfl

theorem OccState.onPhase_on {o : OccState} (free : o = .vacant ∨ o = .preparing) : o.onPhase .on = .expected := by
  obtain rfl | rfl := free <;> rfl

/-- A room's record after a report its own machine has taken (R77, R82). -/
theorem Room.moved_onPhase {x : Room} {o : OccState} (own : x.state = .run o) (p : Phase) : x.moved (fun o => o.onPhase p) =
    { x with
      state := .run (o.onPhase p), linger := if o.onPhase p = o then x.linger else none
      overrideScene := if o.onPhase p = .vacant ∧ o ≠ .vacant then none else x.overrideScene
      boost := if o.onPhase p = .vacant ∧ o ≠ .vacant then false else x.boost } := by
  by_cases stays : o.onPhase p = o
  · have rests : ¬ (o.onPhase p = .vacant ∧ o ≠ .vacant) := fun both => both.2 (stays.symm.trans both.1)
    rw [Room.moved_of_stays own stays, if_pos stays, if_neg rests, if_neg rests, stays, ← own]
  · have enters : o.onPhase p = .vacant ∧ o ≠ .vacant ↔ o.onPhase p = .vacant :=
      and_iff_left_of_imp fun enters was => stays (enters.trans was.symm)
    rw [Room.moved_of_moves own stays, if_neg stays, lingerAfter, if_neg (OccState.onPhase_ne_linger stays)]
    simp only [enters]

/-! ### A report in a room with its own machine (R76, R77, R80, R126) -/

/-- The room has an overrun: it is OCCUPIED when its phase goes from ON to LAG (R80). -/
def Room.overruns (x : Room) (p : Phase) : Prop := x.state = .run .occupied ∧ x.phase = .on ∧ p = .lag

/-- The report stored, and its overrun told. -/
def reportTold (r : RoomId) (p : Phase) (k : Option Booking) (s : State) : State :=
  let u := onRoom r (Room.storePhase p k) s
  if (s.room r).state = .run .occupied ∧ (s.room r).phase = .on ∧ p = .lag then raise .overrun r u else u

section
variable (r : RoomId) (p : Phase) (k : Option Booking) (s : State)

theorem reportTold_re : (reportTold r p k s).re = (onRoom r (Room.storePhase p k) s).re := by
  unfold reportTold
  dsimp only
  split
  · exact raise_re ..
  · rfl

theorem reportTold_air (q : RoomId) : (reportTold r p k s).air q = s.air q := by
  unfold reportTold
  dsimp only
  split
  · rw [State.air, raise_ap]; rfl
  · rfl

theorem reportTold_clears : Clears (fun _ => False) s (reportTold r p k s) := by
  have stored := onRoom_clears r (Room.storePhase p k) s
  unfold reportTold
  exact .ite_none ((raise_clears .overrun r _).after_none stored) stored

theorem reportTold_raises : Raises (fun c q => c = .overrun ∧ q = r ∧ (s.room r).overruns p) s (reportTold r p k s) := by
  have stored := onRoom_raises r (Room.storePhase p k) s
  unfold reportTold
  dsimp only
  split
  · rename_i overruns
    refine ((raise_raises .overrun r _).after_none stored).congr fun c q =>
      and_congr_right fun _ => and_congr_right fun _ => iff_of_true ?_ overruns
    obtain ⟨state, -⟩ := Room.standing_eq_iff.mp (storePhase_standing p k (s.room r))
    rw [room_onRoom, state, overruns.1]
    exact nofun
  · rename_i calm
    exact stored.congr fun c q => (iff_false_intro fun named => calm named.2.2).symm

theorem reportTold_state : ((reportTold r p k s).room r).state = (s.room r).state := by
  rw [room_of_re (reportTold_re r p k s), room_onRoom, storePhase_record]

end

/-- The room's machine has taken the report. -/
def reportMoved (r : RoomId) (p : Phase) (k : Option Booking) (s : State) : State :=
  moveRoom r (fun o => o.onPhase p) (reportTold r p k s)

section
variable {r : RoomId} {s : State} {o : OccState} (own : (s.room r).state = .run o) (p : Phase) (k : Option Booking)
include own

theorem phaseReport_run : phaseReport r p k s = recompose r (dutyEdge (s.inDuty r) r (reportMoved r p k s)) := by
  simp only [phaseReport, own, reportMoved, reportTold, RoomState.run.injEq]

theorem phaseReport_run_room (q : RoomId) : (phaseReport r p k s).room q =
    if q = r then ((s.room r).storePhase p k).moved fun o => o.onPhase p else s.room q := by
  rw [room_of_re (phaseReport_run_re own p k)]
  split
  · rename_i here
    rw [here, room_onRoom]
  · rename_i ne
    rw [room_onRoom_ne ne]

theorem reportTold_run : ((reportTold r p k s).room r).state = .run o := (reportTold_state r p k s).trans own

theorem phaseReport_run_composes : Composes (fun q => q = r ∧ o.onPhase p = .vacant ∧ o ≠ .vacant) (· = r) s (phaseReport r p k s) := by
  rw [phaseReport_run own]
  have clears := ((moveRoom_clears r (fun o => o.onPhase p) _).after_none (reportTold_clears r p k s)).then_none
    (dutyEdge_clears (s.inDuty r) r _)
  refine (Composes.of_clears clears (recompose_composed r _)).congr (fun q => and_congr_right fun _ => ?_) fun _ => Iff.rfl
  rw [Room.vacates_of_run (reportTold_run own p k), OccState.onPhase_vacates]

theorem phaseReport_run_raises : Raises (fun c q => c = .overrun ∧ q = r ∧ (s.room r).overruns p ∨
    c = .stateChanged ∧ q = r ∧ o.onPhase p ≠ o) s (phaseReport r p k s) := by
  rw [phaseReport_run own]
  refine (((reportTold_raises r p k s).trans (moveRoom_raises r _ _)).then_none (dutyEdge_raises _ r _)).then_none
    (recompose_only r _).raises |>.congr fun c q => ?_
  rw [Room.moves_of_run (reportTold_run own p k)]

theorem phaseReport_run_duty : DutyFollows s (phaseReport r p k s) r := by
  have follows := dutyEdge_follows s r (reportMoved r p k s) ((moveRoom_air r r _ _).trans (reportTold_air r p k s r))
  rw [phaseReport_run own]
  exact follows.later ((recompose_only r _).room r) ((recompose_only r _).air r)

theorem phaseReport_run_suites : (phaseReport r p k s).re.suites = s.re.suites :=
  (congrArg Re.suites (phaseReport_run_re own p k)).trans rfl

end

end Sys2Proof.Machine
end

section
/-!
PROOFS. Phase reports of JOINED rooms, the marks, and the passing of an occurrence (R76, R80, R82, R107, R110 to R115, R132, R167, R168).
-/

namespace Sys2Proof.Machine

/-! ### A suite takes its effective phase (R80, R82, R167, R168) -/

/-- The suite has an overrun: it is OCCUPIED when its effective phase goes from ON to LAG (R80, R168). -/
def State.suiteOverruns (s : State) (g : SuiteId) (before : Phase) : Prop :=
  s.suiteOcc g = some .occupied ∧ before = .on ∧ s.effectivePhase g = .lag

section
variable (g : SuiteId) (p before : Phase) (s : State)

theorem suiteReported_clears : Clears (fun _ => False) s (suiteReported g p before s) := by
  have settled : Clears (fun _ => False) s (if p = .on then onSuite g (fun x => { x with seen := s.suitePresence g }) s else s) :=
    .ite_none (onSuite_clears g _ s) (.refl s)
  unfold suiteReported
  exact settled.then_none (.ite_none ((Clears.forEach (raise_clears .overrun) _ _).congr fun _ => by simp) (.refl _))

theorem suiteReported_raises : Raises (fun c q => c = .overrun ∧ (q ∈ s.members g ∧ (s.room q).state ≠ .off) ∧
    s.suiteOverruns g before) s (suiteReported g p before s) := by
  have told (t : State) (settled : Raises (fun _ _ => False) s t) (members : t.members g = s.members g)
      (occ : t.suiteOcc g = s.suiteOcc g) (rooms : ∀ q, t.room q = s.room q) :
      Raises (fun c q => c = .overrun ∧ (q ∈ s.members g ∧ (s.room q).state ≠ .off) ∧ s.suiteOverruns g before) s
        (if t.suiteOcc g = some .occupied ∧ before = .on ∧ s.effectivePhase g = .lag then forEach (t.members g) (raise .overrun) t
          else t) := by
    rw [occ, members]
    split
    · rename_i overruns
      refine ((raiseEach_raises .overrun _ t).after_none settled).congr fun c q => and_congr_right fun _ => ?_
      rw [rooms]
      exact (and_iff_left (show s.suiteOverruns g before from overruns)).symm
    · rename_i calm
      exact settled.congr fun c q => (iff_false_intro fun named => calm named.2.2).symm
  unfold suiteReported
  by_cases on : p = .on
  · rw [if_pos on]
    exact told _ (onSuite_raises ..) (members_onSuite g g (fun x => { x with seen := s.suitePresence g }) (fun _ => rfl) s)
      (suiteOcc_onSuite g g (f := fun x => { x with seen := s.suitePresence g }) (fun _ => rfl) s) fun _ => rfl
  · rw [if_neg on]
    exact told s (.refl s) rfl rfl fun _ => rfl

theorem suiteReported_suiteMoves (f : OccState → OccState) : (suiteReported g p before s).suiteMoves g f ↔ s.suiteMoves g f := by
  rw [State.suiteMoves, suiteReported_suiteOcc, ← State.suiteMoves]

theorem suiteReported_suiteVacates (f : OccState → OccState) :
    (suiteReported g p before s).suiteVacates g f ↔ s.suiteVacates g f := by
  rw [State.suiteVacates, suiteReported_suiteOcc, ← State.suiteVacates]

theorem suitePhase_raises : Raises (fun c q =>
    c = .overrun ∧ (q ∈ s.members g ∧ (s.room q).state ≠ .off) ∧ s.suiteOverruns g before ∨
      c = .stateChanged ∧ (q ∈ s.members g ∧ (s.room q).state ≠ .off) ∧ s.suiteMoves g fun o => o.onPhase (s.effectivePhase g)) s
    (suitePhase g p before s) := by
  rw [suitePhase_eq]
  refine ((suiteReported_raises g p before s).trans (moveSuite_raises g _ _)).then_none (recomposeMembers_only g _).raises
    |>.congr fun c q => ?_
  rw [suiteReported_members, suiteReported_room, suiteReported_suiteMoves]

theorem suitePhase_composes : Composes (fun q => (s.suiteVacates g fun o => o.onPhase (s.effectivePhase g)) ∧ q ∈ s.members g)
    (· ∈ s.members g) s (suitePhase g p before s) := by
  rw [suitePhase_eq]
  refine (Composes.of_clears ((moveSuite_clears g _ _).after_none (suiteReported_clears g p before s))
    (RoomsComposed.forEach recompose_composed _ _)).congr (fun q => ?_) fun q => ?_
  · rw [suiteReported_members, suiteReported_suiteVacates]
  · rw [(moveSuite_work ..).members, suiteReported_members]

variable {g s} {x : Suite} {o : OccState} (held : s.suite g = some x) (occ : x.occ = some o)
include held occ

theorem suitePhase_took : SuiteTook g x (o.onPhase (s.effectivePhase g)) (if p = .on then s.suitePresence g else x.seen) s
    (suitePhase g p before s) := by
  have was : s.suiteOcc g = some o := (suiteOcc_of_suite held).trans occ
  have members : s.members g = x.members := members_of_suite held
  have stays : x.occ = some (o.onPhase (s.effectivePhase g)) ↔ o.onPhase (s.effectivePhase g) = o := by
    rw [occ, Option.some.injEq, eq_comm]
  have composes := suitePhase_composes g p before s
  refine ⟨?_, fun moves q mem loaded => (suitePhase_raises g p before s).told _ q (.inr ⟨rfl, ⟨members ▸ mem, loaded⟩, ?_⟩),
    fun moves vacant q mem => ⟨?_, composes.cleared q ⟨?_, members ▸ mem⟩⟩, fun rests => composes.keepsOverrides ?_,
    fun _ q mem => composes.recomposed q (members ▸ mem), fun j ne => ?_⟩
  · rw [suitePhase_suite, if_pos rfl, held, Option.map_some, Suite.moved_of_occ (x := x.settleSeen p (s.suitePresence g)) occ,
      State.leadOf, members]
    refine congrArg some (Suite.mk.injEq .. ▸ ⟨rfl, rfl, rfl, rfl, ?_⟩)
    exact if_congr stays.symm rfl rfl
  · rw [State.suiteMoves_of_occ was]
    exact fun same => moves (stays.mpr same)
  · rw [suitePhase_room, if_pos ⟨⟨o, was, fun same => moves (stays.mpr same), vacant⟩, members ▸ mem⟩]
  · rw [State.suiteVacates_of_occ was]
    exact ⟨fun same => moves (stays.mpr same), vacant⟩
  · rintro q ⟨vacates, -⟩
    obtain ⟨moves, enters⟩ := (State.suiteVacates_of_occ was).mp vacates
    exact rests.elim (fun same => moves (stays.mp same)) fun ne => ne enters
  · rw [suitePhase_suite, if_neg ne]

end

/-- What a suite's machine takes is the same from a state with other records of a room's evidence and phase. -/
theorem SuiteTook.of_onRoom {g : SuiteId} {x : Suite} {o : OccState} {seen : Bool} {r : RoomId} {f : Room → Room} {s t : State}
    (keeps : ∀ x, (f x).cfg = x.cfg ∧ (f x).state = x.state) (h : SuiteTook g x o seen (onRoom r f s) t) :
    SuiteTook g x o seen s t := by
  have room (q : RoomId) : ((onRoom r f s).room q).cfg = (s.room q).cfg ∧ ((onRoom r f s).room q).state = (s.room q).state := by
    by_cases here : q = r
    · rw [here, room_onRoom]
      exact keeps _
    · rw [room_onRoom_ne here]
      exact ⟨rfl, rfl⟩
  obtain ⟨record, told, cleared, spared, recomposed, others⟩ := h
  refine ⟨?_, fun moves q mem loaded => told moves q mem ?_, cleared, spared,
    fun moves q mem => (recomposed moves q mem).of_earlier (fun _ => rfl) (fun _ => rfl) rfl, others⟩
  · rw [record, (room _).1]
  · rwa [(room q).2]

/-! ### A report in a JOINED room (R76, R167, R168) -/

theorem storePhase_state (p : Phase) (k : Option Booking) (x : Room) : (x.storePhase p k).state = x.state := by
  rw [storePhase_record]

section
variable {r : RoomId} {g : SuiteId} {s : State} (p : Phase) (k : Option Booking)

theorem phaseReport_joined (joined : (s.room r).state = .joined) (named : (s.room r).suite = some g) : phaseReport r p k s =
    suitePhase g p (s.effectivePhase g) (onRoom r (Room.storePhase p k) s) := by
  simp only [phaseReport, joined, named]

theorem stored_presence (q : RoomId) : ((onRoom r (Room.storePhase p k) s).room q).presence = (s.room q).presence := by
  by_cases here : q = r
  · rw [here, room_onRoom, storePhase_presence]
  · rw [room_onRoom_ne here]

theorem stored_state (q : RoomId) : ((onRoom r (Room.storePhase p k) s).room q).state = (s.room q).state := by
  by_cases here : q = r
  · rw [here, room_onRoom, storePhase_state]
  · rw [room_onRoom_ne here]

end

section
variable {r : RoomId} {g : SuiteId} {s : State} (joined : (s.room r).state = .joined) (named : (s.room r).suite = some g)
  (p : Phase) (k : Option Booking)
include joined named

/-- The effective phase after the report is that of the stored records. -/
theorem phaseReport_joined_effectivePhase : (phaseReport r p k s).effectivePhase g =
    (onRoom r (Room.storePhase p k) s).effectivePhase g := by
  refine effectivePhase_congr ((phaseReport_work r p k s).members g) fun q _ => ?_
  rw [phaseReport_joined p k joined named, suitePhase_room]
  split <;> rfl

variable {x : Suite} {o : OccState} (held : s.suite g = some x) (occ : x.occ = some o)
include held occ

theorem phaseReport_joined_took : SuiteTook g x (o.onPhase ((phaseReport r p k s).effectivePhase g))
    (if p = .on then s.suitePresence g else x.seen) s (phaseReport r p k s) := by
  have presence : (onRoom r (Room.storePhase p k) s).suitePresence g = s.suitePresence g :=
    suitePresence_congr rfl fun q _ => stored_presence p k q
  have took := suitePhase_took (s := onRoom r (Room.storePhase p k) s) p (s.effectivePhase g) held occ
  rw [← phaseReport_joined p k joined named, ← phaseReport_joined_effectivePhase joined named, presence] at took
  exact took.of_onRoom fun y => ⟨(storePhase_keeps p k y).1, storePhase_state p k y⟩

theorem phaseReport_joined_room (q : RoomId) : (phaseReport r p k s).room q =
    if (o.onPhase ((phaseReport r p k s).effectivePhase g) = .vacant ∧ o ≠ .vacant) ∧ q ∈ x.members then
      { (onRoom r (Room.storePhase p k) s).room q with boost := false } else (onRoom r (Room.storePhase p k) s).room q := by
  have was : (onRoom r (Room.storePhase p k) s).suiteOcc g = some o := (suiteOcc_of_suite held).trans occ
  have members : (onRoom r (Room.storePhase p k) s).members g = x.members := members_of_suite held
  rw [phaseReport_joined_effectivePhase joined named, phaseReport_joined p k joined named, suitePhase_room, members]
  refine if_congr (and_congr_left' ?_) rfl rfl
  exact (State.suiteVacates_of_occ was).trans OccState.onPhase_vacates

theorem phaseReport_joined_composes : Composes
    (fun q => (o.onPhase ((phaseReport r p k s).effectivePhase g) = .vacant ∧ o ≠ .vacant) ∧ q ∈ x.members) (· ∈ x.members) s
    (phaseReport r p k s) := by
  have was : (onRoom r (Room.storePhase p k) s).suiteOcc g = some o := (suiteOcc_of_suite held).trans occ
  have members : (onRoom r (Room.storePhase p k) s).members g = x.members := members_of_suite held
  have composes := suitePhase_composes g p (s.effectivePhase g) (onRoom r (Room.storePhase p k) s)
  rw [← phaseReport_joined p k joined named, ← phaseReport_joined_effectivePhase joined named, members] at composes
  obtain ⟨recomposed, spared, cleared, kept⟩ := composes.congr
    (fun q => and_congr_left' ((State.suiteVacates_of_occ was).trans OccState.onPhase_vacates)) fun q => Iff.rfl
  exact ⟨fun q mem => (recomposed q mem).of_earlier (fun _ => rfl) (fun _ => rfl) rfl, spared, cleared, kept⟩

theorem phaseReport_joined_raises : Raises (fun c q =>
    c = .overrun ∧ (q ∈ x.members ∧ (s.room q).state ≠ .off) ∧
        (o = .occupied ∧ s.effectivePhase g = .on ∧ (phaseReport r p k s).effectivePhase g = .lag) ∨
      c = .stateChanged ∧ (q ∈ x.members ∧ (s.room q).state ≠ .off) ∧
        o.onPhase ((phaseReport r p k s).effectivePhase g) ≠ o) s (phaseReport r p k s) := by
  have was : (onRoom r (Room.storePhase p k) s).suiteOcc g = some o := (suiteOcc_of_suite held).trans occ
  have members : (onRoom r (Room.storePhase p k) s).members g = x.members := members_of_suite held
  have raises := (suitePhase_raises g p (s.effectivePhase g) (onRoom r (Room.storePhase p k) s)).after_none (onRoom_raises r _ s)
  rw [← phaseReport_joined p k joined named] at raises
  refine raises.congr fun c q => ?_
  rw [State.suiteMoves_of_occ was, State.suiteOverruns, was, Option.some.injEq, members, stored_state,
    phaseReport_joined_effectivePhase joined named]

end

end Sys2Proof.Machine
end

section
/-!
PROOFS. Marks, and what each does (R91, R107, R110 to R115).
-/

namespace Sys2Proof.Machine

/-! ### What a report tells the room (R76, R102, R106) -/

theorem Room.TookReport.congr {x y : Room} {report : Phase × Option Booking} (h : x.TookReport report) (phase : y.phase = x.phase)
    (kind : y.cursorKind = x.cursorKind) (scene : y.bookingScene = x.bookingScene) : y.TookReport report :=
  ⟨phase.trans h.phase, kind.trans h.kind, scene.trans h.scene⟩

/-- A room that is not OFF holds the report it was given. -/
theorem phaseReport_tookReport {r : RoomId} {s : State} (loaded : (s.room r).state ≠ .off) (p : Phase) (k : Option Booking) :
    ((phaseReport r p k s).room r).TookReport (p, k) := by
  have stored : ((onRoom r (Room.storePhase p k) s).room r).TookReport (p, k) := by
    rw [room_onRoom]; exact storePhase_tookReport p k _
  cases kind : (s.room r).state with
  | off => exact absurd kind loaded
  | run o =>
    rw [phaseReport_run_room kind, if_pos rfl, Room.moved_keeps]
    exact (storePhase_tookReport p k _).congr rfl rfl rfl
  | joined =>
    cases named : (s.room r).suite with
    | none =>
      have alone : phaseReport r p k s = onRoom r (Room.storePhase p k) s := by simp only [phaseReport, kind, named]
      rwa [alone]
    | some g =>
      rw [phaseReport_joined p k kind named, suitePhase_room]
      split
      · exact stored.congr rfl rfl rfl
      · exact stored

/-- A report lowers no condition. -/
theorem phaseReport_held (r : RoomId) (p : Phase) (k : Option Booking) {s : State} {c : Condition} {q : RoomId}
    (before : CondSet.holds (s.notice q).conds c = true) : CondSet.holds ((phaseReport r p k s).notice q).conds c = true := by
  cases kind : (s.room r).state with
  | off =>
    have nothing : phaseReport r p k s = s := by simp only [phaseReport, kind]
    rwa [nothing]
  | run o => exact (phaseReport_run_raises kind p k).held before
  | joined =>
    cases named : (s.room r).suite with
    | none =>
      have alone : phaseReport r p k s = onRoom r (Room.storePhase p k) s := by simp only [phaseReport, kind, named]
      rwa [alone]
    | some g =>
      rw [phaseReport_joined p k kind named]
      exact (suitePhase_raises ..).held before

/-! ### Passing an occurrence (R105 to R107, R115) -/

section
variable (r : RoomId) (found : Option (Booking × Nat)) (s : State)

theorem giveCursor_tu : (giveCursor r found s).tu =
    (onTime r (fun t => { t with cursor := (catchUp s.tu.clock found).1 }) s).tu := (phaseReport_work ..).tu

theorem giveCursor_time : (giveCursor r found s).time r = { s.time r with cursor := (catchUp s.tu.clock found).1 } := by
  rw [State.time, giveCursor_tu, ← State.time, time_onTime]

variable {r s}

theorem giveCursor_tookReport (loaded : (s.room r).state ≠ .off) :
    ((giveCursor r found s).room r).TookReport (catchUp s.tu.clock found).2 :=
  phaseReport_tookReport (s := onTime r _ s) loaded _ _

end

/-- The release record an early passing makes. -/
def State.notedRelease (s : State) (r : RoomId) (early : Bool) (o : Occurrence) : State :=
  if early then onTime r (fun t => { t with released := some o }) s else s

/-- The store as the passing leaves it: a one-off booking that no other cursor holds has left it. -/
def State.withoutPassed (s : State) (r : RoomId) (o : Occurrence) (b : Booking) : State :=
  if b.week.isSome && !s.heldElsewhere r o then removeBookings (fun x => x.id == b.id) s else s

theorem notedRelease_re (s : State) (r : RoomId) (early : Bool) (o : Occurrence) : (s.notedRelease r early o).re = s.re := by
  unfold State.notedRelease
  split <;> rfl

theorem notedRelease_clock (s : State) (r : RoomId) (early : Bool) (o : Occurrence) :
    (s.notedRelease r early o).tu.clock = s.tu.clock ∧ (s.notedRelease r early o).tu.store = s.tu.store ∧
      (s.notedRelease r early o).nu = s.nu := by
  unfold State.notedRelease
  split <;> exact ⟨rfl, rfl, rfl⟩

theorem notedRelease_heldElsewhere (s : State) (r : RoomId) (early : Bool) (o p : Occurrence) :
    (s.notedRelease r early o).heldElsewhere r p = s.heldElsewhere r p := by
  unfold State.notedRelease
  split
  · have others (q : RoomId) (ne : q ≠ r) : (onTime r (fun t => { t with released := some o }) s).time q = s.time q :=
      time_onTime_ne ne _ s
    rw [State.heldElsewhere, State.heldElsewhere, Bool.eq_iff_iff, List.any_eq_true, List.any_eq_true]
    refine exists_congr fun q => and_congr_right fun _ => ?_
    by_cases here : q = r
    · simp [here]
    · rw [others q here]
  · rfl

theorem withoutPassed_re (s : State) (r : RoomId) (o : Occurrence) (b : Booking) : (s.withoutPassed r o b).re = s.re ∧
    (s.withoutPassed r o b).tu.clock = s.tu.clock ∧ (s.withoutPassed r o b).nu = s.nu := by
  unfold State.withoutPassed
  split <;> exact ⟨rfl, rfl, rfl⟩

section
variable {r : RoomId} {s : State} {o : Occurrence} {c : Cursor} {b : Booking} (held : (s.time r).cursor = some c)
  (listed : s.findBooking c.occ.id = some b) (early : Bool)

include held listed in
theorem passOccurrence_eq : passOccurrence early r s =
      let w := (s.notedRelease r early c.occ).withoutPassed r c.occ b
      giveCursor r (w.advance r b) w := by
  simp only [passOccurrence, held, listed]
  rfl

theorem withoutPassed_keeps (kept : b.week = none ∨ s.heldElsewhere r o = true) : s.withoutPassed r o b = s := by
  refine if_neg fun both => ?_
  obtain ⟨dated, alone⟩ := Bool.and_eq_true_iff.mp both
  obtain weekly | shared := kept
  · rw [weekly] at dated; cases dated
  · rw [shared] at alone; cases alone

theorem withoutPassed_removes (dated : b.week ≠ none) (alone : s.heldElsewhere r o = false) :
    s.withoutPassed r o b = removeBookings (fun x => x.id == b.id) s := by
  refine if_pos (Bool.and_eq_true_iff.mpr ⟨Option.isSome_iff_ne_none.mpr dated, ?_⟩)
  rw [alone]; rfl

include held listed in
/-- The room advances to what the list gives once the passed occurrence has left it (R107, R115). -/
theorem passOccurrence_advances (loaded : (s.room r).state ≠ .off) {w : State}
    (left : (s.notedRelease r early c.occ).withoutPassed r c.occ b = w) :
    let u := passOccurrence early r s
    let found := catchUp s.tu.clock (w.advance r b)
    ((u.time r).cursor = found.1 ∧ (u.room r).TookReport found.2) ∧ u.tu.store = w.tu.store ∧
      (u.time r).released = (w.time r).released := by
  have re : w.re = s.re := left ▸ (withoutPassed_re ..).1.trans (notedRelease_re ..)
  have clock : w.tu.clock = s.tu.clock := left ▸ (withoutPassed_re ..).2.1.trans (notedRelease_clock ..).1
  have passed : passOccurrence early r s = giveCursor r (w.advance r b) w := left ▸ passOccurrence_eq held listed early
  dsimp only
  rw [passed, ← clock, giveCursor_time, giveCursor_tu]
  exact ⟨⟨rfl, giveCursor_tookReport _ (by rwa [room_of_re re])⟩, rfl, rfl⟩

end

/-- The passing of an occurrence lowers no condition. -/
theorem passOccurrence_held (early : Bool) (r : RoomId) {s : State} {c : Condition} {q : RoomId}
    (before : CondSet.holds (s.notice q).conds c = true) :
    CondSet.holds ((passOccurrence early r s).notice q).conds c = true := by
  cases held : (s.time r).cursor with
  | none =>
    have nothing : passOccurrence early r s = s := by simp only [passOccurrence, held]
    rwa [nothing]
  | some k =>
    cases listed : s.findBooking k.occ.id with
    | none =>
      have nothing : passOccurrence early r s = s := by simp only [passOccurrence, held, listed]
      rwa [nothing]
    | some b =>
      rw [passOccurrence_eq held listed early]
      refine phaseReport_held r _ _ ?_
      have notices : ((s.notedRelease r early k.occ).withoutPassed r k.occ b).nu = s.nu :=
        (withoutPassed_re ..).2.2.trans (notedRelease_clock ..).2.2
      rwa [State.notice, onTime_nu, notices, ← State.notice]

/-! ### Marks (R91, R110 to R114) -/

theorem Marks.reached_iff {k : Option Mark} {minute : Nat} : k.any (fun m => m.armed && m.minute == minute) = true ↔
    ∃ m, k = some m ∧ m.armed = true ∧ m.minute = minute := by
  cases k with
  | none => exact iff_of_false nofun fun ⟨_, same, _⟩ => nomatch same
  | some m =>
    rw [Option.any_some, Bool.and_eq_true, beq_iff_eq]
    exact ⟨fun reached => ⟨m, rfl, reached⟩, fun ⟨_, same, reached⟩ => Option.some.inj same ▸ reached⟩

section
variable {r : RoomId} {minute week : Nat} {k : MarkName} {rest : List MarkName} {s : State}

theorem takeMarks_idle (idle : (s.time r).cursor = none) : takeMarks r minute week (k :: rest) s = s := by
  simp only [takeMarks, idle]

variable {c : Cursor} (held : (s.time r).cursor = some c)
include held

theorem takeMarks_passes (away : ¬ (c.occ.week = week ∧ ∃ m, c.marks.get k = some m ∧ m.armed = true ∧ m.minute = minute)) :
    takeMarks r minute week (k :: rest) s = takeMarks r minute week rest s := by
  rw [← Marks.reached_iff] at away
  simp only [takeMarks, held, if_neg away]

theorem takeMarks_takes (reached : c.occ.week = week ∧ ∃ m, c.marks.get k = some m ∧ m.armed = true ∧ m.minute = minute) :
    takeMarks r minute week (k :: rest) s =
      let taken := takeMark r c.occ k (onTime r (fun t => { t with cursor := some { c with marks := c.marks.spend k } }) s)
      if taken.2 then endEvent taken.1 else takeMarks r minute week rest (endEvent taken.1) := by
  rw [← Marks.reached_iff] at reached
  simp only [takeMarks, held, if_pos reached]

end

/-- A room that is not JOINED confirms by its own flag, a JOINED one by its suite's (R111, R170). -/
theorem seenForConfirm_own {s : State} {r : RoomId} (own : (s.room r).state ≠ .joined) :
    s.seenForConfirm r = (s.room r).seen := by
  have alone : s.joinedSuite r = none := if_neg own
  simp only [State.seenForConfirm, alone]

theorem seenForConfirm_joined {s : State} {r : RoomId} {g : SuiteId} {x : Suite} (joined : (s.room r).state = .joined)
    (named : (s.room r).suite = some g) (held : s.suite g = some x) : s.seenForConfirm r = x.seen := by
  simp only [State.seenForConfirm, joinedSuite_some.mpr ⟨joined, named⟩, held, Option.any_some]

/-- A report has a room with its own machine, and the members of its suite, composed. -/
theorem phaseReport_recomposed {r : RoomId} {s : State} (loaded : (s.room r).state ≠ .off) (own : (s.room r).state ≠ .joined)
    (p : Phase) (k : Option Booking) : Recomposed s (phaseReport r p k s) r := by
  cases kind : (s.room r).state with
  | off => exact absurd kind loaded
  | joined => exact absurd kind own
  | run o => exact (phaseReport_run_composes kind p k).recomposed r rfl

theorem phaseReport_run_state {r : RoomId} {s : State} {o : OccState} (own : (s.room r).state = .run o) (p : Phase)
    (k : Option Booking) : ((phaseReport r p k s).room r).state = .run (o.onPhase p) := by
  rw [phaseReport_run_room own, if_pos rfl, Room.moved_state ((storePhase_state p k _).trans own)]

/-- What a report leaves of a room's record for its machine, or its suite's, to change. -/
theorem storePhase_frame (p : Phase) (k : Option Booking) (x : Room) : (x.storePhase p k).linger = x.linger ∧
    (x.storePhase p k).overrideScene = x.overrideScene ∧ (x.storePhase p k).boost = x.boost := by
  rw [storePhase_record]
  exact ⟨rfl, rfl, rfl⟩

theorem Room.ite_boost (c : Prop) [Decidable c] (x : Room) : (if c then { x with boost := false } else x) =
    { x with boost := if c then false else x.boost } := by
  split <;> rfl

/-- Settles O40, by the report's decomposition into the stored record, the machine's move, duty and composition. -/
theorem marksMoveThePhase : Obligations.MarksMoveThePhase := by
  refine ⟨fun r minute week k rest s => ⟨rfl, takeMarks_idle, fun c held => ?_⟩, fun r o s loaded => ?_,
    fun r p cursor s => ?_, fun early r s c b loaded held listed => ?_⟩
  · refine ⟨takeMarks_passes held, fun reached passed => ?_, fun reached stays => ?_⟩
    · exact (takeMarks_takes held reached).trans (if_pos passed)
    · exact (takeMarks_takes held reached).trans (if_neg (Bool.eq_false_iff.mp stays))
  · intro after
    have report (p : Phase) := phaseReport_tookReport loaded p (s.cursorBooking r)
    have tu (p : Phase) : (markPhase r p s).tu = s.tu := (phaseReport_work r p _ s).tu
    have finish (last : s.cursorHandsOver r o = false) : takeMark r o .finish s = (markPhase r .lag s, false) :=
      if_neg (Bool.eq_false_iff.mp last)
    have confirm (absent : s.seenForConfirm r = false) :
        takeMark r o .confirm s = (passOccurrence true r (raise .noShow r s), true) := if_neg (Bool.eq_false_iff.mp absent)
    refine ⟨fun k mem => ?_, (report .prep).phase, (report .on).phase, fun last => ?_, fun hands => if_pos hands, rfl,
      seenForConfirm_own, fun g x => seenForConfirm_joined, fun seen => if_pos seen, fun absent => ⟨confirm absent, ?_⟩,
      fun x own free => ?_, fun x own held => ?_⟩
    · simp only [List.mem_cons, List.not_mem_nil, or_false] at mem
      obtain rfl | rfl := mem
      · exact ⟨rfl, tu .prep, report .prep, fun own => phaseReport_recomposed loaded own _ _⟩
      · exact ⟨rfl, tu .on, report .on, fun own => phaseReport_recomposed loaded own _ _⟩
    · dsimp only [after]
      rw [finish last]
      exact ⟨(report .lag).phase, tu .lag, rfl⟩
    · dsimp only [after]
      rw [confirm absent]
      exact passOccurrence_held true r (raise_holds loaded)
    · exact (phaseReport_run_state own .on _).trans (congrArg RoomState.run (OccState.onPhase_on free))
    · exact (phaseReport_run_state own .on _).trans (congrArg RoomState.run (OccState.onPhase_of_held held .on))
  · intro x t kind was is starts stored moves has
    have table : moves = OccState.onPhase := by
      funext o q
      cases o <;> cases q <;> rfl
    have record : stored = x.storePhase p cursor := by
      rw [storePhase_record, storePhase_stillness]
    clear_value moves stored
    subst table record
    refine ⟨fun off => by simp only [t, phaseReport, off, x], fun o own => ?_, fun g su o joined named held occ => ?_⟩
    · have composes := phaseReport_run_composes own p cursor
      have raises := phaseReport_run_raises own p cursor
      have rooms := phaseReport_run_room own p cursor
      refine ⟨?_, fun moves => raises.told _ r (.inr ⟨rfl, rfl, moves⟩), fun stays => raises.quiet _ r ?_,
        fun enters ne => composes.cleared r ⟨rfl, enters, ne⟩, fun rests => composes.keepsOverrides ?_,
        composes.keepsPlansBut fun q named => named.elim id And.left, fun overruns => raises.told _ r (.inl ⟨rfl, rfl, ?_⟩),
        fun calm => raises.quiet _ r ?_, phaseReport_run_duty own p cursor, composes.recomposed r rfl,
        fun q ne => ⟨(rooms q).trans (if_neg ne), raises.untouched q ?_⟩, phaseReport_run_suites own p cursor,
        phaseReport_work r p cursor s⟩
      · obtain ⟨linger, scene, latch⟩ := storePhase_frame p cursor x
        rw [← linger, ← scene, ← latch]
        exact (rooms r).trans ((if_pos rfl).trans (Room.moved_onPhase ((storePhase_state p cursor _).trans own) p))
      · rintro (⟨other, -⟩ | ⟨-, -, moves⟩)
        · cases other
        · exact moves stays
      · rintro q ⟨-, enters, ne⟩
        exact rests.elim (fun stays => ne (stays.symm.trans enters)) fun other => other enters
      · exact ⟨own.trans (congrArg RoomState.run overruns.1), overruns.2⟩
      · rintro (⟨-, -, occupied, phases⟩ | ⟨other, -⟩)
        · exact calm ⟨RoomState.run.inj (own.symm.trans occupied), phases⟩
        · cases other
      · rintro c (⟨-, here, -⟩ | ⟨-, here, -⟩) <;> exact ne here
    · have composes := phaseReport_joined_composes joined named p cursor held occ
      have raises := phaseReport_joined_raises joined named p cursor held occ
      have rooms := phaseReport_joined_room joined named p cursor held occ
      refine ⟨?_, fun q ne => ?_, phaseReport_joined_took joined named p cursor held occ, fun q mem on =>
        ⟨fun overruns => raises.told _ q (.inl ⟨rfl, ⟨mem, on⟩, overruns⟩), fun calm => raises.quiet _ q ?_⟩,
        composes.recomposed, composes.keepsPlansBut fun q named => .inr (named.elim id And.right), phaseReport_work r p cursor s⟩
      · rw [← (storePhase_frame p cursor x).2.2]
        refine (rooms r).trans ?_
        rw [room_onRoom]
        exact Room.ite_boost _ _
      · refine (rooms q).trans ?_
        rw [room_onRoom_ne ne]
      · rintro (⟨-, -, overruns⟩ | ⟨other, -⟩)
        · exact calm overruns
        · cases other
  · have noted := notedRelease_clock s r early c.occ
    have shared := notedRelease_heldElsewhere s r early c.occ c.occ
    refine ⟨fun kept => ?_, fun dated alone => ?_⟩
    · obtain ⟨follows, store, released⟩ := passOccurrence_advances held listed early loaded
        (withoutPassed_keeps (kept.imp_right shared.trans))
      exact ⟨follows, store.trans noted.2.1, released⟩
    · obtain ⟨follows, store, released⟩ := passOccurrence_advances held listed early loaded
        (withoutPassed_removes dated (shared.trans alone))
      exact ⟨follows, store.trans (congrArg (List.filter fun x : Booking => x.id != b.id) noted.2.1), released⟩

end Sys2Proof.Machine
end

section
/-!
PROOFS. A partition joins and splits a suite (R82, R126, R130, R132, R164, R165, R171). The members are taken one after another, and the
work on one leaves the others alone.
-/

namespace Sys2Proof.Machine

/-! ### Work that leaves a room alone -/

/-- From `s` to `t` room `r` is left alone: its record, its air, its nodes' plans but for the deferred flag, what composition reads
besides, and every condition that held for it. -/
structure LeavesRoom (r : RoomId) (s t : State) : Prop where
  room : t.room r = s.room r
  air : t.air r = s.air r
  entry : ∀ n, t.entry n = s.entry n
  plan : ∀ n e, s.entry n = some e → e.room = r → (t.plan n).map Plan.kept = (s.plan n).map Plan.kept
  pu : t.pu = s.pu
  scenes : t.ap.scenes = s.ap.scenes
  rounding : t.ap.rounding = s.ap.rounding
  held : ∀ c, CondSet.holds (s.notice r).conds c = true → CondSet.holds (t.notice r).conds c = true

namespace LeavesRoom

variable {r : RoomId} {s t u : State}

theorem refl (s : State) : LeavesRoom r s s := ⟨rfl, rfl, fun _ => rfl, fun _ _ _ _ => rfl, rfl, rfl, rfl, fun _ => id⟩

theorem trans (h : LeavesRoom r s t) (k : LeavesRoom r t u) : LeavesRoom r s u where
  room := k.room.trans h.room
  air := k.air.trans h.air
  entry n := (k.entry n).trans (h.entry n)
  plan n e entry room := (k.plan n e ((h.entry n).trans entry) room).trans (h.plan n e entry room)
  pu := k.pu.trans h.pu
  scenes := k.scenes.trans h.scenes
  rounding := k.rounding.trans h.rounding
  held c before := k.held c (h.held c before)

theorem of_work (h : RoomWork s t) (room : t.room r = s.room r) (air : t.air r = s.air r)
    (plan : ∀ n e, s.entry n = some e → e.room = r → (t.plan n).map Plan.kept = (s.plan n).map Plan.kept)
    (held : ∀ c, CondSet.holds (s.notice r).conds c = true → CondSet.holds (t.notice r).conds c = true) : LeavesRoom r s t :=
  ⟨room, air, h.entry, plan, h.pu, h.tables.1, h.tables.2.1, held⟩

theorem forEach {f : RoomId → State → State} {rs : List RoomId} (h : ∀ q ≠ r, ∀ s, LeavesRoom r s (f q s)) (out : r ∉ rs)
    (s : State) : LeavesRoom r s (Machine.forEach rs f s) := by
  induction rs generalizing s with
  | nil => exact .refl s
  | cons q rs ih =>
    obtain ⟨ne, out⟩ := not_or.mp (mt List.mem_cons.mpr out)
    exact (h q (Ne.symm ne) s).trans (ih out (f q s))

theorem endEvent (s : State) : LeavesRoom r s (Machine.endEvent s) :=
  .of_work (endEvent_work s) (room_of_re (endEvent_re s) r) (endEvent_air r s) (fun n _ _ _ => endEvent_kept n s)
    fun _ => (endEvent_raises s).held

variable (h : LeavesRoom r s t)
include h

theorem inDuty : t.inDuty r = s.inDuty r := by rw [State.inDuty, h.room, ← State.inDuty]

theorem scene (n : SceneNum) : t.scene n = s.scene n := by simp only [State.scene, State.loadedScene, h.scenes]

/-- A room with its own machine is composed from what it holds itself (R122 to R125). -/
theorem view {o : OccState} (own : (s.room r).state = .run o) : t.view r = s.view r := by
  simp only [State.view, h.room, own, State.bookingScene, h.scene, State.dutyFlow, h.air]

theorem compose {o : OccState} (own : (s.room r).state = .run o) (role : Role) (p : Plan) :
    Machine.compose t r role p = Machine.compose s r role p := by
  have light (lingers : Bool) (level : Nat) (x : Scene) (group : Fin 4) (step : Nat) :
      lightFrom t lingers level x group step = lightFrom s lingers level x group step := by
    simp only [lightFrom, h.rounding]
  have four (v : View) : layer4 t v r role = layer4 s v r role := by
    cases role <;> simp only [layer4, h.room, h.scene, light]
  have five (v : View) : layer5 t v r role = layer5 s v r role := by
    cases role <;> simp only [layer5, h.room, light]
  have shield : role.family.bind (t.protection r) = role.family.bind (s.protection r) :=
    congrArg _ (funext fun f => by simp only [State.protection, State.source, h.pu])
  simp only [Machine.compose, h.view own, h.room, four, five, shield]

theorem noOverrides (none : s.NoOverrides r) : t.NoOverrides r := by
  intro n e q entry room actuator held
  have entry' := (h.entry n).symm.trans entry
  have kept := h.plan n e entry' room
  rw [held, Option.map_some, eq_comm, Option.map_eq_some_iff] at kept
  obtain ⟨p, held', same⟩ := kept
  exact (Plan.fields_of_kept same).2.symm.trans (none n e p entry' room actuator held')

/-- A room composed stays so while it is left alone. -/
theorem recomposed_later {o : OccState} (own : (s.room r).state = .run o) (composed : Recomposed u s r)
    (entries : ∀ n, s.entry n = u.entry n) : Recomposed u t r where
  targets n e p entry room plan := by
    obtain ⟨q, held, target⟩ := composed.targets n e p entry room plan
    have kept := h.plan n e ((entries n).trans entry) room
    rw [held, Option.map_some, Option.map_eq_some_iff] at kept
    obtain ⟨q', held', same⟩ := kept
    obtain ⟨target', override⟩ := Plan.fields_of_kept same
    exact ⟨q', held', by rw [target', target, override, h.compose own]⟩
  mode := by rw [h.air, composed.mode, h.view own]

/-- Composition may be told from before work that left the room alone. -/
theorem recomposed_earlier (composed : Recomposed t u r) : Recomposed s u r where
  targets n e p entry room plan := by
    have kept := h.plan n e entry room
    rw [plan, Option.map_some, Option.map_eq_some_iff] at kept
    obtain ⟨p', plan', same⟩ := kept
    obtain ⟨q, held, target⟩ := composed.targets n e p' ((h.entry n).trans entry) room plan'
    have alike : Machine.compose u r e.role { p' with override := q.override } =
        Machine.compose u r e.role { p with override := q.override } := compose_of_override rfl u r e.role
    exact ⟨q, held, by rw [target, alike, (Plan.fields_of_kept same).1]⟩
  mode := by rw [composed.mode, h.air]

theorem duty_later (follows : DutyFollows u s r) : DutyFollows u t r := follows.later h.room (congrArg RoomAir.frame h.air)

theorem duty_earlier (follows : DutyFollows t u r) : DutyFollows s u r := by
  obtain ⟨stays, leaves, enters⟩ := follows
  rw [h.inDuty, h.air] at *
  exact ⟨stays, leaves, enters⟩

end LeavesRoom

/-- The work on one room of a list, between that on the rooms before it and that on the rooms after. -/
theorem forEach_member {f : RoomId → State → State} {rs : List RoomId} (once : rs.Nodup) {r : RoomId} (mem : r ∈ rs) (s : State)
    (spares : ∀ q ≠ r, ∀ s, LeavesRoom r s (f q s)) :
    ∃ v, LeavesRoom r s v ∧ LeavesRoom r (f r v) (forEach rs f s) := by
  obtain ⟨before, after, fresh, out, -, -, parts⟩ := forEach_at once mem s
  exact ⟨forEach before f s, .forEach spares fresh s, parts ▸ .forEach spares out _⟩

/-! ### A member joins (R165, step 2) -/

theorem leaveDuty_clears (r : RoomId) (s : State) :
    Clears (fun _ => False) s (if s.inDuty r then onAir r RoomAir.leaveDuty s else s) := by
  refine .ite_none (.of_same (fun _ => rfl) (fun _ => rfl) fun q => ?_) (.refl s)
  by_cases e : q = r
  · rw [e, air_onAir]; rfl
  · rw [air_onAir_ne e]

theorem joinMember_clears (r : RoomId) (s : State) : Clears (· = r) s (joinMember r s) := by
  have joined := ((setRoomState_clears r .joined _).congr fun q =>
    iff_false_intro fun (named : _ ∧ RoomState.joined = .run .vacant ∧ _) => nomatch named.2.1).after_none (leaveDuty_clears r s)
  exact (clearOverrides_clears r _).after_none (joined.then_none (onRoom_clears r _ _))

theorem joinMember_raises (r : RoomId) (s : State) :
    Raises (fun c q => c = .stateChanged ∧ q = r ∧ (s.room r).state ≠ .joined) s (joinMember r s) := by
  have left : Raises (fun _ _ => False) s (if s.inDuty r then onAir r RoomAir.leaveDuty s else s) := .of_same fun q => by
    split <;> rfl
  have room : (if s.inDuty r then onAir r RoomAir.leaveDuty s else s).room r = s.room r := by split <;> rfl
  have told := (setRoomState_raises r (st := .joined) nofun _).after_none left
  rw [room] at told
  exact (told.then_none (onRoom_raises r _ _)).then_none (clearOverrides_only _ r _).raises

theorem joinMember_air (r q : RoomId) (s : State) : (joinMember r s).air q =
    if q = r ∧ s.inDuty r = true then (s.air q).leaveDuty else s.air q := by
  unfold joinMember
  dsimp only
  rw [State.air, clearOverrides_air, ← State.air]
  refine (setRoomState_air r q .joined _).trans ?_
  split
  · rename_i duty
    by_cases here : q = r
    · rw [here, air_onAir, if_pos ⟨rfl, duty⟩]
    · rw [air_onAir_ne here, if_neg fun both => here both.1]
  · rename_i duty
    rw [if_neg fun both => duty both.2]

theorem joinMember_room (r q : RoomId) (s : State) : (joinMember r s).room q = if q = r then (s.room r).joins else s.room q := by
  rw [room_of_re (joinMember_re r s)]
  split
  · rename_i here
    rw [here, room_onRoom]
  · rename_i ne
    rw [room_onRoom_ne ne]

theorem joinMember_leaves {q r : RoomId} (ne : q ≠ r) (s : State) : LeavesRoom r s (joinMember q s) :=
  .of_work (joinMember_work q s) (by rw [joinMember_room, if_neg ne.symm]) (by rw [joinMember_air, if_neg fun both => ne both.1.symm])
    (fun n e entry room => congrArg (Option.map Plan.kept) ((joinMember_clears q s).spared n fun e' entry' here =>
      ne (here.symm.trans (Option.some.inj (entry'.symm.trans entry) ▸ room))))
    fun _ => (joinMember_raises q s).held

theorem joinMember_duty (r : RoomId) (s : State) : DutyFollows s (joinMember r s) r := by
  have out : (joinMember r s).inDuty r = false := by rw [State.inDuty, joinMember_room, if_pos rfl]; rfl
  have air : (joinMember r s).air r = if s.inDuty r = true then (s.air r).leaveDuty else s.air r := by
    rw [joinMember_air]
    exact if_congr (and_iff_right rfl) rfl rfl
  refine ⟨fun same => ?_, fun was _ => ?_, fun _ is => ?_⟩
  · rw [air, if_neg (by rw [same, out]; exact nofun)]
  · rw [air, if_pos was]; rfl
  · rw [out] at is; cases is

/-! ### A member splits off (R171, step 2) -/

/-- The member once it has taken the state of re-entry, before standby duty and composition. -/
def splitTaken (r : RoomId) (s : State) : State :=
  clearOverrides (fun _ => true) r (setRoomState r (.run (reentry (s.room r).presence (s.room r).phase)) s)

theorem splitMember_eq (r : RoomId) (s : State) : splitMember r s = recompose r (dutyEdge false r (splitTaken r s)) := rfl

theorem splitTaken_air (r q : RoomId) (s : State) : (splitTaken r s).air q = s.air q := by
  rw [State.air, splitTaken, clearOverrides_air, ← State.air]
  exact setRoomState_air ..

theorem splitMember_composes (r : RoomId) (s : State) : Composes (· = r) (· = r) s (splitMember r s) := by
  have clears := (setRoomState_clears r (.run (reentry (s.room r).presence (s.room r).phase)) s).trans (clearOverrides_clears r _)
  rw [splitMember_eq]
  refine (Composes.of_clears (clears.then_none (dutyEdge_clears false r _)) (recompose_composed r _)).congr (fun q => ?_)
    fun _ => Iff.rfl
  exact or_iff_right_of_imp And.left

theorem splitMember_raises (r : RoomId) (s : State) : Raises (fun c q => c = .stateChanged ∧ q = r ∧
    (s.room r).state ≠ .run (reentry (s.room r).presence (s.room r).phase)) s (splitMember r s) :=
  (((setRoomState_raises r (st := .run _) nofun s).then_none (clearOverrides_only _ r _).raises).then_none
    (dutyEdge_raises false r _)).then_none (recompose_only r _).raises

theorem splitMember_room (r q : RoomId) (s : State) :
    (splitMember r s).room q = if q = r then (s.room r).splits else s.room q := by
  rw [room_of_re (splitMember_re r s)]
  split
  · rename_i here
    rw [here, room_onRoom]
  · rename_i ne
    rw [room_onRoom_ne ne]

theorem RoomAir.ext_frame {a b : RoomAir} (frame : a.frame = b.frame) (mode : a.mode = b.mode) : a = b := by
  obtain ⟨_, _, _, _, _⟩ := a
  obtain ⟨_, _, _, _, _⟩ := b
  simp only [RoomAir.frame, RoomAir.mk.injEq] at frame mode ⊢
  exact ⟨frame.1, frame.2.1, frame.2.2.1, frame.2.2.2.1, mode⟩

theorem recompose_air_ne {q r : RoomId} (ne : q ≠ r) (s : State) : (recompose r s).air q = s.air q :=
  RoomAir.ext_frame ((recompose_only r s).air q) ((recompose_composed r s).air q ne)

theorem dutyEdge_air_ne {q r : RoomId} (ne : q ≠ r) (was : Bool) (s : State) : (dutyEdge was r s).air q = s.air q := by
  unfold dutyEdge
  split_ifs
  · rfl
  · exact air_onAir_ne ne _ _
  · exact air_onAir_ne ne _ _
  · rfl

theorem splitMember_leaves {q r : RoomId} (ne : q ≠ r) (s : State) : LeavesRoom r s (splitMember q s) := by
  have other : ¬ r = q := Ne.symm ne
  refine .of_work (splitMember_work q s) (by rw [splitMember_room, if_neg other]) ?_ (fun n e entry room => ?_)
    fun _ => (splitMember_raises q s).held
  · rw [splitMember_eq, recompose_air_ne other, dutyEdge_air_ne other, splitTaken_air]
  · refine (splitMember_composes q s).spared n fun e' entry' => ?_
    obtain rfl := Option.some.inj (entry.symm.trans entry')
    exact ⟨fun here => other (room.symm.trans here), fun here => other (room.symm.trans here)⟩

theorem splitMember_duty {r : RoomId} {s : State} (joined : (s.room r).state = .joined) : DutyFollows s (splitMember r s) r := by
  have out : s.inDuty r = false := by rw [State.inDuty, joined]; rfl
  have follows := dutyEdge_follows s r (splitTaken r s) (splitTaken_air r r s)
  rw [out] at follows
  rw [splitMember_eq]
  exact follows.later ((recompose_only r _).room r) ((recompose_only r _).air r)

/-! ### The suite joins (R165) -/

/-- The suite's record once it has joined. -/
def Suite.together (o : OccState) (seen : Bool) (x : Suite) : Suite := { x with occ := some o, seen := seen, linger := none }

theorem partitionAction_joins {g : SuiteId} {x : Suite} {s : State} (held : s.suite g = some x) (apart : x.occ = none) :
    partitionAction true g s = endEvent (joinSuite g s) := by
  simp only [partitionAction, held, apart]; rfl

theorem partitionAction_splits {g : SuiteId} {x : Suite} {s : State} (held : s.suite g = some x) (together : x.occ ≠ none) :
    partitionAction false g s = endEvent (splitSuite g s) := by
  have some : x.occ.isSome = true := Option.isSome_iff_ne_none.mpr together
  simp only [partitionAction, held, some]; rfl

theorem partitionAction_rests {opens : Bool} {g : SuiteId} {x : Suite} {s : State} (held : s.suite g = some x)
    (there : x.occ.isSome = opens) : partitionAction opens g s = s := by
  subst there
  simp only [partitionAction, held]
  cases x.occ <;> rfl

section
variable {g : SuiteId} {x : Suite} {s : State} (held : s.suite g = some x)
include held

omit held in
theorem together_members (o : OccState) (seen : Bool) (u : State) : (onSuite g (Suite.together o seen) u).members g = u.members g :=
  members_onSuite g g (Suite.together o seen) (fun _ => rfl) u

theorem joinSuite_eq : ∃ o seen,
    joinSuite g s = recomposeMembers g (onSuite g (Suite.together o seen) (forEach x.members joinMember s)) :=
  ⟨_, _, by rw [joinSuite, members_of_suite held]; rfl⟩

theorem joinSuite_composes : Composes (· ∈ x.members) (· ∈ x.members) s (joinSuite g s) := by
  obtain ⟨o, seen, parts⟩ := joinSuite_eq held
  have clears := (Clears.forEach joinMember_clears x.members s).congr (D := (· ∈ x.members)) fun q => by simp
  have members := (forEach_work joinMember_work x.members s).members g
  rw [parts]
  refine (Composes.of_clears (clears.then_none (onSuite_clears g _ _)) (RoomsComposed.forEach recompose_composed _ _)).congr
    (fun _ => Iff.rfl) fun q => ?_
  rw [together_members, members, members_of_suite held]

theorem joinSuite_told (once : x.members.Nodup) {r : RoomId} (mem : r ∈ x.members) (apart : (s.room r).state ≠ .joined) :
    CondSet.holds ((joinSuite g s).notice r).conds .stateChanged = true := by
  obtain ⟨o, seen, parts⟩ := joinSuite_eq held
  obtain ⟨v, before, after⟩ := forEach_member once mem s fun q ne => joinMember_leaves ne
  have told := after.held _ ((joinMember_raises r v).told .stateChanged r ⟨rfl, rfl, by rwa [before.room]⟩)
  rw [parts]
  exact ((onSuite_raises g _ _).then_none (recomposeMembers_only g _).raises).held told

theorem joinSuite_duty (once : x.members.Nodup) {r : RoomId} (mem : r ∈ x.members) : DutyFollows s (joinSuite g s) r := by
  obtain ⟨o, seen, parts⟩ := joinSuite_eq held
  obtain ⟨v, before, after⟩ := forEach_member once mem s fun q ne => joinMember_leaves ne
  have follows := before.duty_earlier (after.duty_later (joinMember_duty r v))
  rw [parts]
  exact follows.later ((recomposeMembers_only g _).room r) ((recomposeMembers_only g _).air r)

/-! ### The suite splits (R171) -/

/-- The suite's record once it has split. -/
def Suite.apart (x : Suite) : Suite := { x with occ := none, seen := false, linger := none }

theorem splitSuite_eq : splitSuite g s = forEach x.members splitMember (onSuite g Suite.apart s) := by
  rw [splitSuite, members_of_suite held]; rfl

omit held in
theorem apart_leaves (r : RoomId) : LeavesRoom r s (onSuite g Suite.apart s) :=
  ⟨rfl, rfl, fun _ => rfl, fun _ _ _ _ => rfl, rfl, rfl, rfl, fun _ => id⟩

/-- One member's part in the split, between what leaves it alone. -/
theorem splitSuite_member (once : x.members.Nodup) {r : RoomId} (mem : r ∈ x.members) :
    ∃ v, LeavesRoom r s v ∧ LeavesRoom r (splitMember r v) (splitSuite g s) := by
  obtain ⟨v, before, after⟩ := forEach_member once mem (onSuite g Suite.apart s) fun q ne => splitMember_leaves ne
  exact ⟨v, (apart_leaves r).trans before, splitSuite_eq held ▸ after⟩

theorem splitSuite_leaves {r : RoomId} (out : r ∉ x.members) : LeavesRoom r s (splitSuite g s) := by
  rw [splitSuite_eq held]
  exact (apart_leaves r).trans (.forEach (fun q ne => splitMember_leaves ne) out _)

/-- What the split makes of a JOINED member. -/
theorem splitSuite_splits (once : x.members.Nodup) {r : RoomId} (mem : r ∈ x.members) (joined : (s.room r).state = .joined)
    (scene : (s.room r).overrideScene = none) :
    CondSet.holds ((splitSuite g s).notice r).conds .stateChanged = true ∧ (splitSuite g s).NoOverrides r ∧
      DutyFollows s (splitSuite g s) r ∧ Recomposed s (splitSuite g s) r := by
  obtain ⟨v, before, after⟩ := splitSuite_member held once mem
  have joined' : (v.room r).state = .joined := by rw [before.room, joined]
  have composes := splitMember_composes r v
  have own : ((splitMember r v).room r).state = .run (reentry (v.room r).presence (v.room r).phase) := by
    rw [splitMember_room, if_pos rfl, Room.splits_of_joined joined' (by rw [before.room, scene])]
  refine ⟨after.held _ ((splitMember_raises r v).told _ r ⟨rfl, rfl, by rw [joined']; exact nofun⟩),
    after.noOverrides (composes.cleared r rfl), before.duty_earlier (after.duty_later (splitMember_duty joined')),
    before.recomposed_earlier (after.recomposed_later own (composes.recomposed r rfl) (splitMember_work r v).entry)⟩

end

/-- Settles O50, by each member's part in the join and the split, and the suite's record. -/
theorem partitionJoinsAndSplits : Obligations.PartitionJoinsAndSplits := by
  refine ⟨fun opens g s empty => by simp only [partitionAction, empty], fun g x s held law => ?_⟩
  obtain ⟨once, -, member, -, -⟩ := law.suites g x held
  have rooms (u : State) (q : RoomId) : (endEvent u).room q = u.room q := room_of_re (endEvent_re u) q
  have suites (u : State) (k : SuiteId) : (endEvent u).suite k = u.suite k := suite_of_re (endEvent_re u) k
  refine ⟨fun apart => partitionAction_rests held (by rw [apart]; rfl), fun together => partitionAction_rests held
    (Option.isSome_iff_ne_none.mpr together), fun apart => ?_, fun together => ?_⟩
  · have composes := (joinSuite_composes held).ends
    rw [partitionAction_joins held apart]
    refine ⟨by rw [suites, joinSuite_suite held, if_pos rfl], fun r mem => ⟨?_, ?_, composes.cleared r mem, ?_⟩, composes.recomposed,
      composes.keepsPlansBut fun _ named => named.elim id id, fun r out => ?_, fun k ne => ?_,
      (joinSuite_work g s).trans (endEvent_work _)⟩
    · rw [rooms, joinSuite_room held, if_pos mem]; rfl
    · have ne : (s.room r).state ≠ .joined := fun joined => by
        have there := (member r mem).2.2.mp joined
        rw [apart] at there; cases there
      exact (endEvent_raises _).held (joinSuite_told held once mem ne)
    · exact (LeavesRoom.endEvent _).duty_later (joinSuite_duty held once mem)
    · rw [rooms, joinSuite_room held, if_neg out]
    · rw [suites, joinSuite_suite held, if_neg ne]
  · rw [partitionAction_splits held together]
    have joined (r : RoomId) (mem : r ∈ x.members) : (s.room r).state = .joined :=
      (member r mem).2.2.mpr (Option.isSome_iff_ne_none.mpr together)
    have splits (r : RoomId) (mem : r ∈ x.members) :=
      splitSuite_splits held once mem (joined r mem) ((law.rooms r).joined (joined r mem)).2
    have later (r : RoomId) := LeavesRoom.endEvent (r := r) (splitSuite g s)
    refine ⟨by rw [suites, splitSuite_suite held, if_pos rfl], fun r mem => ⟨?_, ?_⟩, fun r mem => ?_, fun n e entry out => ?_,
      fun r out => ?_, fun k ne => ?_, (splitSuite_work g s).trans (endEvent_work _)⟩
    · obtain ⟨linger, scene⟩ := (law.rooms r).joined (joined r mem)
      rw [rooms, splitSuite_room held, if_pos mem, Room.splits_of_joined (joined r mem) scene, ← linger, ← scene]
    · obtain ⟨told, clear, duty, -⟩ := splits r mem
      exact ⟨(later r).held _ told, (later r).noOverrides clear, (later r).duty_later duty⟩
    · obtain ⟨-, -, -, composed⟩ := splits r mem
      have own : ((splitSuite g s).room r).state = .run (reentry (s.room r).presence (s.room r).phase) := by
        rw [splitSuite_room held, if_pos mem, Room.splits_of_joined (joined r mem) ((law.rooms r).joined (joined r mem)).2]
      exact (later r).recomposed_later own composed (splitSuite_work g s).entry
    · exact (endEvent_kept n _).trans ((splitSuite_leaves held out).plan n e entry rfl)
    · rw [rooms, splitSuite_room held, if_neg out]
    · rw [suites, splitSuite_suite held, if_neg ne]

end Sys2Proof.Machine
end

section
/-!
PROOFS. DISABLE ROOM (R25, R89, R126, R132 to R135, R173).
-/

namespace Sys2Proof.Machine

/-! ### A node without a target (R132 to R135) -/

/-- A node that has no target, of which no item is queued and which is not deferred. -/
structure Untargeted (n : NodeRef) (s : State) : Prop where
  rests : ∀ p, s.plan n = some p → p.target = none
  queue : ∀ it ∈ (s.line n.line).queued, it.node ≠ n.addr
  calm : ∀ p, s.plan n = some p → p.deferred = false

namespace Untargeted

variable {n : NodeRef} {s : State} (h : Untargeted n s)
include h

/-- An examination offers nothing for the node and displaces nothing of it. -/
theorem examine (link : Option RoomId) (m : NodeRef) :
    Untargeted n (Machine.examine link m s) ∧ (Machine.examine link m s).plan n = s.plan n := by
  obtain same | ⟨e, p, t, entry, plan, due⟩ := examine_cases link m s
  · rw [same]; exact ⟨h, rfl⟩
  have apart : n ≠ m := by
    rintro rfl
    rw [examined_of_no_target (h.rests p plan)] at due
    cases due
  have spared : displaces m.line (targetItem m e.role t link)
      ((s.line m.line).offer (targetItem m e.role t link)).2.1 n = false := by
    by_contra marked
    simp only [displaces, Bool.not_eq_false, Bool.and_eq_true, beq_iff_eq, List.any_eq_true] at marked
    obtain ⟨line, o, out, ⟨node, -⟩, -⟩ := marked
    exact h.queue o (line ▸ Line.mem_offer_out out) node
  have same : (Machine.examine link m s).plan n = s.plan n := by
    rw [examine_plan_ne entry plan due apart]
    simp [spared]
  refine ⟨⟨fun q held => h.rests q (same ▸ held), fun it mem => ?_, fun q held => h.calm q (same ▸ held)⟩, same⟩
  by_cases line : n.line = m.line
  · rw [line, examine_line entry plan due] at mem
    obtain old | rfl := Line.mem_offer mem
    · exact h.queue it (line ▸ old)
    · exact fun node => apart (by cases n; cases m; exact congrArg₂ NodeRef.mk line node.symm)
  · rw [examine_line_ne line] at mem
    exact h.queue it mem

theorem defer (m : NodeRef) : (onPlan m (fun p => { p with deferred := false }) s).plan n = s.plan n := by
  by_cases here : n = m
  · rw [← here, plan_onPlan]
    cases held : s.plan n with
    | none => rfl
    | some p =>
      rw [Option.map_some, ← h.calm p held]
  · exact plan_onPlan_ne here _ s

/-- AP's inbox leaves the node as it is. -/
theorem settle : Untargeted n (Machine.settle s) ∧ (Machine.settle s).plan n = s.plan n := by
  refine settle_induction (π := fun u => Untargeted n u ∧ u.plan n = s.plan n)
    (fun u _ _ k => ⟨⟨k.1.rests, k.1.queue, k.1.calm⟩, k.2⟩) (fun u m k => ?_) (fun u m k => ?_) ⟨h, rfl⟩
  · have same := k.1.defer m
    exact ⟨⟨fun p held => k.1.rests p (same ▸ held), k.1.queue, fun p held => k.1.calm p (same ▸ held)⟩, same.trans k.2⟩
  · obtain ⟨untargeted, same⟩ := k.1.examine none m
    exact ⟨untargeted, same.trans k.2⟩

end Untargeted

/-! ### The room's nodes (R25, R89) -/

/-- The room's records empty, and its nodes' items gone from the queues. -/
def flushedRoom (r : RoomId) (s : State) : State :=
  forEach (s.nodesOf r) flushNode (onTime r (fun _ => RoomTime.empty) (onRoom r (fun _ => Room.off) s))

theorem flushedRoom_offers (r : RoomId) (s : State) :
    OnlyOffers (onTime r (fun _ => RoomTime.empty) (onRoom r (fun _ => Room.off) s)) (flushedRoom r s) :=
  .forEach flushNode_offers _ _

theorem flushNode_line_sub (m : NodeRef) (l : LineId) {s : State} {it : Item} (mem : it ∈ ((flushNode m s).line l).queued) :
    it ∈ (s.line l).queued := by
  by_cases here : l = m.line
  · subst here
    rw [flushNode, removeItems_line, Line.mem_remove] at mem
    exact mem.1
  · rwa [flushNode, removeItems_line_ne here] at mem

theorem flushedRoom_queue {r : RoomId} {s : State} {n : NodeRef} {e : NodeEntry} (entry : s.entry n = some e) (room : e.room = r) :
    ∀ it ∈ ((flushedRoom r s).line n.line).queued, it.node ≠ n.addr := by
  obtain ⟨before, after, -, -, -, -, parts⟩ := forEach_at (f := flushNode) (nodesOf_nodup s r) (mem_nodesOf_iff.mpr ⟨e, entry, room⟩)
    (onTime r (fun _ => RoomTime.empty) (onRoom r (fun _ => Room.off) s))
  rw [flushedRoom, parts]
  exact forEach_induction (π := fun u => ∀ it ∈ (u.line n.line).queued, it.node ≠ n.addr)
    (fun m u clear it mem => clear it (flushNode_line_sub m n.line mem)) _ (flushNode_queue n _)

/-- One node's plan returns to the fresh value (R89). -/
def renewNode (n : NodeRef) (s : State) : State :=
  match s.entry n with
  | some e => setPlan n e.role.freshPlan s
  | none => s

theorem renewPlans_eq (r : RoomId) (s : State) : renewPlans r s = forEach (s.nodesOf r) renewNode s := rfl

theorem renewNode_of_entry {n : NodeRef} {s : State} {e : NodeEntry} (entry : s.entry n = some e) :
    renewNode n s = setPlan n e.role.freshPlan s := by
  simp only [renewNode, entry]

theorem renewNode_plan_ne {m n : NodeRef} (ne : m ≠ n) (s : State) : (renewNode n s).plan m = s.plan m := by
  unfold renewNode
  split
  · exact plan_setPlan_ne ne _ s
  · rfl

/-- Renewal writes plans and nothing else. -/
theorem renewPlans_rest (r : RoomId) (s : State) : { renewPlans r s with ap := s.ap } = s ∧ (renewPlans r s).ap.air = s.ap.air := by
  refine forEach_rel (fun a b => { b with ap := a.ap } = a ∧ b.ap.air = a.ap.air) (fun _ => ⟨rfl, rfl⟩)
    (fun {a b c} first second => ⟨by rw [← first.1, ← second.1], second.2.trans first.2⟩) (fun n u => ?_) _ s
  split <;> exact ⟨rfl, rfl⟩

theorem renewPlans_plan {r : RoomId} {s : State} {n : NodeRef} {e : NodeEntry} (entry : s.entry n = some e) (room : e.room = r) :
    (renewPlans r s).plan n = e.role.freshPlan := by
  obtain ⟨before, after, -, out, -, -, parts⟩ := forEach_at (f := renewNode) (nodesOf_nodup s r)
    (mem_nodesOf_iff.mpr ⟨e, entry, room⟩) s
  have lc : (forEach before renewNode s).lc = s.lc := forEach_keeps State.lc (fun m u => by unfold renewNode; split <;> rfl) _ s
  have there : (forEach before renewNode s).entry n = some e := by
    rw [State.entry, State.line, lc, ← State.line, ← State.entry, entry]
  rw [renewPlans_eq, parts, forEach_keeps_mem (f := renewNode) (State.plan · n) (fun m mem u => renewNode_plan_ne (fun same => out ?_) u),
    renewNode_of_entry there, plan_setPlan]
  exact same ▸ mem

theorem renewPlans_plan_of_other {r : RoomId} {s : State} {n : NodeRef} (other : ∀ e, s.entry n = some e → e.room ≠ r) :
    (renewPlans r s).plan n = s.plan n :=
  forEach_keeps_mem (State.plan · n) (fun m mem u => renewNode_plan_ne (fun same => by
    obtain ⟨e, entry, room⟩ := mem_nodesOf_iff.mp (same ▸ mem)
    exact other e entry room) u) s

theorem freshPlan_untargeted {role : Role} {p : Plan} (h : role.freshPlan = some p) : p.target = none ∧ p.deferred = false := by
  rw [Role.freshPlan] at h
  split at h
  · rw [← Option.some.inj h]
    exact ⟨rfl, rfl⟩
  · cases h

/-! ### The room disabled (R89, R126, R173) -/

/-- The room's air and notice record as they are for an OFF room. -/
def emptyRecords (r : RoomId) (s : State) : State :=
  unlist r (onNotice r (fun _ => RoomNotice.empty) (onAir r (fun _ => RoomAir.initial) s))

theorem emptyRecords_nu (r : RoomId) (s : State) : (emptyRecords r s).nu = { s.nu with
    rooms := put s.nu.rooms r RoomNotice.empty, pendingList := s.nu.pendingList.filter (· != r) } := rfl

theorem emptyRecords_air (r q : RoomId) (s : State) : (emptyRecords r s).air q = if q = r then RoomAir.initial else s.air q :=
  look_put ..

theorem emptyRecords_plan (r : RoomId) (n : NodeRef) (s : State) : (emptyRecords r s).plan n = s.plan n := rfl

/-- The room's plans fresh too. -/
def emptiedRoom (r : RoomId) (s : State) : State := emptyRecords r (renewPlans r s)

theorem disableRoomWork_eq (r : RoomId) (s : State) : disableRoomWork r s = endEvent (emptiedRoom r (flushedRoom r s)) := rfl

section
variable (r : RoomId) (s : State)

theorem emptiedRoom_rest : { emptiedRoom r s with ap := s.ap, nu := s.nu } = s := by
  have renewed := (renewPlans_rest r s).1
  rw [emptiedRoom]
  generalize renewPlans r s = u at renewed ⊢
  rw [← renewed]
  rfl

theorem emptiedRoom_nu : (emptiedRoom r s).nu = { s.nu with
    rooms := put s.nu.rooms r RoomNotice.empty, pendingList := s.nu.pendingList.filter (· != r) } := by
  have nu : (renewPlans r s).nu = s.nu := have e := congrArg State.nu (renewPlans_rest r s).1; e
  rw [emptiedRoom, emptyRecords_nu, nu]

theorem emptiedRoom_air (q : RoomId) : (emptiedRoom r s).air q = if q = r then RoomAir.initial else s.air q := by
  rw [emptiedRoom, emptyRecords_air, State.air, (renewPlans_rest r s).2, ← State.air]

theorem emptiedRoom_plan (n : NodeRef) : (emptiedRoom r s).plan n = (renewPlans r s).plan n := emptyRecords_plan ..

theorem emptiedRoom_lc : (emptiedRoom r s).lc = s.lc := have e := congrArg State.lc (emptiedRoom_rest r s); e
theorem emptiedRoom_re : (emptiedRoom r s).re = s.re := have e := congrArg State.re (emptiedRoom_rest r s); e
theorem emptiedRoom_tu : (emptiedRoom r s).tu = s.tu := have e := congrArg State.tu (emptiedRoom_rest r s); e
theorem emptiedRoom_ti : (emptiedRoom r s).ti = s.ti := have e := congrArg State.ti (emptiedRoom_rest r s); e
theorem emptiedRoom_pu : (emptiedRoom r s).pu = s.pu := have e := congrArg State.pu (emptiedRoom_rest r s); e
theorem emptiedRoom_cl : (emptiedRoom r s).cl = s.cl := have e := congrArg State.cl (emptiedRoom_rest r s); e

theorem emptiedRoom_line (l : LineId) : (emptiedRoom r s).line l = s.line l := by
  rw [State.line, emptiedRoom_lc, ← State.line]

end

/-- A node of the room has no target once the room is disabled, and nothing queued. -/
theorem emptiedRoom_untargeted {r : RoomId} {s : State} {n : NodeRef} {e : NodeEntry} (entry : s.entry n = some e)
    (room : e.room = r) : Untargeted n (emptiedRoom r (flushedRoom r s)) ∧
      (emptiedRoom r (flushedRoom r s)).plan n = e.role.freshPlan := by
  have flushed : (flushedRoom r s).entry n = some e := ((flushedRoom_offers r s).only.entry n).trans entry
  have plan := (emptiedRoom_plan r _ n).trans (renewPlans_plan flushed room)
  have fresh (p : Plan) (held : (emptiedRoom r (flushedRoom r s)).plan n = some p) := freshPlan_untargeted (plan.symm.trans held)
  refine ⟨⟨fun p held => (fresh p held).1, fun it mem => ?_, fun p held => (fresh p held).2⟩, plan⟩
  rw [emptiedRoom_line] at mem
  exact flushedRoom_queue entry room it mem

theorem disableRoom_ok {ps : List Byte} {r : RoomId} {s : State} (parsed : oneByte 48 ps = .ok r) (loaded : (s.room r).state ≠ .off)
    (alone : (s.room r).suite = none) : disableRoom ps s = .ok (disableRoomWork r s, []) := by
  simp [disableRoom, parsed, loaded, alone, refuseWhen, bind, Except.bind, pure, Except.pure]

section
variable (r : RoomId) (s : State)

theorem flushedRoom_room (q : RoomId) : (flushedRoom r s).room q = if q = r then Room.off else s.room q := by
  rw [(flushedRoom_offers r s).only.room, State.room, onTime_re, ← State.room]
  split
  · rename_i here
    rw [here, room_onRoom]
  · rename_i ne
    rw [room_onRoom_ne ne]

theorem flushedRoom_tu : (flushedRoom r s).tu = (onTime r (fun _ => RoomTime.empty) s).tu := (flushedRoom_offers r s).only.tu

variable {s} (settled : s.Settled)
include settled

theorem disableRoomWork_offers : OnlyOffers (emptiedRoom r (flushedRoom r s)) (disableRoomWork r s) := by
  rw [disableRoomWork_eq]
  refine endEvent_offers ?_
  rw [State.Settled, emptiedRoom_nu, (flushedRoom_offers r s).only.nu]
  exact settled

theorem disableRoomWork_room (q : RoomId) : (disableRoomWork r s).room q = if q = r then Room.off else s.room q := by
  rw [(disableRoomWork_offers r settled).only.room, State.room, emptiedRoom_re, ← State.room, flushedRoom_room]

theorem disableRoomWork_time (q : RoomId) : (disableRoomWork r s).time q = if q = r then RoomTime.empty else s.time q := by
  rw [State.time, (disableRoomWork_offers r settled).only.tu, emptiedRoom_tu, flushedRoom_tu, ← State.time]
  split
  · rename_i here
    rw [here, time_onTime]
  · rename_i ne
    rw [time_onTime_ne ne]

theorem disableRoomWork_air (q : RoomId) : (disableRoomWork r s).air q = if q = r then RoomAir.initial else s.air q := by
  have same : (flushedRoom r s).air q = s.air q := by
    rw [State.air, (flushedRoom_offers r s).air]; rfl
  rw [State.air, (disableRoomWork_offers r settled).air, ← State.air, emptiedRoom_air, same]

theorem disableRoomWork_nu : (disableRoomWork r s).nu = { s.nu with
    rooms := put s.nu.rooms r RoomNotice.empty, pendingList := s.nu.pendingList.filter (· != r) } := by
  rw [(disableRoomWork_offers r settled).only.nu, emptiedRoom_nu, (flushedRoom_offers r s).only.nu]
  rfl

theorem disableRoomWork_notice (q : RoomId) : (disableRoomWork r s).notice q = if q = r then RoomNotice.empty else s.notice q := by
  rw [State.notice, disableRoomWork_nu r settled]
  exact look_put ..

omit settled in
theorem disableRoomWork_node {n : NodeRef} {e : NodeEntry} (entry : s.entry n = some e) (room : e.room = r) :
    (disableRoomWork r s).plan n = e.role.freshPlan ∧ ∀ it ∈ ((disableRoomWork r s).line n.line).queued, it.node ≠ n.addr := by
  obtain ⟨untargeted, plan⟩ := emptiedRoom_untargeted entry room
  obtain ⟨after, same⟩ := untargeted.settle
  rw [disableRoomWork_eq, endEvent_plan, endEvent_line]
  exact ⟨same.trans plan, after.queue⟩

theorem disableRoomWork_spares {n : NodeRef} (other : ∀ e, s.entry n = some e → e.room ≠ r) :
    ((disableRoomWork r s).plan n).map Plan.kept = (s.plan n).map Plan.kept := by
  have flushed := flushedRoom_offers r s
  rw [(disableRoomWork_offers r settled).kept, emptiedRoom_plan,
    renewPlans_plan_of_other fun e entry => other e ((flushed.only.entry n).symm.trans entry), flushed.kept]
  rfl

theorem disableRoomWork_frame (l : LineId) : ((disableRoomWork r s).line l).frame = (s.line l).frame := by
  rw [(disableRoomWork_offers r settled).only.lines, emptiedRoom_line, (flushedRoom_offers r s).only.lines]
  rfl

theorem disableRoomWork_rest : (disableRoomWork r s).tu.store = s.tu.store ∧ (disableRoomWork r s).re.suites = s.re.suites ∧
    (disableRoomWork r s).pu = s.pu ∧ (disableRoomWork r s).cl = s.cl ∧ (disableRoomWork r s).ti = s.ti := by
  have offers := (disableRoomWork_offers r settled).only
  have flushed := (flushedRoom_offers r s).only
  rw [offers.tu, offers.re, offers.pu, offers.cl, offers.ti, emptiedRoom_tu, emptiedRoom_re, emptiedRoom_pu, emptiedRoom_cl,
    emptiedRoom_ti, flushed.tu, flushed.re, flushed.pu, flushed.cl, flushed.ti]
  exact ⟨rfl, rfl, rfl, rfl, rfl⟩

end

/-- Settles O28, by the pieces of the room disabled; AP's inbox offers its nodes nothing, for they have no target. -/
theorem disableRoomReturnsTheRoomToOff : Obligations.DisableRoomReturnsTheRoomToOff := by
  intro s tag ps r takes parsed loaded alone settled
  have due : (dropFrame s).Settled := settled
  have nu := disableRoomWork_nu r due
  obtain ⟨store, suites, pu, cl, ti⟩ := disableRoomWork_rest r due
  refine ⟨_, request_done rfl takes (disableRoom_ok parsed loaded alone), ?_, ?_, ?_, ?_, (congrArg Nu.pendingList nu :),
    fun n e entry room => disableRoomWork_node r (s := dropFrame s) entry room, fun q ne => ⟨?_, ?_, ?_, ?_⟩,
    fun n other => disableRoomWork_spares r due other, disableRoomWork_frame r due, store, suites, pu, cl, ti, (congrArg Nu.wing nu :)⟩
  · exact (disableRoomWork_room r due r).trans (if_pos rfl)
  · exact (disableRoomWork_time r due r).trans (if_pos rfl)
  · exact (disableRoomWork_air r due r).trans (if_pos rfl)
  · exact (disableRoomWork_notice r due r).trans (if_pos rfl)
  · exact (disableRoomWork_room r due q).trans (if_neg ne)
  · exact (disableRoomWork_time r due q).trans (if_neg ne)
  · exact (disableRoomWork_air r due q).trans (if_neg ne)
  · exact (disableRoomWork_notice r due q).trans (if_neg ne)

end Sys2Proof.Machine
end

section
/-!
PROOFS. LOAD ROOM (R69, R82, R86, R87, R105, R126, R132, R169, R173).
-/

namespace Sys2Proof.Machine

/-- What an event composes and clears may be told from an earlier state with the same nodes, plans and air modes. -/
theorem Composes.of_earlier {C P : RoomId → Prop} {s v t : State} (h : Composes C P v t) (entry : ∀ n, v.entry n = s.entry n)
    (plan : ∀ n, v.plan n = s.plan n) (air : ∀ r, (v.air r).mode = (s.air r).mode) : Composes C P s t where
  recomposed r named := (h.recomposed r named).of_earlier entry (fun n => by rw [plan]) (air r)
  spared n other := (h.spared n fun e held => other e ((entry n).symm.trans held)).trans (by rw [plan])
  cleared := h.cleared
  kept n other := (h.kept n fun e held => other e ((entry n).symm.trans held)).trans (by rw [plan])

/-! ### A room comes into service (R86) -/

/-- The room with its cursor and phase, before it has a state (R86). -/
def roomReported (x : RoomLoad) (s : State) : State :=
  let c := foundInService x s
  onRoom x.room (Room.storePhase c.2.1 c.2.2) (onTime x.room (fun t => { t with cursor := c.1 }) (intoService x s))

theorem roomPlaced_eq (x : RoomLoad) (s : State) : roomPlaced x s =
    setRoomState x.room (.run (reentry ((roomReported x s).room x.room).presence ((roomReported x s).room x.room).phase))
      (roomReported x s) := rfl

/-- Catch-up finds what the timetable gives the room (R105). -/
theorem foundInService_eq {x : RoomLoad} {s : State} (alone : (s.room x.room).suite = none) :
    foundInService x s = catchUp s.tu.clock (s.select x.room) := by
  have there : ((intoService x s).room x.room).suite = none :=
    congrArg Room.suite (room_onRoom x.room (fun _ => { Room.off with cfg := x.cfg }) s)
  have lists : (intoService x s).lists x.room = s.lists x.room := funext fun b => by rw [State.lists, State.lists, there, alone]
  have bookings : (intoService x s).bookingsOf x.room = s.bookingsOf x.room := congrArg (List.filter · s.tu.store) lists
  rw [foundInService, State.select, bookings]
  rfl

section
variable (x : RoomLoad) (s : State)

theorem roomReported_room : (roomReported x s).room x.room =
    Room.configured x.cfg (foundInService x s).2.1 (foundInService x s).2.2 := by
  have record : (onTime x.room (fun t => { t with cursor := (foundInService x s).1 }) (intoService x s)).room x.room =
      { Room.off with cfg := x.cfg } := room_onRoom x.room (fun _ => { Room.off with cfg := x.cfg }) s
  unfold roomReported
  dsimp only
  rw [room_onRoom, record, Room.configured]

/-- A room configured and told its phase, with no evidence and no state. -/
theorem Room.configured_eq (cfg : RoomConfig) (p : Phase) (k : Option Booking) : Room.configured cfg p k = { Room.off with
    cfg := cfg, phase := p, cursorKind := k.map Booking.kind, bookingScene := k.map Booking.scene } := by
  have still : (Room.storePhase p k { Room.off with cfg := cfg }).stillness = none := by
    rw [storePhase_stillness, if_neg fun starts => nomatch starts.1.1]
    exact ite_self none
  have seen : (if p = .on then Room.presence { Room.off with cfg := cfg } else Room.off.seen) = false := ite_self false
  rw [Room.configured, storePhase_record, still]
  exact congrArg (fun b : Bool => ({ Room.off with
    cfg := cfg, phase := p, cursorKind := k.map Booking.kind, bookingScene := k.map Booking.scene, seen := b } : Room)) seen

theorem Room.placed_eq (cfg : RoomConfig) (p : Phase) (k : Option Booking) : Room.placed cfg p k = { Room.off with
    cfg := cfg, state := .run p.place, phase := p, cursorKind := k.map Booking.kind, bookingScene := k.map Booking.scene } := by
  have place : reentry (Room.configured cfg p k).presence (Room.configured cfg p k).phase = p.place := by
    rw [Room.configured_eq]; rfl
  rw [Room.placed, place, Room.configured_eq, Room.entered, if_neg nofun]
  split <;> rfl

theorem roomReported_clears : Clears (fun _ => False) (onAir x.room (fun _ => RoomAir.initial) s) (roomReported x s) :=
  .of_same (fun _ => rfl) (fun _ => rfl) fun _ => rfl

/-- The room's machine enters VACANT when it comes into service so (R82, R86). -/
theorem roomPlaced_clears : Clears (fun q => q = x.room ∧ (foundInService x s).2.1.place = .vacant)
    (onAir x.room (fun _ => RoomAir.initial) s) (roomPlaced x s) := by
  rw [roomPlaced_eq]
  refine ((setRoomState_clears x.room _ _).after_none (roomReported_clears x s)).congr fun q => and_congr_right fun _ => ?_
  rw [roomReported_room, Room.configured_eq, RoomState.run.injEq]
  exact and_iff_left nofun

theorem roomReported_notice (q : RoomId) : (roomReported x s).notice q = (writeNotice x s).notice q := rfl

theorem roomPlaced_raises : Raises (fun c q => c = .stateChanged ∧ q = x.room) (writeNotice x s) (roomPlaced x s) := by
  rw [roomPlaced_eq]
  refine ((setRoomState_raises x.room (st := .run _) nofun _).after_none (.of_same (roomReported_notice x s))).congr fun c q =>
    and_congr_right fun _ => and_iff_left ?_
  rw [roomReported_room, Room.configured_eq]
  exact nofun

theorem roomPlaced_work : RoomWork (roomReported x s) (roomPlaced x s) := setRoomState_work ..

theorem roomIntoService_work : RoomWork (roomReported x s) (roomIntoService x s) :=
  (roomPlaced_work x s).trans ((dutyEdge_work ..).trans ((recompose_work ..).trans (endEvent_work _)))

theorem roomIntoService_composes : Composes (fun q => q = x.room ∧ (foundInService x s).2.1.place = .vacant) (· = x.room)
    (onAir x.room (fun _ => RoomAir.initial) s) (roomIntoService x s) := by
  rw [roomIntoService_eq]
  exact (Composes.of_clears ((roomPlaced_clears x s).then_none (dutyEdge_clears false x.room _)) (recompose_composed x.room _)).ends

theorem roomIntoService_raises : Raises (fun c q => c = .stateChanged ∧ q = x.room) (writeNotice x s) (roomIntoService x s) := by
  rw [roomIntoService_eq]
  exact (((roomPlaced_raises x s).then_none (dutyEdge_raises false x.room _)).then_none (recompose_only x.room _).raises).then_none
    (endEvent_raises _)

theorem roomIntoService_room (q : RoomId) : (roomIntoService x s).room q = if q = x.room then
    { Room.off with
      cfg := x.cfg, state := .run (foundInService x s).2.1.place, phase := (foundInService x s).2.1
      cursorKind := (foundInService x s).2.2.map Booking.kind
      bookingScene := (foundInService x s).2.2.map Booking.scene } else s.room q := by
  obtain ⟨re, -⟩ := State.records_eq_iff.mp (roomIntoService_records x s)
  rw [room_of_re (re.trans (roomPlaced_re x s))]
  split
  · rename_i here
    rw [here, room_onRoom, Room.placed_eq]
  · rename_i ne
    rw [room_onRoom_ne ne]

theorem roomIntoService_suites : (roomIntoService x s).re.suites = s.re.suites := by
  obtain ⟨re, -⟩ := State.records_eq_iff.mp (roomIntoService_records x s)
  rw [re, roomPlaced_re]
  rfl

theorem roomIntoService_tu : (roomIntoService x s).tu =
    (onTime x.room (fun t => { t with cursor := (foundInService x s).1 }) s).tu := (roomIntoService_work x s).tu

theorem writeNotice_notice : (writeNotice x s).notice x.room =
    { s.notice x.room with notify := x.notify, cls := x.cls, tag := x.tag } := notice_onNotice x.room _ s

theorem writeNotice_notice_ne {q : RoomId} (ne : q ≠ x.room) : (writeNotice x s).notice q = s.notice q := notice_onNotice_ne ne _ s

/-! ### A loaded room is configured again (R87) -/

/-- The room configured again and its capacity tested, before AP composes it. -/
def roomReloaded : State :=
  overcrowdTest x.room (writeNotice x (onRoom x.room (fun y => { y with cfg := x.cfg }) s))

theorem reloadRoom_eq : reloadRoom x s = endEvent (recomposeFrom x.room (roomReloaded x s)) := rfl

theorem roomReloaded_re : (roomReloaded x s).re =
    (onRoom x.room (fun y => { y with cfg := x.cfg, aboveCapacity := decide (x.cfg.capacity < y.head) }) s).re := by
  have written : (writeNotice x (onRoom x.room (fun y => { y with cfg := x.cfg }) s)).re =
      (onRoom x.room (fun y => { y with cfg := x.cfg }) s).re := rfl
  rw [roomReloaded, overcrowdTest_re, onRoom_re x.room _ written, onRoom_onRoom]
  rfl

theorem recomposeFrom_composed (r : RoomId) (t : State) : RoomsComposed
    (fun q => (∃ g, t.leads r = some g ∧ q ∈ t.members g) ∨ (t.leads r = none ∧ q = r)) t (recomposeFrom r t) := by
  unfold recomposeFrom
  split
  · rename_i g leads
    refine (RoomsComposed.forEach recompose_composed _ t).congr fun q => ?_
    simp [leads]
  · rename_i alone
    refine (recompose_composed r t).congr fun q => ?_
    simp [alone]

/-- The lead of a joined suite is its first member (R87, R169). -/
theorem leads_some {t : State} {r : RoomId} {g : SuiteId} : t.leads r = some g ↔
    ((t.room r).state = .joined ∧ (t.room r).suite = some g) ∧ (t.members g).head? = some r := by
  rw [State.leads, Option.bind_eq_some_iff, ← joinedSuite_some]
  constructor
  · rintro ⟨k, joined, head⟩
    split at head
    · rename_i first
      obtain rfl := Option.some.inj head
      exact ⟨joined, first⟩
    · cases head
  · exact fun ⟨joined, first⟩ => ⟨g, joined, if_pos first⟩

theorem roomReloaded_members (g : SuiteId) : (roomReloaded x s).members g = s.members g := by
  have suites := congrArg Re.suites (roomReloaded_re x s)
  rw [State.members, State.suite, suites]
  rfl

theorem roomReloaded_room (q : RoomId) : (roomReloaded x s).room q = if q = x.room then
    { s.room x.room with cfg := x.cfg, aboveCapacity := decide (x.cfg.capacity < (s.room x.room).head) } else s.room q := by
  rw [room_of_re (roomReloaded_re x s)]
  split
  · rename_i here
    rw [here, room_onRoom]
  · rename_i ne
    rw [room_onRoom_ne ne]

theorem roomReloaded_leads : (roomReloaded x s).leads x.room = s.leads x.room := by
  refine Option.ext fun g => ?_
  rw [leads_some, leads_some, roomReloaded_members, roomReloaded_room, if_pos rfl]

/-- The rooms that take targets from the room's configuration. -/
def State.takesFrom (s : State) (r q : RoomId) : Prop :=
  (∃ g, s.leads r = some g ∧ q ∈ s.members g) ∨ (s.leads r = none ∧ q = r)

theorem takesFrom_self (r : RoomId) : s.takesFrom r r := by
  cases leads : s.leads r with
  | none => exact .inr ⟨leads, rfl⟩
  | some g =>
    obtain ⟨-, first⟩ := leads_some.mp leads
    exact .inl ⟨g, leads, List.mem_of_head? first⟩

variable {s} in
theorem takesFrom_cases {r q : RoomId} (takes : s.takesFrom r q) : q = r ∨ ∃ g y, (s.room r).suite = some g ∧
    s.suite g = some y ∧ y.members.head? = some r ∧ q ∈ y.members := by
  obtain ⟨g, leads, mem⟩ | ⟨-, here⟩ := takes
  · obtain ⟨⟨-, named⟩, first⟩ := leads_some.mp leads
    cases held : s.suite g with
    | none =>
      rw [State.members, held] at mem
      cases mem
    | some y =>
      rw [members_of_suite held] at mem first
      exact .inr ⟨g, y, named, held, first, mem⟩
  · exact .inl here

theorem reloadRoom_composes : Composes (fun _ => False) (s.takesFrom x.room) s (reloadRoom x s) := by
  have clears : Clears (fun _ => False) s (roomReloaded x s) :=
    (overcrowdTest_clears x.room _).after_none (.of_same (fun _ => rfl) (fun _ => rfl) fun _ => rfl)
  rw [reloadRoom_eq]
  refine (Composes.of_clears clears (recomposeFrom_composed x.room _)).ends.congr (fun _ => Iff.rfl) fun q => ?_
  simp only [State.takesFrom, roomReloaded_leads, roomReloaded_members]

theorem recomposeFrom_only (r : RoomId) (t : State) : OnlyActuation t (recomposeFrom r t) := (recomposeFrom_composed r t).only

theorem reloadRoom_work : RoomWork (writeNotice x (onRoom x.room (fun y => { y with cfg := x.cfg }) s)) (reloadRoom x s) :=
  (overcrowdTest_work ..).trans ((RoomWork.of_only (recomposeFrom_only ..)).trans (endEvent_work _))

theorem reloadRoom_re : (reloadRoom x s).re = (roomReloaded x s).re := by
  rw [reloadRoom_eq, endEvent_re, (recomposeFrom_only ..).re]

variable {x s} in
theorem reloadRoom_raises (loaded : (s.room x.room).state ≠ .off) : Raises (fun c q => q = x.room ∧ c = .overcrowd ∧
    x.cfg.capacity < (s.room x.room).head ∧ (s.room x.room).aboveCapacity = false) (writeNotice x s) (reloadRoom x s) := by
  have room : (writeNotice x (onRoom x.room (fun y => { y with cfg := x.cfg }) s)).room x.room =
      { s.room x.room with cfg := x.cfg } := room_onRoom x.room (fun y => { y with cfg := x.cfg }) s
  have tested := overcrowdTest_raises (r := x.room) (s := writeNotice x (onRoom x.room (fun y => { y with cfg := x.cfg }) s))
    (by rw [room]; exact loaded)
  rw [Room.crowds, room] at tested
  have written : Raises (fun _ _ => False) (writeNotice x s)
      (writeNotice x (onRoom x.room (fun y => { y with cfg := x.cfg }) s)) := .of_same fun _ => rfl
  rw [reloadRoom_eq]
  exact ((tested.after_none written).then_none (recomposeFrom_only x.room _).raises).then_none (endEvent_raises _)

end

/-- What either case of LOAD ROOM hands to NU (R173). -/
theorem writeNotice_handed {x : RoomLoad} {s u : State} (frame : (u.notice x.room).frame = ((writeNotice x s).notice x.room).frame) :
    (u.notice x.room).notify = x.notify ∧ (u.notice x.room).cls = x.cls ∧ (u.notice x.room).tag = x.tag := by
  rw [writeNotice_notice] at frame
  exact ⟨congrArg RoomNotice.notify frame, congrArg RoomNotice.cls frame, congrArg RoomNotice.tag frame⟩

theorem loadRoom_off {ps : List Byte} {x : RoomLoad} {s : State} (parsed : roomLoad ps = .ok x)
    (off : (s.room x.room).state = .off) : loadRoom ps s = .ok (roomIntoService x s, []) := by
  simp [loadRoom, parsed, off, bind, Except.bind, pure, Except.pure]

theorem loadRoom_loaded {ps : List Byte} {x : RoomLoad} {s : State} (parsed : roomLoad ps = .ok x)
    (loaded : (s.room x.room).state ≠ .off) : loadRoom ps s = .ok (reloadRoom x s, []) := by
  simp [loadRoom, parsed, loaded, bind, Except.bind, pure, Except.pure]

/-- Settles O27, by the two cases of LOAD ROOM. -/
theorem loadRoomConfiguresTheRoom : Obligations.LoadRoomConfiguresTheRoom := by
  intro s tag ps x takes parsed found
  by_cases off : (s.room x.room).state = .off
  · have work := roomIntoService_work x (dropFrame s)
    have composes := (roomIntoService_composes x (dropFrame s)).of_earlier
      (s := onAir x.room (fun _ => RoomAir.initial) s) (fun _ => rfl) (fun _ => rfl) fun _ => rfl
    have raises := roomIntoService_raises x (dropFrame s)
    have rooms := roomIntoService_room x (dropFrame s)
    have tu := roomIntoService_tu x (dropFrame s)
    have state : ((roomIntoService x (dropFrame s)).room x.room).state = .run (foundInService x (dropFrame s)).2.1.place := by
      rw [rooms, if_pos rfl]
    obtain ⟨notify, cls, handed⟩ := writeNotice_handed (s := dropFrame s) (work.notices x.room)
    refine ⟨_, request_done rfl takes (loadRoom_off (s := dropFrame s) parsed off), notify, cls, handed,
      fun empty => ⟨?_, ?_, raises.told _ _ ⟨rfl, rfl⟩⟩, fun loaded => absurd off loaded,
      fun _ => composes.recomposed _ rfl, fun loaded => absurd off loaded, fun _ vacant => composes.cleared _ ⟨rfl, ?_⟩,
      fun either => composes.keepsOverrides ?_, fun n other => composes.kept n fun e entry named => other e entry named.1,
      fun n e entry other => ?_, fun q ne => ⟨?_, ?_, ?_⟩,
      roomIntoService_suites x _, work.pu, work.cl, (congrArg Tu.store tu :), work.queue.2, work.lines, work.plans⟩
    · have alone : ((dropFrame s).room x.room).suite = none := congrArg Room.suite empty
      rw [rooms, if_pos rfl, foundInService_eq alone]
      rfl
    · have alone : ((dropFrame s).room x.room).suite = none := congrArg Room.suite empty
      rw [State.time, tu, ← State.time, time_onTime, foundInService_eq alone]
      rfl
    · exact RoomState.run.inj (state.symm.trans vacant)
    · rintro q ⟨-, vacant⟩
      exact either.elim (fun loaded => loaded off) fun other => other (state.trans (congrArg RoomState.run vacant))
    · exact composes.spared n fun e' entry' =>
        Option.some.inj (entry.symm.trans entry') ▸ ⟨fun here => other (.inl here), fun here => other (.inl here.1)⟩
    · rw [rooms, if_neg ne]; rfl
    · rw [State.time, tu, ← State.time, time_onTime_ne ne]; rfl
    · rw [raises.untouched q fun c named => ne named.2, writeNotice_notice_ne x _ ne]; rfl
  · have work := reloadRoom_work x (dropFrame s)
    have composes := (reloadRoom_composes x (dropFrame s)).of_earlier (s := s) (fun _ => rfl) (fun _ => rfl) fun _ => rfl
    have raises := reloadRoom_raises (x := x) (s := dropFrame s) off
    have re := reloadRoom_re x (dropFrame s)
    have rooms (q : RoomId) := (room_of_re re q).trans (roomReloaded_room x (dropFrame s) q)
    obtain ⟨notify, cls, handed⟩ := writeNotice_handed (s := dropFrame s) (work.notices x.room)
    refine ⟨_, request_done rfl takes (loadRoom_loaded (s := dropFrame s) parsed off), notify, cls, handed,
      fun empty => absurd (congrArg Room.state empty) off, fun _ => ⟨?_, work.tu, ?_, ?_⟩, fun empty => absurd empty off,
      fun _ => ⟨composes.recomposed _ (takesFrom_self _ _), ?_⟩, fun empty => absurd empty off,
      fun _ => composes.keepsOverrides fun _ => id, fun n _ => composes.kept n fun _ _ => id,
      composes.keepsPlansBut fun q named => ?_, fun q ne => ⟨?_, ?_, ?_⟩, ?_, work.pu, work.cl, congrArg Tu.store work.tu, work.queue.2,
      work.lines, work.plans⟩
    · rw [rooms, if_pos rfl]; rfl
    · exact fun above fresh => raises.told _ _ ⟨rfl, rfl, above, fresh⟩
    · intro within
      have same := raises.untouched x.room fun c named => absurd named.2.2.1 (Nat.not_lt.mpr within)
      rw [same, writeNotice_notice]
      exact ⟨rfl, rfl⟩
    · intro g y joined named held first q mem
      have members := members_of_suite held
      exact composes.recomposed q (.inl ⟨g, leads_some.mpr ⟨⟨joined, named⟩, by rw [← first, ← members]; rfl⟩, members ▸ mem⟩)
    · exact (named.elim takesFrom_cases False.elim)
    · rw [rooms, if_neg ne]; rfl
    · rw [State.time, work.tu]; rfl
    · rw [raises.untouched q fun c named => ne named.1, writeNotice_notice_ne x _ ne]; rfl
    · rw [re, roomReloaded_re]; rfl

end Sys2Proof.Machine
end
